-- ==== Sys2Proof/Word.lean ====
section
/-! DEFINITION. The word types of the E8 (spec/00_scope.md R2, R5; spec/09_cells.md R176). -/
namespace Sys2Proof

/-- A byte of memory (R5). -/
abbrev Byte := BitVec 8

/-- A 64-bit value: a scalar register, a register of the BAR0 space, a word of memory. -/
abbrev Word := BitVec 64

/-- A scalar register number, g0 to g63 (R277). -/
abbrev GReg := BitVec 6

/-- A 64-byte line (R4). -/
abbrev Line := BitVec 512

end Sys2Proof
end

