-- ==== Sys2Proof/Config.lean ====
section
/-! DEFINITION. What the spec leaves open or an implementation fixes, as constants without a body: no proof can see a
value of theirs (notes/assumptions/9.md, 11.md, 12.md). -/
namespace Sys2Proof

/-- The n-th free value of the machine: keys, session keys, boot nonces, tokens and every other value that the spec
does not fix (R32, R35, R59, R255; DESIGN CHOICE, log 11). -/
opaque Config.freeWord : Nat → Word

/-- SHAKE256 with an output of 512 bits, a standard the spec names (R21, R22, R26; DESIGN CHOICE, log 9). -/
opaque Config.shake256 : List Byte → BitVec 512

/-- Verification of a Falcon-1024 signature: public key of 1,793 bytes, message, signature (R21, R22; DESIGN CHOICE, log 9). -/
opaque Config.falconVerify : List Byte → List Byte → List Byte → Bool

/-- The device's signature of an attestation report, 1,280 bytes in padded form (R24, R26; DESIGN CHOICE, log 9). -/
opaque Config.falconSign : List Byte → BitVec 10240

/-- The device's identity public key, 1,793 bytes (R21, R24; DESIGN CHOICE, log 9). -/
opaque Config.identityKey : BitVec 14344

/-- Root-key digest `i` of the four fused at manufacture (R22; DESIGN CHOICE, log 9). -/
opaque Config.rootDigest : Nat → BitVec 512

/-- Whether the revocation fuse of root key `i` is blown (R22; DESIGN CHOICE, log 9). -/
opaque Config.rootRevoked : Nat → Bool

/-- The serial number (R26; DESIGN CHOICE, log 9). -/
opaque Config.serial : Word

/-- AES-256 in XTS mode under the data key of a number, with the tweak HPA[39:6]: the ciphertext of a line (R32; DESIGN
CHOICE, log 10). -/
opaque Config.xts : (key : Nat) → (tweak : BitVec 34) → Line → Line

/-- AES-256-CMAC under the integrity key of a number, truncated to 56 bits, over the ciphertext, HPA[39:6] and the full/empty
byte (R33; DESIGN CHOICE, log 10). -/
opaque Config.cmac : (key : Nat) → (cipher : Line) → (tweak : BitVec 34) → (fe : BitVec 8) → BitVec 56

/-- The GCM tag of a link frame under the session key of a number and its nonce (R35; DESIGN CHOICE, log 10). -/
opaque Config.gcm : (session : Nat) → (nonce : BitVec 96) → (frame : List Byte) → BitVec 128

/-- The peer window slot of a number that another device's thread, known by its gid, has in its own device (R69, R185; DESIGN CHOICE, log 16). -/
opaque Config.farSlot : (gid : Word) → (slot : Nat) → Word

/-- The 64 bytes of a link control flit: an idle one, one of the eight totals, one that disables the port; the spec gives no
layout (R47, R53, R54; DESIGN CHOICE, log 21). -/
opaque Config.linkFlit : (totals : Option (List (BitVec 48))) → (disable : Bool) → Line

/-- Whether a fetch from a range stored to and not invalidated gives the old bundle: a free choice by count (R237;
DESIGN CHOICE, log 12). -/
opaque Config.fetchOld : Nat → Bool

end Sys2Proof
end

