-- ==== Sys2Proof/Wire.lean ====
section
/-! DEFINITION. The records that travel between agents: packets, bursts, light contexts, trap frames, delta tiles
(spec/03 R47, R60 to R62; spec/09 R184; spec/12 R255; spec/04 R82, R91; spec/08 R161; spec/05 R106).
A record is held by its fields; the byte layouts that software can see are written out in Machine/Layout.lean. -/
namespace Sys2Proof

/-- The access descriptor of a peer request (R62). `zeroOk` is false when one of its zero fields is nonzero. -/
structure Desc where
  rwin : BitVec 16
  group : BitVec 16
  offset : BitVec 40
  sz : BitVec 2
  acq : Bool
  rel : Bool
  sc : BitVec 2
  op : BitVec 4
  slot : BitVec 4
  cid : BitVec 6
  mask : BitVec 64
  zeroOk : Bool
  deriving DecidableEq, Repr

/-- A fabric packet: the header fields of R60, the access descriptor where its kind carries one, and its payload as
64-bit words (R61). -/
structure Packet where
  seq : BitVec 16
  kind : BitVec 8
  len : BitVec 6
  ddie : BitVec 3
  sdie : BitVec 3
  ddev : BitVec 11
  sdev : BitVec 11
  via : BitVec 11
  nm : Bool
  ph : Bool
  budget : BitVec 3
  hop : BitVec 3
  user : Bool
  poison : Bool
  cause : BitVec 4
  ks : BitVec 45
  desc : Option Desc
  pay : List Word
  deriving DecidableEq, Repr

/-- A flit on a port (R47): flit `i` of a packet, or a link control flit: with the eight totals (R54), with DISABLE (R53), or
in a place that nothing needs. -/
inductive Flit where
  | part (p : Packet) (i : Nat)
  | totals (ts : List (BitVec 48))
  | disable
  | idle
  deriving DecidableEq, Repr

/-- A burst (R47): its eight flits and the control field, CFLIT apart, which the flits give, and CRC0 and CRC1 as its sender computed them. -/
structure Burst where
  bseq : BitVec 12
  aseq : BitVec 12
  nak : Bool
  flits : List Flit
  crc0 : BitVec 32
  crc1 : BitVec 32
  deriving DecidableEq, Repr

/-- The light context of a thread (R184). -/
structure LightCtx where
  g : List Word
  pc : Word
  f : List Word
  gid : Word
  cls : BitVec 2
  eff : BitVec 2
  st : BitVec 8
  full : BitVec 48
  lk : Word
  deriving DecidableEq, Repr

/-- A replay entry of a trap frame (R255). -/
structure REntry where
  inst : Word
  slot : BitVec 2
  perf : Bool
  fault : Bool
  action : Bool
  pc : Word
  opA : Word
  opB : Word
  opC : Word
  addr : Word
  result : Word
  deriving DecidableEq, Repr

/-- A trap frame (R255) or a notification (R260). -/
structure Frame where
  ctx : LightCtx
  cause : BitVec 8
  faultIdx : BitVec 4
  pcause : BitVec 8
  deferred : Bool
  dead : Bool
  notify : Bool
  gang : Bool
  lane : BitVec 3
  glanes : BitVec 8
  faddr : Word
  fpc : Word
  origin : Word
  tb : Word
  token : Word
  entries : List REntry
  deriving DecidableEq, Repr

/-- A COPYDATA packet (R161): one run of consecutive destination lines of one record. -/
structure CopyPkt where
  hdr : Packet
  ctrl : Word
  compl : Word
  tag : Word
  masks : List (BitVec 64)
  lines : List Line
  deriving DecidableEq, Repr

/-- What a DIGEST carries for one declared object: its SEEN row and its F row over the member entries (R91). -/
structure DigestObj where
  obj : Nat
  seen : List Nat
  front : List Nat
  deriving DecidableEq, Repr

/-- A gossip DIGEST (R91). -/
structure Digest where
  group : Nat
  sender : Nat
  hlc : Word
  heard : List Word
  objs : List DigestObj
  deriving DecidableEq, Repr

/-- A delta tile: the header of R82 and its element data as bytes. `zeroOk` is false when a zero field is nonzero. -/
structure DeltaTile where
  obj : Nat
  typ : Nat
  fmt : Nat
  clip : Bool
  tile : Nat
  contrib : Nat
  dlen : Nat
  seq : Nat
  parts : Nat
  count : Nat
  hlc : Word
  zeroOk : Bool
  data : List Byte
  deriving DecidableEq, Repr

/-- A delta group: the tiles of one contributor under one sequence number (R82). -/
structure DeltaGroup where
  contrib : Nat
  seq : Nat
  tiles : List DeltaTile
  deriving DecidableEq, Repr

/-- The folded value of a replica (R79): element sums or values by element index, per-tile counts, CLIP flags and
LWW keys, and the entries (page, contributor, sequence number) of an AWSET. -/
structure BaseVal where
  elems : List (Nat × Int)
  counts : List (Nat × Nat)
  clips : List Nat
  stamps : List (Nat × Nat)
  dots : List (Nat × Nat × Nat)
  deriving DecidableEq, Repr

/-- The state a donor sends (R91, R94): BASE, SEEN, F and LOG of one object. -/
structure DonorState where
  obj : Nat
  sender : Nat
  base : BaseVal
  seen : List (Nat × Nat)
  front : List (Nat × Nat)
  log : List DeltaGroup
  deriving DecidableEq, Repr

/-- What a CALL packet carries (R106). -/
structure CallData where
  cseq : Nat
  op : Nat
  dtype : Nat
  red : Nat
  count : Nat
  d : Nat
  root : Nat
  deriving DecidableEq, Repr

/-- A message to a matrix unit (R191, R388): the sender, its capability, and the fields of its kind. `aTiles` and
`bTiles` hold the operand tiles as 4096-byte lists. -/
structure MatMsg where
  senderCell : Nat
  senderSlot : Nat
  kind : BitVec 2
  cap : Word
  second : Word
  c : BitVec 3
  sub : BitVec 2
  zero : Bool
  ext : BitVec 18
  ascale : Word
  bscale : Word
  aTiles : List (List Byte)
  bTiles : List (List Byte)
  deriving DecidableEq, Repr

/-- A trace record (R267) as its four words. -/
structure TraceRec where
  w0 : Word
  gid : Word
  tb : Word
  pc : Word
  deriving DecidableEq, Repr

/-- What the access is for which a context migrates (R185): the bundle at the context's pc says it, not its descriptor. -/
inductive MigAcc where
  | load | sync | atom
  deriving DecidableEq, Repr

/-- A context that arrives at a Dahlia core (R37, R184): one of this device's own threads, named by its cell and its
slot, or a context of another device with its home, its access and the descriptor of that. -/
inductive Migrant where
  | own (cell slot : Nat)
  | peer (sdev : BitVec 11) (sdie : BitVec 3) (cid : BitVec 6) (slot : BitVec 4) (ctx : LightCtx) (acc : MigAcc) (desc : Desc)
  deriving DecidableEq, Repr

end Sys2Proof
end

