-- ==== Sys2Proof/Syntax.lean ====
section
/-! DEFINITION. The instructions and events of the E8: one constructor for each row of spec/opcode_table.json.
The encoded instructions carry the fields of their encoding (spec/13_isa_encoding.md R274 to R277) at the field's own
width; a field that the spec requires to be zero is no argument. An event carries what the outside or another agent
brings to it: the die, partition, port or channel it concerns, and the data that arrives. -/
namespace Sys2Proof

/-- One constructor for each row of the opcode table, the encoded instructions first. -/
inductive Instr where
  /-- BR (R305): Branches pc-relative. -/
  | br (o : BitVec 20)
  /-- CALL (R305): Writes the link and branches pc-relative. -/
  | call (o : BitVec 20)
  /-- BZ (R305): Branches when the register is zero. -/
  | bz (x : GReg) (o : BitVec 14)
  /-- BNZ (R305): Branches when the register is nonzero. -/
  | bnz (x : GReg) (o : BitVec 14)
  /-- JR (R305): Jumps to the address in a register. -/
  | jr (y : GReg)
  /-- JLR (R305): Jumps to a register address and writes the link. -/
  | jlr (x : GReg) (y : GReg)
  /-- REP (R306): Decrements a count and loops back n bundles while it is nonzero. -/
  | rep (x : GReg) (n : BitVec 12)
  /-- YIELD (R308): Makes the thread not ready for 16 cycles and lends its slot. -/
  | yield
  /-- DONE (R309): Ends the task on its lane once its long-latency instructions have completed. -/
  | done
  /-- SETPRI (R311): Sets the task's class within 1 to its descriptor class, and returns the old class. -/
  | setpri (x : GReg) (y : GReg)
  /-- TBAR (R310): Enters the task's next barrier round and waits until it completes. -/
  | tbar
  /-- LAUNCH (R312): Checks, releases and sends a graph header to a KIND 2 ring, returning the old PROD. -/
  | launch (x : GReg) (y : GReg) (z : GReg)
  /-- FILL (R303): Writes a register of another thread slot, or holds the value. -/
  | fill (y : GReg) (z : GReg)
  /-- LD (R325): Plain load with scaled immediate offset, zero-extended. -/
  | ld (la : BitVec 4) (x : GReg) (y : GReg) (sz : BitVec 2) (off : BitVec 6)
  /-- LDS (R325): Plain load with scaled immediate offset, sign-extended. -/
  | lds (la : BitVec 4) (x : GReg) (y : GReg) (sz : BitVec 2) (off : BitVec 6)
  /-- ST (R325): Plain posted store with scaled immediate offset. -/
  | st (x : GReg) (y : GReg) (sz : BitVec 2) (off : BitVec 6)
  /-- LDX (R325): Plain load with register index, zero-extended. -/
  | ldx (la : BitVec 4) (x : GReg) (y : GReg) (z : GReg) (sz : BitVec 2)
  /-- LDSX (R325): Plain load with register index, sign-extended. -/
  | ldsx (la : BitVec 4) (x : GReg) (y : GReg) (z : GReg) (sz : BitVec 2)
  /-- STX (R325): Plain posted store with register index. -/
  | stx (x : GReg) (y : GReg) (z : GReg) (sz : BitVec 2)
  /-- PF (R330): Loads a translation and starts a line's fill, with no other effect. -/
  | pf (y : GReg) (sz : BitVec 2) (off : BitVec 6)
  /-- FENCE (R329): Orders the thread's accesses as an acquire, release or full fence at a scope. -/
  | fence (k : BitVec 2) (sc : BitVec 2)
  /-- CINV (R331): Discards fetch-buffer bundles of a range across the partition. -/
  | cinv (y : GReg) (z : GReg)
  /-- MBWAIT (R337): Waits for a mailbox counter to reach a count, reads it and optionally subtracts. -/
  | mbwait (x : GReg) (y : GReg) (z : GReg) (m : BitVec 2)
  /-- MBREAD (R338): Reads a mailbox counter and acquires the bytes it counts. -/
  | mbread (la : BitVec 4) (x : GReg) (y : GReg)
  /-- BOWAIT (R340): Waits for a barrier object's phase to change, then acquires. -/
  | bowait (x : GReg) (y : GReg) (z : GReg) (sc : BitVec 2)
  /-- BOREAD (R341): Reads word 0 of a barrier object with acquire. -/
  | boread (la : BitVec 4) (x : GReg) (y : GReg) (sc : BitVec 2)
  /-- WMREAD (R335): Reads a channel's watermark and acquires the bytes below it. -/
  | wmread (la : BitVec 4) (x : GReg) (y : GReg)
  /-- NOPC (R283): C-slot no-operation. -/
  | nopc
  /-- ADD (R295): Integer add modulo 2^64. -/
  | add (d : GReg) (a : GReg) (b : GReg)
  /-- SUB (R295): Integer subtract. -/
  | sub (d : GReg) (a : GReg) (b : GReg)
  /-- MUL (R295): Low 64 bits of a product. -/
  | mul (d : GReg) (a : GReg) (b : GReg)
  /-- MULH (R295): High 64 bits of the signed product. -/
  | mulh (d : GReg) (a : GReg) (b : GReg)
  /-- MULHU (R295): High 64 bits of the unsigned product. -/
  | mulhu (d : GReg) (a : GReg) (b : GReg)
  /-- DIV (R295): Signed quotient truncated toward zero. -/
  | div (d : GReg) (a : GReg) (b : GReg)
  /-- DIVU (R295): Unsigned quotient. -/
  | divu (d : GReg) (a : GReg) (b : GReg)
  /-- REM (R295): Signed remainder. -/
  | rem (d : GReg) (a : GReg) (b : GReg)
  /-- REMU (R295): Unsigned remainder. -/
  | remu (d : GReg) (a : GReg) (b : GReg)
  /-- AND (R295): Bitwise and. -/
  | and (d : GReg) (a : GReg) (b : GReg)
  /-- OR (R295): Bitwise or. -/
  | or (d : GReg) (a : GReg) (b : GReg)
  /-- XOR (R295): Bitwise exclusive or. -/
  | xor (d : GReg) (a : GReg) (b : GReg)
  /-- ANDN (R295): a and not b. -/
  | andn (d : GReg) (a : GReg) (b : GReg)
  /-- SHL (R295): Shift left. -/
  | shl (d : GReg) (a : GReg) (b : GReg)
  /-- SHR (R295): Logical shift right. -/
  | shr (d : GReg) (a : GReg) (b : GReg)
  /-- SRA (R295): Arithmetic shift right. -/
  | sra (d : GReg) (a : GReg) (b : GReg)
  /-- ROL (R295): Rotate left. -/
  | rol (d : GReg) (a : GReg) (b : GReg)
  /-- ROR (R295): Rotate right. -/
  | ror (d : GReg) (a : GReg) (b : GReg)
  /-- MIN (R295): Signed minimum. -/
  | min (d : GReg) (a : GReg) (b : GReg)
  /-- MAX (R295): Signed maximum. -/
  | max (d : GReg) (a : GReg) (b : GReg)
  /-- MINU (R295): Unsigned minimum. -/
  | minu (d : GReg) (a : GReg) (b : GReg)
  /-- MAXU (R295): Unsigned maximum. -/
  | maxu (d : GReg) (a : GReg) (b : GReg)
  /-- ADDSC (R295): a plus b shifted left by FN. -/
  | addsc (d : GReg) (a : GReg) (b : GReg) (s : BitVec 6)
  /-- SEL (R295): Selects a or b by the register named in FN. -/
  | sel (d : GReg) (a : GReg) (b : GReg) (c : GReg)
  /-- CLZ (R295): Count of leading zero bits. -/
  | clz (d : GReg) (a : GReg)
  /-- CTZ (R295): Count of trailing zero bits. -/
  | ctz (d : GReg) (a : GReg)
  /-- POPC (R295): Count of one bits. -/
  | popc (d : GReg) (a : GReg)
  /-- BSWAP (R295): Reverses byte order. -/
  | bswap (d : GReg) (a : GReg)
  /-- BEXT (R295): Extracts a bit field of width FN+1. -/
  | bext (d : GReg) (a : GReg) (b : GReg) (w : BitVec 6)
  /-- BINS (R295): Inserts a bit field into d. -/
  | bins (d : GReg) (a : GReg) (b : GReg) (w : BitVec 6)
  /-- SEXT (R295): Sign-extends from bit FN. -/
  | sext (d : GReg) (a : GReg) (n : BitVec 6)
  /-- ADDI (R296): Adds a signed immediate. -/
  | addi (d : GReg) (a : GReg) (i : BitVec 12)
  /-- ANDI (R296): And with an immediate. -/
  | andi (d : GReg) (a : GReg) (i : BitVec 12)
  /-- ORI (R296): Or with an immediate. -/
  | ori (d : GReg) (a : GReg) (i : BitVec 12)
  /-- XORI (R296): Exclusive or with an immediate. -/
  | xori (d : GReg) (a : GReg) (i : BitVec 12)
  /-- SHLI (R296): Shift left by an immediate. -/
  | shli (d : GReg) (a : GReg) (i : BitVec 12)
  /-- SHRI (R296): Logical shift right by an immediate. -/
  | shri (d : GReg) (a : GReg) (i : BitVec 12)
  /-- SRAI (R296): Arithmetic shift right by an immediate. -/
  | srai (d : GReg) (a : GReg) (i : BitVec 12)
  /-- MULI (R296): Multiply by an immediate. -/
  | muli (d : GReg) (a : GReg) (i : BitVec 12)
  /-- CMP (R278): Integer register compare by COND, with optional skip. -/
  | cmp (d : GReg) (a : GReg) (b : GReg) (k : BitVec 2) (c : BitVec 4)
  /-- CMPI (R278): Integer immediate compare by COND, with optional skip. -/
  | cmpi (d : GReg) (a : GReg) (i : BitVec 6) (k : BitVec 2) (c : BitVec 4)
  /-- FCMP (R278): FP32 compare by COND, with optional skip. -/
  | fcmp (d : GReg) (a : GReg) (b : GReg) (k : BitVec 2) (c : BitVec 4)
  /-- FCMPD (R278): FP64 compare by COND, with optional skip. -/
  | fcmpd (d : GReg) (a : GReg) (b : GReg) (k : BitVec 2) (c : BitVec 4)
  /-- TAKE (R301): Waits for a register to be full, reads it and sets it empty. -/
  | take (d : GReg) (a : GReg)
  /-- MKEMPTY (R301): Sets a register empty. -/
  | mkempty (d : GReg)
  /-- MKFULL (R301): Sets a register full. -/
  | mkfull (d : GReg)
  /-- ISFULL (R301): Tests whether a register is full, without parking. -/
  | isfull (d : GReg) (a : GReg)
  /-- FADD (R298): Floating add, rounded in RM. -/
  | fadd (d : GReg) (a : GReg) (b : GReg) (r : BitVec 3) (f : BitVec 2)
  /-- FSUB (R298): Floating subtract. -/
  | fsub (d : GReg) (a : GReg) (b : GReg) (r : BitVec 3) (f : BitVec 2)
  /-- FMUL (R298): Floating multiply. -/
  | fmul (d : GReg) (a : GReg) (b : GReg) (r : BitVec 3) (f : BitVec 2)
  /-- FDIV (R298): Floating divide. -/
  | fdiv (d : GReg) (a : GReg) (b : GReg) (r : BitVec 3) (f : BitVec 2)
  /-- FSQRT (R298): Correctly rounded square root. -/
  | fsqrt (d : GReg) (a : GReg) (r : BitVec 3) (f : BitVec 2)
  /-- FMA (R298): Fused multiply-add into d, rounded once. -/
  | fma (d : GReg) (a : GReg) (b : GReg) (r : BitVec 3) (f : BitVec 2)
  /-- FMIN (R298): Floating minimum with −0 < +0. -/
  | fmin (d : GReg) (a : GReg) (b : GReg) (f : BitVec 2)
  /-- FMAX (R298): Floating maximum with −0 < +0. -/
  | fmax (d : GReg) (a : GReg) (b : GReg) (f : BitVec 2)
  /-- FABS (R298): Clears the sign bit. -/
  | fabs (d : GReg) (a : GReg) (f : BitVec 2)
  /-- FNEG (R298): Inverts the sign bit. -/
  | fneg (d : GReg) (a : GReg) (f : BitVec 2)
  /-- FCVT (R298): Converts between floating formats. -/
  | fcvt (d : GReg) (a : GReg) (g : BitVec 2) (r : BitVec 3) (f : BitVec 2)
  /-- FCVTI (R299): Converts a float to an integer type, saturating. -/
  | fcvti (d : GReg) (a : GReg) (t : BitVec 6) (r : BitVec 3) (f : BitVec 2)
  /-- ICVTF (R299): Converts an integer type to a float. -/
  | icvtf (d : GReg) (a : GReg) (t : BitVec 6) (r : BitVec 3) (f : BitVec 2)
  /-- FCLASS (R300): Classifies a float with one bit set. -/
  | fclass (d : GReg) (a : GReg) (f : BitVec 2)
  /-- FEXP2 (R298): Correctly rounded 2 to the power a. -/
  | fexp2 (d : GReg) (a : GReg) (r : BitVec 3) (f : BitVec 2)
  /-- NOPA (R283): A-slot no-operation. -/
  | nopa
  /-- LDI (R297): Loads a sign-extended 32-bit immediate. -/
  | ldi (x : GReg) (i : BitVec 32)
  /-- LDIH (R297): Replaces the high 32 bits with an immediate. -/
  | ldih (x : GReg) (i : BitVec 32)
  /-- TRAP (R313): Raises SYSCALL with the immediate in FADDR. -/
  | trap (e : BitVec 26)
  /-- TRET (R314): Returns a frame from the trap queue to its origin and reports the result code. -/
  | tret (x : GReg) (y : GReg)
  /-- RDPR (R316): Reads a BAR0 register of the device under PRIV.RD. -/
  | rdpr (la : BitVec 4) (x : GReg) (y : GReg) (e : BitVec 26)
  /-- WRPR (R316): Releases and writes a BAR0 register under PRIV.WR. -/
  | wrpr (y : GReg) (z : GReg) (e : BitVec 26)
  /-- CBANK (R317): Reads, and optionally writes, the cell's CBANK. -/
  | cbank (x : GReg) (y : GReg) (we : Bool)
  /-- RDTB (R318): Reads TBCNT or DSKEW of the home die. -/
  | rdtb (x : GReg) (sel : BitVec 2)
  /-- LD_LONE (R325): Load with 19-bit offset, sign option, and acquire class and scope. -/
  | ldLone (la : BitVec 4) (x : GReg) (y : GReg) (sz : BitVec 2) (acq : Bool) (sc : BitVec 2) (sgn : Bool) (off : BitVec 19)
  /-- ST_LONE (R325): Store with 19-bit offset and release class and scope. -/
  | stLone (x : GReg) (y : GReg) (sz : BitVec 2) (rel : Bool) (sc : BitVec 2) (off : BitVec 19)
  /-- LDSY (R326): Consuming load that waits for full, reads and sets empty. -/
  | ldsy (la : BitVec 4) (x : GReg) (y : GReg) (sc : BitVec 2) (off : BitVec 19)
  /-- STSY (R326): Producing store that waits for empty, writes and sets full. -/
  | stsy (x : GReg) (y : GReg) (sc : BitVec 2) (off : BitVec 19)
  /-- AADD (R328): Atomic add. -/
  | aadd (la : BitVec 4) (x : GReg) (y : GReg) (z : GReg) (sz : BitVec 2) (acq : Bool) (rel : Bool) (sc : BitVec 2) (off : BitVec 19)
  /-- AAND (R328): Atomic and. -/
  | aand (la : BitVec 4) (x : GReg) (y : GReg) (z : GReg) (sz : BitVec 2) (acq : Bool) (rel : Bool) (sc : BitVec 2) (off : BitVec 19)
  /-- AOR (R328): Atomic or. -/
  | aor (la : BitVec 4) (x : GReg) (y : GReg) (z : GReg) (sz : BitVec 2) (acq : Bool) (rel : Bool) (sc : BitVec 2) (off : BitVec 19)
  /-- AXOR (R328): Atomic exclusive or. -/
  | axor (la : BitVec 4) (x : GReg) (y : GReg) (z : GReg) (sz : BitVec 2) (acq : Bool) (rel : Bool) (sc : BitVec 2) (off : BitVec 19)
  /-- AMIN (R328): Atomic signed minimum. -/
  | amin (la : BitVec 4) (x : GReg) (y : GReg) (z : GReg) (sz : BitVec 2) (acq : Bool) (rel : Bool) (sc : BitVec 2) (off : BitVec 19)
  /-- AMAX (R328): Atomic signed maximum. -/
  | amax (la : BitVec 4) (x : GReg) (y : GReg) (z : GReg) (sz : BitVec 2) (acq : Bool) (rel : Bool) (sc : BitVec 2) (off : BitVec 19)
  /-- AMINU (R328): Atomic unsigned minimum. -/
  | aminu (la : BitVec 4) (x : GReg) (y : GReg) (z : GReg) (sz : BitVec 2) (acq : Bool) (rel : Bool) (sc : BitVec 2) (off : BitVec 19)
  /-- AMAXU (R328): Atomic unsigned maximum. -/
  | amaxu (la : BitVec 4) (x : GReg) (y : GReg) (z : GReg) (sz : BitVec 2) (acq : Bool) (rel : Bool) (sc : BitVec 2) (off : BitVec 19)
  /-- ASWP (R328): Atomic swap. -/
  | aswp (la : BitVec 4) (x : GReg) (y : GReg) (z : GReg) (sz : BitVec 2) (acq : Bool) (rel : Bool) (sc : BitVec 2) (off : BitVec 19)
  /-- ACAS (R328): Atomic compare-and-swap. -/
  | acas (la : BitVec 4) (x : GReg) (y : GReg) (z : GReg) (w : GReg) (sz : BitVec 2) (acq : Bool) (rel : Bool) (sc : BitVec 2) (off : BitVec 19)
  /-- BMOVE (R332): Copies elements in ascending address, keeping its state in three registers. -/
  | bmove (x : GReg) (y : GReg) (z : GReg) (sz : BitVec 2) (acq : Bool) (rel : Bool) (sc : BitVec 2)
  /-- CPSUB (R334): Submits a copy chain to a channel's shadow set and returns a code. -/
  | cpsub (la : BitVec 4) (x : GReg) (y : GReg) (z : GReg) (wait : Bool)
  /-- BMV (R342): Submits a bank-side matrix-vector command block. -/
  | bmv (la : BitVec 4) (x : GReg) (y : GReg)
  /-- COLL (R360): Checks, releases and appends a collective parameter block to a KIND 1 ring. -/
  | coll (la : BitVec 4) (x : GReg) (y : GReg) (z : GReg)
  /-- CWAIT (R361): Waits for or polls a collective completion record with acquire. -/
  | cwait (x : GReg) (y : GReg) (z : GReg) (poll : Bool)
  /-- BOINIT (R341): Sets a barrier object's EXPECT and zeroes ACC. -/
  | boinit (y : GReg) (z : GReg)
  /-- MBSET (R338): Swaps a value into a mailbox counter. -/
  | mbset (x : GReg) (y : GReg) (z : GReg)
  /-- MARM (R362): Arms or disarms an Aster channel from an arm block. -/
  | marm (y : GReg) (z : GReg)
  /-- MREF (R364): Sets or clears a monitor's reference, bound and owner. -/
  | mref (y : GReg) (z : GReg) (w : GReg) (en : Bool)
  /-- MREAD (R367): Reads a monitor's LAST, live ACC or flags. -/
  | mread (la : BitVec 4) (x : GReg) (y : GReg) (what : BitVec 2)
  /-- RADD (R350): Contributes to a PCSUM object. -/
  | radd (la : BitVec 4) (x : GReg) (y : GReg) (w : GReg) (n1 : BitVec 13) (s : Bool)
  /-- RMAX (R350): Contributes to a MAXREG object. -/
  | rmax (la : BitVec 4) (x : GReg) (y : GReg) (w : GReg) (n1 : BitVec 13) (s : Bool)
  /-- RLWW (R351): Writes a whole LWWTILE tile under a stamp. -/
  | rlww (la : BitVec 4) (x : GReg) (y : GReg) (z : GReg) (w : GReg) (expl : Bool)
  /-- RSADD (R352): Adds a page to an AWSET with a fresh dot. -/
  | rsadd (la : BitVec 4) (x : GReg) (y : GReg) (z : GReg)
  /-- RSREM (R352): Removes every dot of a page present in the replica. -/
  | rsrem (la : BitVec 4) (x : GReg) (y : GReg) (z : GReg)
  /-- RSHAS (R354): Tests a page's presence in the fresh or stable set. -/
  | rshas (la : BitVec 4) (x : GReg) (y : GReg) (z : GReg) (stable : Bool)
  /-- RMEAN (R350): Contributes a sum and a count to a CMEAN object. -/
  | rmean (la : BitVec 4) (x : GReg) (y : GReg) (z : GReg) (w : GReg) (n1 : BitVec 13) (s : Bool)
  /-- RREAD (R353): Reads fresh or stable element values, rounded once. -/
  | rread (la : BitVec 4) (x : GReg) (y : GReg) (n1 : BitVec 13) (s : Bool) (stable : Bool) (rm : BitVec 3) (cnt : Bool)
  /-- RFRONT (R355): Reads a frontier or SEEN entry, the next sequence number, or the contributor id. -/
  | rfront (la : BitVec 4) (x : GReg) (y : GReg) (z : GReg) (sel : BitVec 2)
  /-- RSTAB (R356): Waits for or polls F of a contributor. -/
  | rstab (la : BitVec 4) (x : GReg) (y : GReg) (z : GReg) (w : GReg) (poll : Bool)
  /-- RHLC (R357): Reads, ticks or merges the die's hybrid logical clock. -/
  | rhlc (la : BitVec 4) (x : GReg) (z : GReg) (op : BitVec 2)
  /-- TLD (R371): Loads up to 32 rows into a tile register. -/
  | tld (la : BitVec 4) (td : BitVec 5) (gx : GReg) (sc : BitVec 2) (acq : Bool) (nrow1 : BitVec 5) (pitch : BitVec 12)
  /-- TST (R371): Stores up to 32 rows of a tile register. -/
  | tst (la : BitVec 4) (ta : BitVec 5) (gx : GReg) (sc : BitVec 2) (rel : Bool) (nrow1 : BitVec 5) (pitch : BitVec 12)
  /-- TMOV (R373): Copies a tile, or one row of it. -/
  | tmov (la : BitVec 4) (td : BitVec 5) (ta : BitVec 5) (row : Bool) (rd : BitVec 5) (ra : BitVec 5)
  /-- TFILL (R373): Fills a tile, or one row, with a scalar. -/
  | tfill (la : BitVec 4) (td : BitVec 5) (gx : GReg) (sz : BitVec 2) (row : Bool) (rd : BitVec 5)
  /-- VADD (R375): Element-wise add. -/
  | vadd (la : BitVec 4) (td : BitVec 5) (ta : BitVec 5) (tb : BitVec 5) (gx : GReg) (rm : BitVec 3) (te : BitVec 4) (sati : Bool) (bc : Bool)
  /-- VSUB (R375): Element-wise subtract. -/
  | vsub (la : BitVec 4) (td : BitVec 5) (ta : BitVec 5) (tb : BitVec 5) (gx : GReg) (rm : BitVec 3) (te : BitVec 4) (sati : Bool) (bc : Bool)
  /-- VMUL (R375): Element-wise multiply. -/
  | vmul (la : BitVec 4) (td : BitVec 5) (ta : BitVec 5) (tb : BitVec 5) (gx : GReg) (rm : BitVec 3) (te : BitVec 4) (sati : Bool) (bc : Bool)
  /-- VFMA (R375): Element-wise fused multiply-add. -/
  | vfma (la : BitVec 4) (td : BitVec 5) (ta : BitVec 5) (tb : BitVec 5) (tc : BitVec 5) (gx : GReg) (rm : BitVec 3) (te : BitVec 4) (sati : Bool) (bc : Bool)
  /-- VDIV (R375): Element-wise divide. -/
  | vdiv (la : BitVec 4) (td : BitVec 5) (ta : BitVec 5) (tb : BitVec 5) (gx : GReg) (rm : BitVec 3) (te : BitVec 4) (bc : Bool)
  /-- VSQRT (R375): Element-wise square root. -/
  | vsqrt (la : BitVec 4) (td : BitVec 5) (ta : BitVec 5) (rm : BitVec 3) (te : BitVec 4)
  /-- VMIN (R375): Element-wise minimum. -/
  | vmin (la : BitVec 4) (td : BitVec 5) (ta : BitVec 5) (tb : BitVec 5) (gx : GReg) (te : BitVec 4) (sati : Bool) (bc : Bool)
  /-- VMAX (R375): Element-wise maximum. -/
  | vmax (la : BitVec 4) (td : BitVec 5) (ta : BitVec 5) (tb : BitVec 5) (gx : GReg) (te : BitVec 4) (sati : Bool) (bc : Bool)
  /-- VEXP2 (R375): Element-wise 2 to the power a. -/
  | vexp2 (la : BitVec 4) (td : BitVec 5) (ta : BitVec 5) (rm : BitVec 3) (te : BitVec 4)
  /-- VABS (R375): Element-wise absolute value. -/
  | vabs (la : BitVec 4) (td : BitVec 5) (ta : BitVec 5) (te : BitVec 4) (sati : Bool)
  /-- VNEG (R375): Element-wise negation. -/
  | vneg (la : BitVec 4) (td : BitVec 5) (ta : BitVec 5) (te : BitVec 4) (sati : Bool)
  /-- VAND (R375): Element-wise and. -/
  | vand (la : BitVec 4) (td : BitVec 5) (ta : BitVec 5) (tb : BitVec 5) (gx : GReg) (te : BitVec 4) (bc : Bool)
  /-- VOR (R375): Element-wise or. -/
  | vor (la : BitVec 4) (td : BitVec 5) (ta : BitVec 5) (tb : BitVec 5) (gx : GReg) (te : BitVec 4) (bc : Bool)
  /-- VXOR (R375): Element-wise exclusive or. -/
  | vxor (la : BitVec 4) (td : BitVec 5) (ta : BitVec 5) (tb : BitVec 5) (gx : GReg) (te : BitVec 4) (bc : Bool)
  /-- VSHL (R375): Element-wise shift left. -/
  | vshl (la : BitVec 4) (td : BitVec 5) (ta : BitVec 5) (tb : BitVec 5) (gx : GReg) (te : BitVec 4) (bc : Bool)
  /-- VSHR (R375): Element-wise shift right. -/
  | vshr (la : BitVec 4) (td : BitVec 5) (ta : BitVec 5) (tb : BitVec 5) (gx : GReg) (te : BitVec 4) (arith : Bool) (bc : Bool)
  /-- VCVT (R379): Converts a tile between element formats by part. -/
  | vcvt (la : BitVec 4) (td : BitVec 5) (ta : BitVec 5) (rm : BitVec 3) (te : BitVec 4) (ste : BitVec 4) (part : BitVec 4)
  /-- VRSUM (R377): Sums each row, rounded once. -/
  | vrsum (la : BitVec 4) (td : BitVec 5) (ta : BitVec 5) (rm : BitVec 3) (te : BitVec 4)
  /-- VRMAX (R377): Takes the maximum of each row. -/
  | vrmax (la : BitVec 4) (td : BitVec 5) (ta : BitVec 5) (te : BitVec 4)
  /-- VTRANS (R378): Transposes tiles. -/
  | vtrans (la : BitVec 4) (td : BitVec 5) (ta : BitVec 5) (tb : BitVec 5) (te : BitVec 4) (h : Bool)
  /-- MXPACK (R381): Encodes FP32 rows into MX blocks and scales. -/
  | mxpack (la : BitVec 4) (td : BitVec 5) (ta : BitVec 5) (tc : BitVec 5) (rm : BitVec 3) (te : BitVec 4) (part : BitVec 3)
  /-- MXUNPK (R382): Decodes MX blocks to FP32. -/
  | mxunpk (la : BitVec 4) (td : BitVec 5) (ta : BitVec 5) (tc : BitVec 5) (rm : BitVec 3) (te : BitVec 4) (part : BitVec 3)
  /-- VSCAL (R380): Applies row and column scales into FP32. -/
  | vscal (la : BitVec 4) (td : BitVec 5) (ta : BitVec 5) (tb : BitVec 5) (tc : BitVec 5) (rm : BitVec 3) (te : BitVec 4)
  /-- MCFG (R383): Writes a resident matrix configuration. -/
  | mcfg (gx : GReg) (c : BitVec 3) (as : Bool) (bs : Bool) (fa : BitVec 2) (fb : BitVec 2)
  /-- MMUL (R385): Queues a matrix command on the cell's own unit. -/
  | mmul (la : BitVec 4) (ta : BitVec 5) (tb : BitVec 5) (gx : GReg) (c : BitVec 3) (sub : BitVec 2) (zero : Bool) (mode : BitVec 2)
  /-- MSEND (R388): Sends a command, configuration or accumulator copy to another cell's matrix unit under a capability. -/
  | msend (la : BitVec 4) (td : BitVec 5) (ta : BitVec 5) (tb : BitVec 5) (gx : GReg) (c : BitVec 3) (sub : BitVec 2) (zero : Bool) (kind : BitVec 2) (ext : BitVec 18)
  /-- ACGET (R389): Copies an accumulator block into a tile. -/
  | acget (la : BitVec 4) (td : BitVec 5) (rm : BitVec 3) (te : BitVec 4) (row : BitVec 9) (col : BitVec 9)
  /-- ACPUT (R389): Copies a tile into an accumulator block. -/
  | acput (la : BitVec 4) (ta : BitVec 5) (row : BitVec 9) (col : BitVec 9)
  /-- ACZERO (R389): Zeroes an accumulator block. -/
  | aczero (la : BitVec 4) (row : BitVec 9) (col : BitVec 9) (h1 : BitVec 4) (w1 : BitVec 4)
  /-- AMERGE (R391): Merges two attention triple sets row by row. -/
  | amerge (la : BitVec 4) (td : BitVec 5) (ta : BitVec 5) (tb : BitVec 5) (d16 : BitVec 5)
  /-- ANORM (R392): Normalises an attention triple set. -/
  | anorm (la : BitVec 4) (td : BitVec 5) (ta : BitVec 5) (d16 : BitVec 5)
  /-- SLEN (R393): Zeroes a stream register and sets its length. -/
  | slen (qd : BitVec 4) (len : BitVec 2)
  /-- SGEN (R394): Generates a stochastic stream from a tile row. -/
  | sgen (la : BitVec 4) (qd : BitVec 4) (gx : GReg) (ts : BitVec 5) (row : BitVec 5) (bip : Bool) (src : BitVec 6)
  /-- SAND (R396): Bitwise and of two streams, the unipolar product. -/
  | sand (la : BitVec 4) (qd : BitVec 4) (qa : BitVec 4) (qb : BitVec 4)
  /-- SXNOR (R396): Bitwise xnor of two streams, the bipolar product. -/
  | sxnor (la : BitVec 4) (qd : BitVec 4) (qa : BitVec 4) (qb : BitVec 4)
  /-- SMUX (R396): Multiplexes two streams by a third. -/
  | smux (la : BitVec 4) (qd : BitVec 4) (qa : BitVec 4) (qb : BitVec 4) (qc : BitVec 4)
  /-- SCNT (R397): Counts the ones of each lane into a tile row. -/
  | scnt (la : BitVec 4) (qa : BitVec 4) (td : BitVec 5) (row : BitVec 5) (out : BitVec 2)
  /-- SREGEN (R398): Regenerates a stream with a fresh source, carrying its counts. -/
  | sregen (la : BitVec 4) (qd : BitVec 4) (qa : BitVec 4) (gx : GReg) (src : BitVec 6)
  /-- POWER_ON (R20): Power is applied and the module comes up in the order of R20: service die, fabric dies, base-die links, compute-die firmware, then cell release. -/
  | powerOn
  /-- MODULE_RESET (R20): A module reset returns registers, partitions and mailbox to reset values, marks every HBM line unfilled and renegotiates link session keys. -/
  | moduleReset
  /-- CELL_RELEASE (R20): The cells of a die are released once every DTSn.VALID and HBMT.VALID bit of the die and its stacks is 1. -/
  | cellRelease (d : Nat)
  /-- SENSOR_CONVERSION (R17): Every 50 µs each die sensor converts and updates DTSn.TEMP and VALID. -/
  | sensorConversion (d : Nat) (n : Nat) (temp : BitVec 16)
  /-- CRITICAL_HALT (R14): Within 10 µs of a reading of 118 °C or more, the die stops issue, lets in-flight transfers complete, sets CRIT and HALTED, holds throttle demand at 17 and notifies the fault server. -/
  | criticalHalt (d : Nat)
  /-- CRITICAL_RESUME (R14): A halted die resumes issue at step 17 once every sensor reads 100 °C or less and DTSTAT.CRIT has been cleared. -/
  | criticalResume (d : Nat)
  /-- THROTTLE_STEP_DOWN (R12): Every 100 µs while any sensor of the die reads 108 °C or more, the thermal-throttle demand rises by one step. -/
  | throttleStepDown (d : Nat)
  /-- THROTTLE_STEP_UP (R12): Every 1 ms while every sensor of the die reads below 105 °C, the thermal-throttle demand falls by one step, down to 0. -/
  | throttleStepUp (d : Nat)
  /-- WARM_LOOP_EVAL (R12): At each 1 ms evaluation in Warm mode, the warm-loop demand moves by one step according to the hottest sensor. -/
  | warmLoopEval (d : Nat)
  /-- POWER_LIMIT_EVAL (R12): Every 1 ms the power limiter steps every die down or up by one step, according to the 1 ms average of MPOW. -/
  | powerLimitEval (watts : BitVec 16)
  /-- CLOCK_STEP_APPLY (R10): A change of applied clock step takes effect at the next barrel rotation boundary of every cell of the die. -/
  | clockStepApply (d : Nat)
  /-- BALLAST_SETPOINT (R15): Every 100 µs the service die computes each die's ballast setpoint, which opens or closes the ballast gate. -/
  | ballastSetpoint (rest : Nat) (power : List Nat)
  /-- BALLAST_WINDOW (R16): At the end of each 1 ms window, BSTAT.HOLD and UNDER are updated against the ±2 % band. -/
  | ballastWindow (avg : Nat)
  /-- HBM_TEMP_READING (R19): A stack's base-die temperature reading updates HBMT. -/
  | hbmTempReading (k : Nat) (temp : BitVec 16)
  /-- LINK_FRAME_RECEIVE (R35): A die-to-die frame arrives under AES-GCM; a failed tag drops it, logs LINK and replays it. -/
  | linkFrameReceive (k : Nat) (ok : Bool)
  /-- APPLY (R44): A write of 1 to HCTL.APPLY starts a rehash to the masks written in HXM, or is refused and sets ERR while REHASH is 1. -/
  | apply (k : Nat)
  /-- REHASH_COMPLETE (R44): When every line has been moved, the rehash makes its masks active, clears REHASH, updates STALE and releases the stalled accesses. -/
  | rehashComplete (k : Nat)
  /-- CLRCNT (R404): A write of 1 to HCTL.CLRCNT zeroes every PCNT of the stack. -/
  | clrcnt (k : Nat)
  /-- HXM_WRITE (R405): A write of a hash mask register stores the value, which is read back at once, and sets STALE when it differs from the active masks. -/
  | hxmWrite (k : Nat) (i : Nat) (v : Word)
  /-- ELHEAD_WRITE (R44): A write of ELHEAD.HEAD releases unread log entries, oldest first, without passing the unread ones. -/
  | elheadWrite (k : Nat) (v : Word)
  /-- DAHLIA_ADMIT (R37): A queued migrated context takes a freed Dahlia thread slot, in arrival order. -/
  | dahliaAdmit (k : Nat) (j : Nat)
  /-- MIGRATION_RETRY (R37): After the backoff interval, a home cell or Dahlia core retries a refused migration or hop. -/
  | migrationRetry (cell : Nat) (slot : Nat)
  /-- LINGER_RETURN (R185): A thread that has lingered 64 µs on a Dahlia core while its arrival queue holds a context is sent home. -/
  | lingerReturn (cell : Nat) (slot : Nat)
  /-- MIGRATION_DEPART (R186): Once every posted store of the thread from the site has been acknowledged, the site sends the thread's context to its next site. -/
  | migrationDepart (cell : Nat) (slot : Nat)
  /-- BANKSIDE_START (R342): A base die starts an accepted bank-side command, in acceptance order. -/
  | banksideStart (k : Nat)
  /-- BANKSIDE_COMPLETE (R41): A bank-side command finishes, writes y and a status, and signals its completion object. -/
  | banksideComplete (k : Nat)
  /-- BURST_RECEIVE (R48): A burst arrives on a port, is checked by CRC and sequence, acknowledges or NAKs, and delivers its flits. -/
  | burstReceive (p : Nat) (b : Burst) (crc0 crc1 : BitVec 32)
  /-- NAK_REPEAT (R48): Every 1 µs while a gap persists, the receiver repeats its NAK. -/
  | nakRepeat (p : Nat)
  /-- ASEQ_TIMER (R48): At least once every 64 flit times, each end sends an ASEQ, in a control-only burst if it has no data. -/
  | aseqTimer (p : Nat)
  /-- TOTALS_FLIT_SEND (R54): At least once every 256 ns, each end sends a link control flit carrying its SENT and FREED counters. -/
  | totalsFlitSend (p : Nat)
  /-- PORT_SILENCE_TIMEOUT (R49): A port on which no burst has arrived for 10 µs fails. -/
  | portSilenceTimeout (p : Nat)
  /-- LANE_COUNT_CLEAR (R50): Every 1 ms of the timebase, the lane error counts are cleared. -/
  | laneCountClear
  /-- LANE_REPAIR_START (R51): A pending lane repair starts when no replay is outstanding, or 256 flit times after it became pending; both ends stop sending bursts. -/
  | laneRepairStart (p : Nat)
  /-- LANE_SWITCH_COMPLETE (R51): Both ends are on the surviving lane; the port becomes up-one-lane and resends from the first unacknowledged burst. -/
  | laneSwitchComplete (p : Nat)
  /-- REWIDEN (R52): A write of 1 to PCTL.REWIDEN retrains the dropped lane without stopping the surviving one. -/
  | rewiden (p : Nat)
  /-- REWIDEN_COMPLETE (R52): When lane training ends, the port goes back to two lanes at a burst boundary, or stays narrowed and sets RWFAIL. -/
  | rewidenComplete (p : Nat) (ok : Bool)
  /-- PORT_DISABLE (R53): A write of 0 to PCTL.EN of a port that is up or training sends DISABLE flits, discards its queues and takes the port down. -/
  | portDisable (p : Nat)
  /-- PORT_ENABLE (R53): A write of 1 to PCTL.EN trains a disabled port or retrains a failed one. -/
  | portEnable (p : Nat)
  /-- DISABLE_FLIT (R53): A received DISABLE flit discards the port's queues, takes it down and sets PSTAT.RDIS. -/
  | disableFlit (p : Nat)
  /-- FAR_END_TRAINING (R53): A port down with RDIS and EN = 1 starts training when the far end starts training. -/
  | farEndTraining (p : Nat)
  /-- PORT_TRAINED (R55): A port finishes training and comes up, clearing RDIS. -/
  | portTrained (p : Nat)
  /-- PACKET_FORWARD (R67): A router forwards a packet not addressed to itself by its minimal entry, decrementing BUDGET, or drops it. -/
  | packetForward (f : Nat) (pkt : Packet)
  /-- E2E_GAP_TIMEOUT (R57): When EXP stays unaccepted for 4 µs while a later number has been accepted, the receiver sends NAK(EXP). -/
  | e2eGapTimeout (dev : Nat) (user : Bool)
  /-- RETRANSMIT_TIMEOUT (R58): After 50 µs with no ACK progress, the sender resends a stream from its lowest unacknowledged number. -/
  | retransmitTimeout (dev : Nat) (user : Bool)
  /-- ACK (R58): An end-to-end ACK frees every retransmit-buffer packet below its number. -/
  | ack (dev : Nat) (user : Bool) (a : BitVec 16)
  /-- NAK (R58): An end-to-end NAK resends the named packet and every later unacknowledged one, unless it is stale. -/
  | nak (dev : Nat) (user : Bool) (n : BitVec 16)
  /-- SYN (R59): A SYN replaces the receiver's stream state when it carries a new nonce or a number at or ahead of EXP. -/
  | syn (dev : Nat) (user : Bool) (nonce : Word) (i : BitVec 16)
  /-- RESYNC (R59): A RESYNC makes the sender send SYN and resend. -/
  | resync (dev : Nat) (user : Bool) (nonce : Word)
  /-- RTCMD_WRITE (R68): A write of RTCMD.WRITE starts writing RTDLO and RTDHI to route entry DEST in all four copies, unless BUSY. -/
  | rtcmdWrite
  /-- RTCMD_WRITE_COMPLETE (R68): The route entry is in force in all four copies and RTCMD.BUSY clears. -/
  | rtcmdWriteComplete
  /-- RTCMD_READ (R73): A write of RTCMD.READ loads route entry DEST into RTDLO and RTDHI. -/
  | rtcmdRead
  /-- FID_WRITE (R64): A write of FID sets GROUP and DEVID, and clearing or setting ASSIGNED disables or trains the ports. -/
  | fidWrite (v : Word)
  /-- RDREQ (R71): A read request arrives at its target, which checks the window, translates and answers with RDRESP. -/
  | rdreq (pkt : Packet)
  /-- RDRESP (R72): A read response arrives; its data completes the read, or a poisoned response raises a late fault. -/
  | rdresp (cell : Nat) (slot : Nat) (idx : Nat) (line : Line) (cause : Nat)
  /-- WRITE (R244): A remote write arrives at its target, is checked and performed, and is acknowledged by WRDONE. -/
  | write (pkt : Packet)
  /-- WRDONE (R244): An acknowledgement of a posted write, atomic or producing store arrives at the sender. -/
  | wrdone (cell : Nat) (slot : Nat) (idx : Nat) (cause : Nat)
  /-- AMO (R328): A posted atomic arrives at its target and is performed indivisibly at the location. -/
  | amo (pkt : Packet)
  /-- AMOREQ (R328): A returning atomic from a gang thread or debug arrives, is performed, and is answered by AMORESP. -/
  | amoreq (pkt : Packet)
  /-- AMORESP (R328): The old value of a returning atomic arrives at the requester. -/
  | amoresp (cell : Nat) (slot : Nat) (idx : Nat) (old : Word) (cause : Nat)
  /-- SYNCST (R245): A producing store arrives at the target stack and waits for its word to be empty. -/
  | syncst (pkt : Packet)
  /-- MIGRATE (R37): A migrating context arrives at a Dahlia core, is checked, and takes a slot, joins the queue, or is refused by MIGNAK. -/
  | migrate (k : Nat) (j : Nat) (m : Migrant)
  /-- MIGHOME (R186): A returning context arrives home; held fills are applied, and any failure is taken as a late fault. -/
  | mighome (cell : Nat) (slot : Nat) (ctx : LightCtx) (cause : Nat)
  /-- MIGNAK (R37): A refusal of a migration arrives; the thread stays parked until the retry, and the 16th refusal raises MIGNAK. -/
  | mignak (cell : Nat) (slot : Nat)
  /-- COPYDATA (R160): A copy packet arrives; its lines land early or are held, and its tag is checked at its last flit. -/
  | copydata (pkt : CopyPkt)
  /-- TRAPFRAME (R256): A trap frame arrives at the fault server, which appends it to the trap queue or refuses it. -/
  | trapframe (q : Nat) (fr : Frame)
  /-- TRETFRAME (R258): A returned frame arrives at its origin, which checks TOKEN and slot, restores the context and re-injects the replay entries. -/
  | tretframe (fr : Frame)
  /-- FRAMEDEAD (R259): The fault server sets DEAD in a queued frame whose task was killed. -/
  | framedead (q : Nat) (origin : Word) (token : Word)
  /-- DIGEST (R93): A gossip digest from a member updates HEARD, ROWS and F, may clear OUT, and leads to shipping deltas or DONOR. -/
  | digest (d : Nat) (q : Nat) (m : Digest)
  /-- DELTA (R87): A delta tile is received, checked, and applied with its group once all parts have arrived. -/
  | delta (d : Nat) (q : Nat) (t : DeltaTile)
  /-- DELTAC (R91): The continuation of a DELTA's data arrives. -/
  | deltac (d : Nat) (q : Nat) (obj : Nat) (contrib : Nat) (seq : Nat) (tile : Nat) (data : List Byte)
  /-- DONOR (R94): A donor offer and the donor's state arrive, and are taken into a shadow area. -/
  | donor (d : Nat) (q : Nat) (s : DonorState)
  /-- REJOIN_SWITCH (R94): In one step the member switches to the donor state, re-enters its own groups and open group, and sends the donor a DIGEST. -/
  | rejoinSwitch (d : Nat) (q : Nat) (obj : Nat)
  /-- RESET_REJOIN (R94): A member that lost its state, after T_absent, requests DONOR and continues its sequence numbers. -/
  | resetRejoin (d : Nat) (q : Nat) (g : Nat)
  /-- DELTA_PARTS_TIMEOUT (R88): The received parts of a group still incomplete after 100 ms are discarded. -/
  | deltaPartsTimeout (d : Nat) (q : Nat) (obj : Nat) (contrib : Nat) (seq : Nat)
  /-- GOSSIP_ROUND (R90): Every PERIOD each member starts a round with a chosen partner (a probe round every 16th) and sends its DIGEST. -/
  | gossipRound (d : Nat) (q : Nat) (g : Nat)
  /-- FRONTIER_UPDATE (R93): At least every PERIOD, absence is evaluated and F is raised to the minimum of the live rows. -/
  | frontierUpdate (d : Nat) (q : Nat) (g : Nat)
  /-- GROUP_FOLD (R93): A group at or below F is folded into BASE in the background, freeing its LOG space. -/
  | groupFold (d : Nat) (q : Nat) (obj : Nat)
  /-- RING_POLL (R121): Hardware reads PROD of a mapped ring with acquire and consumes slot CONS while PROD ≠ CONS. -/
  | ringPoll (d : Nat) (q : Nat) (ring : Nat)
  /-- RING_ROTATION_TICK (R144): Every 20 µs the die unmaps idle and longest-mapped rings and maps the rings that have waited longest. -/
  | ringRotationTick (d : Nat)
  /-- CALL_PACKET (R106): A CALL from a rank reaches rank 0, which compares it and answers GO or MISMATCH. -/
  | callPacket (d : Nat) (q : Nat) (ring : Nat) (rank : Nat) (c : CallData)
  /-- GO (R106): GO arrives and lets the call's data steps begin. -/
  | go (d : Nat) (q : Nat) (ring : Nat)
  /-- MISMATCH (R106): MISMATCH arrives and ends the call with CODE MISMATCH. -/
  | mismatch (d : Nat) (q : Nat) (ring : Nat)
  /-- COLLECTIVE_COMPLETE (R104): A rank finishes a call, writes its completion record, STATUS and ring STATUS, advances CONS, and sends an event if asked. -/
  | collectiveComplete (d : Nat) (q : Nat) (ring : Nat)
  /-- COLLECTIVE_PEER_TIMEOUT (R105): A step that waits longer than T_absent for a peer ends the call at that rank with ABSENT. -/
  | collectivePeerTimeout (d : Nat) (q : Nat) (ring : Nat)
  /-- TASK_DISPATCH (R132): At most once every 8 cycles the scheduler chooses a ready task, places it, and commits it to thread slots. -/
  | taskDispatch (d : Nat)
  /-- TASK_OFFER (R136): An unpinned task that has waited 50 µs at the head of its class is offered to the other dies. -/
  | taskOffer (d : Nat) (cls : Nat)
  /-- BALLAST_KILL (R149): After 100 µs of blocking, and then every 8 cycles, the most recent ballast task holding resources is killed. -/
  | ballastKill (d : Nat) (cls : Nat)
  /-- TASK_END (R139): After every posted store of the task has been acknowledged, its TASKDONE or KILLED record enters the event queue and its resources return. -/
  | taskEnd (gid : Word)
  /-- EVENT_RECORD_PROCESS (R142): A control core takes the head record of its graphs and decrements the dependence counts of its successors. -/
  | eventRecordProcess (d : Nat) (core : Nat)
  /-- CANCEL (R145): SCMD operation 1 cancels a task that has not been dispatched. -/
  | cancel (d : Nat)
  /-- KILL (R145): SCMD operation 2 stops a dispatched task on every lane and releases its successors. -/
  | kill (d : Nat)
  /-- CANCELGRAPH (R145): SCMD operation 3 cancels every task of a graph that has not been dispatched, and sets COUNT. -/
  | cancelgraph (d : Nat)
  /-- CHEAD_WRITE (R153): A write of the shadow CHEAD fills the shadow set, with a release at device scope, and promotes it at once if the channel is idle. -/
  | cheadWrite (d : Nat) (c : Nat) (v : Word)
  /-- COPY_RECORD_READ (R155): An engine reads the next transfer record of a channel and begins it, or waits while OWN = 0. -/
  | copyRecordRead (d : Nat) (c : Nat)
  /-- COPY_PACKET_SEND (R152): In its round-robin turn, an engine reads source elements and sends one packet of a channel's record. -/
  | copyPacketSend (d : Nat) (c : Nat)
  /-- COPY_OWN_REREAD (R158): Every 1 µs a waiting channel rereads a record until OWN = 1. -/
  | copyOwnReread (d : Nat) (c : Nat)
  /-- COPY_RECORD_COMPLETE (R163): After its bytes have landed and checked, a record writes back OWN, STATUS and BYTES and performs its completion kind, in chain order. -/
  | copyRecordComplete (d : Nat) (c : Nat)
  /-- CCTL_EN_WRITE (R168): A write of CCTL.EN enables a channel, or stops it and clears its shadow set. -/
  | cctlEnWrite (d : Nat) (c : Nat) (v : Word)
  /-- ABORT (R168): A write of 1 to CCTL.ABORT ends the running record with ABORTED at the next packet boundary. -/
  | abort (d : Nat) (c : Nat)
  /-- LOAD_RETURN (R181): A long-latency instruction completes; its destination becomes full and its flags are ORed into st. -/
  | loadReturn (cell : Nat) (slot : Nat) (idx : Nat)
  /-- TRAP_FRAME_SEND (R254): Once every posted store of the thread has been acknowledged, the frame is sent to the fault server. -/
  | trapFrameSend (cell : Nat) (slot : Nat)
  /-- TRAP_FRAME_RETRY (R256): Every 10 µs the origin offers a refused frame again. -/
  | trapFrameRetry (cell : Nat) (slot : Nat)
  /-- YIELD_END (R308): 16 cycles after a yield issued, the thread becomes ready again. -/
  | yieldEnd (cell : Nat) (slot : Nat)
  /-- MESH_MESSAGE_ARRIVE (R178): A mesh message arrives in the neighbour's FIFO and may unpark a reader. -/
  | meshMessageArrive (cell : Nat) (dir : Nat)
  /-- FILL_ARRIVE (R179): A register fill arrives, and is written to an empty register or held in the fill buffer. -/
  | fillArrive (cell : Nat) (slot : Nat) (reg : Nat) (v : Word)
  /-- FILL_RETRY (R179): A fill refused by a full fill buffer is retried after 1 µs. -/
  | fillRetry (cell : Nat) (slot : Nat)
  /-- BANK_WAKE (R182): A register bank finishes waking to on. -/
  | bankWake (cell : Nat) (b : Nat)
  /-- BANK_POWER_APPLY (R182): A change to retention or off takes effect once no write to the bank is pending. -/
  | bankPowerApply (cell : Nat) (b : Nat)
  /-- BANK_AUTO_RETENTION (R182): With AUTO = 1, a bank unnamed for 65,536 cycles and with no write pending enters retention. -/
  | bankAutoRetention (cell : Nat) (b : Nat)
  /-- MATRIX_MESSAGE_ARRIVE (R191): A command, configuration or accumulator copy arrives at a matrix unit, is capability-checked and is queued or refused. -/
  | matrixMessageArrive (cell : Nat) (m : MatMsg)
  /-- MATRIX_COMMAND_START (R385): A queued matrix command starts on free sub-arrays and reads its operand tiles and scales. -/
  | matrixCommandStart (cell : Nat)
  /-- MATRIX_COMMAND_FINISH (R387): A matrix command finishes, writes its accumulator block and ORs its flags into the issuer's st. -/
  | matrixCommandFinish (cell : Nat) (sub : Nat)
  /-- BANK_SWITCH (R263): A write of 1 to PSW.SWITCH stops the partition's threads and begins switching context banks, or is refused. -/
  | bankSwitch (q : Nat)
  /-- BANK_SWITCH_COMPLETE (R263): At cycle 640 the incoming threads issue and PARTCTL.BANK flips. -/
  | bankSwitchComplete (q : Nat)
  /-- LAZY_SWAP_UNIT (R264): The background engine saves an outgoing unit and loads the incoming one, demanded units first. -/
  | lazySwapUnit (q : Nat) (cell : Nat)
  /-- DSTOP_WRITE (R269): A write of a gid to DSTOP stops that task on every lane with BREAK, and sets DSRES. -/
  | dstopWrite (q : Nat) (gid : Word)
  /-- EINJ_ARM (R262): A write of EINJ.KIND 1–5 with DBGCTL.EN = 1 arms an injection, and is refused otherwise. -/
  | einjArm (kind : BitVec 3)
  /-- EINJ_DISARM (R271): A write of EINJ.KIND 0, 6 or 7 disarms the pending injection. -/
  | einjDisarm (kind : BitVec 3)
  /-- SKEW_MEASURE (R266): Every 1 ms DSKEW and PSKEW are measured. -/
  | skewMeasure (dies : List Word) (peers : List Word)
  /-- TRACE_SAMPLE (R267): Every 2^SPER ns with sampling enabled, each site writes a SAMPLE record for each thread it holds. -/
  | traceSample (d : Nat)
  /-- TRACE (R267): A trace record packet arrives and is written into the home die's trace ring. -/
  | trace (d : Nat) (r : TraceRec)
  /-- TCTL_CLEAR (R270): A write of 1 to TCTL.CLEAR zeroes every telemetry counter. -/
  | tctlClear
  /-- TCTL_FREEZE (R270): A write of TCTL.FREEZE stops or restarts every telemetry counter. -/
  | tctlFreeze (on : Bool)
  /-- MAP (R231): XCMD operation 1 writes a leaf with zero-filled or host frame, or fails with a result code. -/
  | map (q : Nat)
  /-- UNMAP (R231): XCMD operation 2 invalidates the entry, flushes it, waits for accesses, then zero-fills and frees the frame. -/
  | unmap (q : Nat)
  /-- PROTECT (R231): XCMD operation 3 replaces the rights, flushes the entry and waits as for UNMAP. -/
  | protect (q : Nat)
  /-- MOVE (R231): XCMD operation 4 moves an HBM page to another die by the procedure of R234. -/
  | move (q : Nat)
  /-- PIN (R231): XCMD operation 5 sets PIN after any move of the page has finished. -/
  | pin (q : Nat)
  /-- UNPIN (R231): XCMD operation 6 clears PIN. -/
  | unpin (q : Nat)
  /-- FLUSH (R231): XCMD operation 7 flushes every cached translation and pointer of the partition. -/
  | flush (q : Nat)
  /-- XCMD_COMPLETE (R231): A translation command that waited finishes, clears BUSY and sets RESULT. -/
  | xcmdComplete (q : Nat)
  /-- PLACEMENT_INTERVAL (R232): At the end of each 1 ms interval, qualifying pages are chosen and up to 16 moves per partition are started. -/
  | placementInterval (q : Nat)
  /-- PAGE_MOVE_SWITCH (R234): Once accesses through the old entry have performed, the new ADDR is written and stalled accesses are released. -/
  | pageMoveSwitch (q : Nat) (va : Word)
  /-- BACKGROUND_FILL (R234): The background engine copies the next unfilled line of a moved or newly mapped frame. -/
  | backgroundFill (q : Nat) (va : Word)
  /-- PAGE_MOVE_FINISH (R234): When no line is unfilled, the old frame is zero-filled and freed, MOVING clears and MOVES increments. -/
  | pageMoveFinish (q : Nat) (va : Word)
  /-- PTROOT_WRITE (R230): A write of PTROOT sets the root and flushes every cached translation of the partition. -/
  | ptrootWrite (q : Nat) (v : Word)
  /-- SYNC_ACCESS_PERFORM (R246): A waiting synchronising access whose full/empty condition holds performs at the stack controller, earliest first. -/
  | syncAccessPerform (k : Nat)
  /-- SYNC_RETRY (R246): A synchronising access refused by a full wait list is retried after 1 µs. -/
  | syncRetry (cell : Nat) (slot : Nat)
  /-- BARRIER_WAIT_RETRY (R340): A barrier wait refused by a full wait list is retried after 1 µs. -/
  | barrierWaitRetry (cell : Nat) (slot : Nat)
  /-- PARTITION_CREATE (R120): A write of PARTCTL.EN from 0 to 1 creates the keys, releases the dies and sets RUNNING, or is refused. -/
  | partitionCreate (q : Nat) (v : Word)
  /-- PARTITION_END (R120): A write of PARTCTL.EN from 1 to 0 stops issue and polling, ends collectives, destroys the keys and clears RUNNING. -/
  | partitionEnd (q : Nat) (v : Word)
  /-- FSRV_WRITE (R122): A write of FSRV names the fault server for later traps, and setting V resumes delivery of held frames. -/
  | fsrvWrite (q : Nat) (v : Word)
  /-- MREAD_PACKET (R123): A management read from the pod manager reads a BAR0 register and is answered by MRESP, or is refused with NOWIN. -/
  | mreadPacket (dev : BitVec 11) (off : BitVec 27)
  /-- MWRITE (R123): A management write from the pod manager performs a BAR0 write, or is refused with NOWIN. -/
  | mwrite (dev : BitVec 11) (off : BitVec 27) (v : Word)
  /-- MRESP (R123): A management response arrives at the requester. -/
  | mresp (dev : BitVec 11) (v : Word) (cause : Nat)
  /-- STAGE (R126): Mailbox command 1 copies and checks an image and writes it to the slot not booted from. -/
  | stage (host : Bool)
  /-- ACTIVATE (R126): Mailbox command 2 selects the slot the ROM tries first at the next reset. -/
  | activate (host : Bool)
  /-- ATTEST (R126): Mailbox command 3 reads a nonce and writes the signed attestation report of R26. -/
  | attest (host : Bool)
  /-- RAISEMIN (R126): Mailbox command 4 checks a kind-5 image and burns the higher minimum security level. -/
  | raisemin (host : Bool)
  /-- RECOVER (R126): Mailbox command 5 checks an image and runs it without writing flash, in recovery mode only. -/
  | recover (host : Bool)
  /-- MBCMD_UNKNOWN (R126): A mailbox command of any other code completes with FIELD. -/
  | mbcmdUnknown (host : Bool) (cmd : BitVec 8)
  /-- MAILBOX_COMPLETE (R125): A running mailbox command finishes, clears BUSY, sets CODE and raises MSI-X vector 0. -/
  | mailboxComplete
  /-- REGISTER_WRITE (R6): A write to a BAR0 register with no behaviour of its own stores its fields, or is refused as a reserved-bit write. -/
  | registerWrite (off : BitVec 27) (v : Word)
  /-- HOST_LINK_TRAINING (R225): The PCIe host link trains, retrains to another width or rate, or goes down, which decides whether host-page accesses complete or take a poisoned UNREACH response. -/
  | hostLinkTraining (up : Bool)
  /-- RING_GETS_WORK (R144): A ring whose PROD is advanced by an outside producer gets work and is mapped at once into a free hardware queue slot. -/
  | ringGetsWork (d : Nat) (q : Nat) (ring : Nat)
  deriving DecidableEq, Repr

end Sys2Proof
end

