-- ==== Sys2Proof/WellFormed.lean ====
section
/-! DEFINITION. The operand values that an instruction accepts beyond the widths of its fields (R282 and the chapter of
each instruction): an encoding outside them raises ILLEGAL. For an event, the ranges of its numbers. -/
namespace Sys2Proof

/-- A register that an instruction may write: not g52 to g59 (R176). -/
def dstOk (x : GReg) : Bool := x.toNat < 52 || 60 ≤ x.toNat

/-- A register with a full/empty bit (R301): g0 to g47, g60, g62. -/
def feReg (x : GReg) : Bool := x.toNat < 48 || x == 60 || x == 62

/-- A mesh port (R176): g48 to g51. -/
def isPort (x : GReg) : Bool := 48 ≤ x.toNat && x.toNat < 52

/-- An integer element code of the vector operations (R369). -/
def teInt (te : BitVec 4) : Bool := te == 12 || te == 14

/-- A floating element code of the vector operations (R369). -/
def teFloat (te : BitVec 4) : Bool := te == 0 || te == 1 || te == 11 || te == 13

/-- An element code of the vector arithmetic (R374). -/
def teArith (te : BitVec 4) : Bool := teInt te || teFloat te

/-- A rounding code that goes with an element code: any of R204 for a float, 0 for an integer, which does not round
(R370, R374). -/
def rmOk (te : BitVec 4) (rm : BitVec 3) : Bool := if teInt te then rm == 0 else rm.toNat < 5

/-- An element code that vcvt takes on either side (R379). -/
def teCvt (te : BitVec 4) : Bool := te != 4 && te != 5 && te != 15

/-- Bits of an element (R369). -/
def teBits (te : BitVec 4) : Nat :=
  match te.toNat with
  | 0 => 16 | 1 => 16 | 2 => 8 | 3 => 8 | 4 => 8 | 5 => 8 | 6 => 6 | 7 => 6 | 8 => 4 | 9 => 8 | 10 => 4
  | 11 => 32 | 12 => 32 | 13 => 64 | 14 => 16 | _ => 8

/-- Elements in a row of a tile (R369). -/
def tePerRow (te : BitVec 4) : Nat :=
  match te.toNat with
  | 0 => 64 | 1 => 64 | 2 => 128 | 3 => 128 | 4 => 128 | 5 => 128 | 6 => 128 | 7 => 128 | 8 => 256 | 9 => 128
  | 10 => 256 | 11 => 32 | 12 => 32 | 13 => 16 | 14 => 64 | _ => 128

/-- Elements of a tile (R369). -/
def teCount (te : BitVec 4) : Nat := 32 * tePerRow te

/-- PART of vcvt is below the larger count over the smaller (R379). -/
def partOk (te ste : BitVec 4) (part : BitVec 4) : Bool :=
  part.toNat < max (teCount te) (teCount ste) / min (teCount te) (teCount ste)

/-- An integer format of vcvt: INT8, INT4, INT32, INT16. -/
def cvtInt (te : BitVec 4) : Bool := te == 9 || te == 10 || te == 12 || te == 14

/-- The rounding code of vcvt: 0 between integers, where nothing is rounded (R379). -/
def rmCvt (te ste : BitVec 4) (rm : BitVec 3) : Bool := if cvtInt te && cvtInt ste then rm == 0 else rm.toNat < 5

/-- A row length of R390, as its sixteenth. -/
def dOk (d16 : BitVec 5) : Bool := 1 ≤ d16.toNat && d16.toNat ≤ 16

/-- Tiles of a triple set (R390). -/
def tripleLen (d16 : BitVec 5) : Nat := 1 + (16 * d16.toNat + 31) / 32

/-- A destination set of `n` tiles starts where a source set of `m` does, or is disjoint from it (R391, R392). -/
def setOk (td ta : BitVec 5) (n m : Nat) : Bool :=
  td == ta || td.toNat + n ≤ ta.toNat || ta.toNat + m ≤ td.toNat

/-- The operand values that an instruction accepts. -/
def Instr.wf : Instr → Bool
  | .br _ => true
  | .call _ => true
  | .bz _ _ => true
  | .bnz _ _ => true
  | .jr _ => true
  | .jlr x _ => dstOk x
  | .rep x n => x.toNat < 48 && n != 0
  | .yield => true
  | .done => true
  | .setpri x _ => dstOk x
  | .tbar => true
  | .launch x _ _ => dstOk x
  | .fill _ _ => true
  | .ld _ x _ _ _ => dstOk x
  | .lds _ x _ sz _ => dstOk x && sz != 3
  | .st _ _ _ _ => true
  | .ldx _ x _ _ _ => dstOk x
  | .ldsx _ x _ _ sz => dstOk x && sz != 3
  | .stx _ _ _ _ => true
  | .pf _ _ _ => true
  | .fence k _ => k != 3
  | .cinv _ _ => true
  | .mbwait x _ _ m => dstOk x && m.toNat < 2
  | .mbread _ x _ => dstOk x
  | .bowait x _ _ _ => dstOk x
  | .boread _ x _ _ => dstOk x
  | .wmread _ x _ => dstOk x
  | .nopc => true
  | .add d _ _ => dstOk d
  | .sub d _ _ => dstOk d
  | .mul d _ _ => dstOk d
  | .mulh d _ _ => dstOk d
  | .mulhu d _ _ => dstOk d
  | .div d _ _ => dstOk d
  | .divu d _ _ => dstOk d
  | .rem d _ _ => dstOk d
  | .remu d _ _ => dstOk d
  | .and d _ _ => dstOk d
  | .or d _ _ => dstOk d
  | .xor d _ _ => dstOk d
  | .andn d _ _ => dstOk d
  | .shl d _ _ => dstOk d
  | .shr d _ _ => dstOk d
  | .sra d _ _ => dstOk d
  | .rol d _ _ => dstOk d
  | .ror d _ _ => dstOk d
  | .min d _ _ => dstOk d
  | .max d _ _ => dstOk d
  | .minu d _ _ => dstOk d
  | .maxu d _ _ => dstOk d
  | .addsc d _ _ s => dstOk d && s.toNat < 8
  | .sel d _ _ _ => dstOk d
  | .clz d _ => dstOk d
  | .ctz d _ => dstOk d
  | .popc d _ => dstOk d
  | .bswap d _ => dstOk d
  | .bext d _ _ _ => dstOk d
  | .bins d _ _ _ => dstOk d
  | .sext d _ _ => dstOk d
  | .addi d _ _ => dstOk d
  | .andi d _ _ => dstOk d
  | .ori d _ _ => dstOk d
  | .xori d _ _ => dstOk d
  | .shli d _ i => dstOk d && i.toNat < 64
  | .shri d _ i => dstOk d && i.toNat < 64
  | .srai d _ i => dstOk d && i.toNat < 64
  | .muli d _ _ => dstOk d
  | .cmp d _ _ _ c => dstOk d && c.toNat < 12
  | .cmpi d _ _ _ c => dstOk d && c.toNat < 12
  | .fcmp d _ _ _ c => dstOk d && c.toNat < 8
  | .fcmpd d _ _ _ c => dstOk d && c.toNat < 8
  | .take d a => dstOk d && feReg a && a != d
  | .mkempty d => feReg d
  | .mkfull d => feReg d
  | .isfull d _ => dstOk d
  | .fadd d _ _ r _ => dstOk d && r.toNat < 5
  | .fsub d _ _ r _ => dstOk d && r.toNat < 5
  | .fmul d _ _ r _ => dstOk d && r.toNat < 5
  | .fdiv d _ _ r _ => dstOk d && r.toNat < 5
  | .fsqrt d _ r _ => dstOk d && r.toNat < 5
  | .fma d _ _ r _ => dstOk d && r.toNat < 5
  | .fmin d _ _ _ => dstOk d
  | .fmax d _ _ _ => dstOk d
  | .fabs d _ _ => dstOk d
  | .fneg d _ _ => dstOk d
  | .fcvt d _ _ r _ => dstOk d && r.toNat < 5
  | .fcvti d _ t r _ => dstOk d && r.toNat < 5 && t.toNat < 4
  | .icvtf d _ t r _ => dstOk d && r.toNat < 5 && t.toNat < 4
  | .fclass d _ _ => dstOk d
  | .fexp2 d _ r _ => dstOk d && r.toNat < 5
  | .nopa => true
  | .ldi x _ => dstOk x
  | .ldih x _ => dstOk x && !isPort x
  | .trap _ => true
  | .tret x _ => dstOk x
  | .rdpr _ x _ _ => dstOk x
  | .wrpr _ _ _ => true
  | .cbank x y we => dstOk x && (we || y == 0)
  | .rdtb x sel' => dstOk x && sel'.toNat < 2
  | .ldLone _ x _ sz acq sc sgn _ => dstOk x && !(sgn && sz == 3) && (acq || sc == 0)
  | .stLone _ _ _ rel sc _ => rel || sc == 0
  | .ldsy _ x _ _ _ => dstOk x
  | .stsy _ _ _ _ => true
  | .aadd la x _ _ sz acq rel sc _ => dstOk x && 2 ≤ sz.toNat && (acq || rel || sc == 0) && (x != 63 || (!acq && la == 0))
  | .aand la x _ _ sz acq rel sc _ => dstOk x && 2 ≤ sz.toNat && (acq || rel || sc == 0) && (x != 63 || (!acq && la == 0))
  | .aor la x _ _ sz acq rel sc _ => dstOk x && 2 ≤ sz.toNat && (acq || rel || sc == 0) && (x != 63 || (!acq && la == 0))
  | .axor la x _ _ sz acq rel sc _ => dstOk x && 2 ≤ sz.toNat && (acq || rel || sc == 0) && (x != 63 || (!acq && la == 0))
  | .amin la x _ _ sz acq rel sc _ => dstOk x && 2 ≤ sz.toNat && (acq || rel || sc == 0) && (x != 63 || (!acq && la == 0))
  | .amax la x _ _ sz acq rel sc _ => dstOk x && 2 ≤ sz.toNat && (acq || rel || sc == 0) && (x != 63 || (!acq && la == 0))
  | .aminu la x _ _ sz acq rel sc _ => dstOk x && 2 ≤ sz.toNat && (acq || rel || sc == 0) && (x != 63 || (!acq && la == 0))
  | .amaxu la x _ _ sz acq rel sc _ => dstOk x && 2 ≤ sz.toNat && (acq || rel || sc == 0) && (x != 63 || (!acq && la == 0))
  | .aswp la x _ _ sz acq rel sc _ => dstOk x && 2 ≤ sz.toNat && (acq || rel || sc == 0) && (x != 63 || (!acq && la == 0))
  | .acas la x _ _ _ sz acq rel sc _ => dstOk x && 2 ≤ sz.toNat && (acq || rel || sc == 0) && (x != 63 || (!acq && la == 0))
  | .bmove x y z _ acq rel sc => x != y && y != z && x != z && x.toNat < 48 && y.toNat < 48 && z.toNat < 48 && (acq || rel || sc == 0)
  | .cpsub _ x _ _ _ => dstOk x
  | .bmv _ x _ => dstOk x
  | .coll _ x _ _ => dstOk x
  | .cwait x _ _ _ => dstOk x
  | .boinit _ _ => true
  | .mbset x _ _ => dstOk x
  | .marm _ _ => true
  | .mref _ z w en => en || (z == 0 && w == 0)
  | .mread _ x _ what => dstOk x && what.toNat < 3
  | .radd _ x _ w n1 s => dstOk x && (if s then n1 == 0 else w.toNat < 32)
  | .rmax _ x _ w n1 s => dstOk x && (if s then n1 == 0 else w.toNat < 32)
  | .rlww _ x _ z w expl => dstOk x && w.toNat < 32 && (expl || z == 0)
  | .rsadd _ x _ _ => dstOk x
  | .rsrem _ x _ _ => dstOk x
  | .rshas _ x _ _ _ => dstOk x
  | .rmean _ x _ _ w n1 s => dstOk x && (if s then n1 == 0 else w.toNat < 32)
  | .rread _ x _ n1 s _ rm _ => (if s then dstOk x && n1 == 0 else x.toNat < 32) && rm.toNat < 5
  | .rfront _ x _ z sel' => dstOk x && (sel'.toNat < 2 || z == 0)
  | .rstab _ x _ _ _ _ => dstOk x
  | .rhlc _ x z op => dstOk x && op != 3 && (op == 2 || z == 0)
  | .tld _ _ _ sc acq _ _ => acq || sc == 0
  | .tst _ _ _ sc rel _ _ => rel || sc == 0
  | .tmov _ _ _ row rd ra => row || (rd == 0 && ra == 0)
  | .tfill _ _ _ _ row rd => row || rd == 0
  | .vadd _ _ _ tb gx rm te sati bc => teArith te && rmOk te rm && (teInt te || !sati) && (if bc then tb == 0 else gx == 0)
  | .vsub _ _ _ tb gx rm te sati bc => teArith te && rmOk te rm && (teInt te || !sati) && (if bc then tb == 0 else gx == 0)
  | .vmul _ _ _ tb gx rm te sati bc => teArith te && rmOk te rm && (teInt te || !sati) && (if bc then tb == 0 else gx == 0)
  | .vfma _ _ _ tb _ gx rm te sati bc => teArith te && rmOk te rm && (teInt te || !sati) && (if bc then tb == 0 else gx == 0)
  | .vdiv _ _ _ tb gx rm te bc => teFloat te && rm.toNat < 5 && (if bc then tb == 0 else gx == 0)
  | .vsqrt _ _ _ rm te => teFloat te && rm.toNat < 5
  | .vmin _ _ _ tb gx te sati bc => teArith te && (teInt te || !sati) && (if bc then tb == 0 else gx == 0)
  | .vmax _ _ _ tb gx te sati bc => teArith te && (teInt te || !sati) && (if bc then tb == 0 else gx == 0)
  | .vexp2 _ _ _ rm te => teFloat te && rm.toNat < 5
  | .vabs _ _ _ te sati => teArith te && (teInt te || !sati)
  | .vneg _ _ _ te sati => teArith te && (teInt te || !sati)
  | .vand _ _ _ tb gx te bc => teArith te && (if bc then tb == 0 else gx == 0)
  | .vor _ _ _ tb gx te bc => teArith te && (if bc then tb == 0 else gx == 0)
  | .vxor _ _ _ tb gx te bc => teArith te && (if bc then tb == 0 else gx == 0)
  | .vshl _ _ _ tb gx te bc => (te == 12 || te == 14) && (if bc then tb == 0 else gx == 0)
  | .vshr _ _ _ tb gx te _ bc => (te == 12 || te == 14) && (if bc then tb == 0 else gx == 0)
  | .vcvt _ _ _ rm te ste part => teCvt te && teCvt ste && partOk te ste part && rmCvt te ste rm
  | .vrsum _ _ _ rm te => teArith te && rmOk te rm
  | .vrmax _ _ _ te => teArith te
  | .vtrans _ _ _ tb te h => ((te == 11 || te == 12) && tb == 0 && !h) || te == 0 || te == 1 || te == 14
  | .mxpack _ td _ tc rm te part => 4 ≤ te.toNat && te.toNat ≤ 8 && (te == 8 || part.toNat < 4) && td != tc && rm.toNat < 5
  | .mxunpk _ _ _ _ rm te part => 4 ≤ te.toNat && te.toNat ≤ 8 && (te == 8 || part.toNat < 4) && rm.toNat < 5
  | .vscal _ _ _ _ _ rm te => (te == 11 || te == 12) && rm.toNat < 5
  | .mcfg _ _ as bs fa fb => (as || fa == 0) && (bs || fb == 0)
  | .mmul _ _ _ _ _ sub' _ mode => sub' == 0 || mode == 0
  | .msend _ td ta tb gx _ sub' zero kind ext => gx.toNat % 2 == 0 && gx.toNat ≤ 46 &&
      (match kind.toNat with
       | 0 => td == 0 && ext.extractLsb' 2 16 == 0 && (sub' == 0 || ext.extractLsb' 0 2 == 0)
       | 1 => td == 0 && ta == 0 && tb == 0 && sub' == 0 && !zero && ext.extractLsb' 6 12 == 0 &&
              (ext.getLsbD 5 || ext.extractLsb' 2 2 == 0) && (ext.getLsbD 4 || ext.extractLsb' 0 2 == 0)
       | 2 => ta == 0 && tb == 0 && sub' == 0 && !zero
       | _ => td == 0 && tb == 0 && sub' == 0 && !zero)
  | .acget _ _ rm te _ _ => (te == 11 || te == 12 || te == 0 || te == 1) && rm.toNat < 5 && (te == 0 || te == 1 || rm == 0)
  | .acput _ _ _ _ => true
  | .aczero _ _ _ _ _ => true
  | .amerge _ td ta tb d16 => dOk d16 && (td == ta || td == tb || (setOk td ta (tripleLen d16) (tripleLen d16) && setOk td tb (tripleLen d16) (tripleLen d16)))
  | .anorm _ td ta d16 => dOk d16 && setOk td ta (tripleLen d16 - 1) (tripleLen d16)
  | .slen _ len => len != 3
  | .sgen _ _ _ _ _ _ _ => true
  | .sand _ _ _ _ => true
  | .sxnor _ _ _ _ => true
  | .smux _ _ _ _ _ => true
  | .scnt _ _ _ _ out => out != 3
  | .sregen _ _ _ _ _ => true
  | .powerOn => true
  | .moduleReset => true
  | .cellRelease d => d < 8
  | .sensorConversion d _ _ => d < 8
  | .criticalHalt d => d < 8
  | .criticalResume d => d < 8
  | .throttleStepDown d => d < 8
  | .throttleStepUp d => d < 8
  | .warmLoopEval d => d < 8
  | .powerLimitEval _ => true
  | .clockStepApply d => d < 8
  | .ballastSetpoint _ _ => true
  | .ballastWindow _ => true
  | .hbmTempReading k _ => k < 16
  | .linkFrameReceive k _ => k < 16
  | .apply k => k < 16
  | .rehashComplete k => k < 16
  | .clrcnt k => k < 16
  | .hxmWrite k i _ => k < 16 && i < 6
  | .elheadWrite k _ => k < 16
  | .dahliaAdmit k j => k < 16 && j < 8
  | .migrationRetry cell slot => cell < 16896 && slot < 1024
  | .lingerReturn cell slot => cell < 16896 && slot < 1024
  | .migrationDepart cell slot => cell < 16896 && slot < 1024
  | .banksideStart k => k < 16
  | .banksideComplete k => k < 16
  | .burstReceive p _ _ _ => p < 96
  | .nakRepeat p => p < 96
  | .aseqTimer p => p < 96
  | .totalsFlitSend p => p < 96
  | .portSilenceTimeout p => p < 96
  | .laneCountClear => true
  | .laneRepairStart p => p < 96
  | .laneSwitchComplete p => p < 96
  | .rewiden p => p < 96
  | .rewidenComplete p _ => p < 96
  | .portDisable p => p < 96
  | .portEnable p => p < 96
  | .disableFlit p => p < 96
  | .farEndTraining p => p < 96
  | .portTrained p => p < 96
  | .packetForward f _ => f < 4
  | .e2eGapTimeout dev _ => dev < 2048
  | .retransmitTimeout dev _ => dev < 2048
  | .ack dev _ _ => dev < 2048
  | .nak dev _ _ => dev < 2048
  | .syn dev _ _ _ => dev < 2048
  | .resync dev _ _ => dev < 2048
  | .rtcmdWrite => true
  | .rtcmdWriteComplete => true
  | .rtcmdRead => true
  | .fidWrite _ => true
  | .rdreq _ => true
  | .rdresp cell slot _ _ _ => cell < 512 && slot < 32
  | .write _ => true
  | .wrdone cell slot _ _ => cell < 512 && slot < 32
  | .amo _ => true
  | .amoreq _ => true
  | .amoresp cell slot _ _ _ => cell < 512 && slot < 32
  | .syncst _ => true
  | .migrate k j _ => k < 16 && j < 8
  | .mighome cell slot _ _ => cell < 512 && slot < 32
  | .mignak cell slot => cell < 512 && slot < 32
  | .copydata _ => true
  | .trapframe q _ => q < 8
  | .tretframe _ => true
  | .framedead q _ _ => q < 8
  | .digest d q _ => d < 8 && q < 8
  | .delta d q _ => d < 8 && q < 8
  | .deltac d q _ _ _ _ _ => d < 8 && q < 8
  | .donor d q _ => d < 8 && q < 8
  | .rejoinSwitch d q _ => d < 8 && q < 8
  | .resetRejoin d q _ => d < 8 && q < 8
  | .deltaPartsTimeout d q _ _ _ => d < 8 && q < 8
  | .gossipRound d q _ => d < 8 && q < 8
  | .frontierUpdate d q _ => d < 8 && q < 8
  | .groupFold d q _ => d < 8 && q < 8
  | .ringPoll d q _ => d < 8 && q < 8
  | .ringRotationTick d => d < 8
  | .callPacket d q _ _ _ => d < 8 && q < 8
  | .go d q _ => d < 8 && q < 8
  | .mismatch d q _ => d < 8 && q < 8
  | .collectiveComplete d q _ => d < 8 && q < 8
  | .collectivePeerTimeout d q _ => d < 8 && q < 8
  | .taskDispatch d => d < 8
  | .taskOffer d cls => d < 8 && cls < 4
  | .ballastKill d cls => d < 8 && cls < 4
  | .taskEnd _ => true
  | .eventRecordProcess d core => d < 8 && core < 2
  | .cancel d => d < 8
  | .kill d => d < 8
  | .cancelgraph d => d < 8
  | .cheadWrite d c _ => d < 8 && c < 24
  | .copyRecordRead d c => d < 8 && c < 24
  | .copyPacketSend d c => d < 8 && c < 24
  | .copyOwnReread d c => d < 8 && c < 24
  | .copyRecordComplete d c => d < 8 && c < 24
  | .cctlEnWrite d c _ => d < 8 && c < 24
  | .abort d c => d < 8 && c < 24
  | .loadReturn cell slot _ => cell < 512 && slot < 32
  | .trapFrameSend cell slot => cell < 512 && slot < 32
  | .trapFrameRetry cell slot => cell < 512 && slot < 32
  | .yieldEnd cell slot => cell < 512 && slot < 32
  | .meshMessageArrive cell dir => cell < 512 && dir < 4
  | .fillArrive cell slot reg _ => cell < 512 && slot < 32 && reg < 48
  | .fillRetry cell slot => cell < 512 && slot < 32
  | .bankWake cell b => cell < 512 && b < 6
  | .bankPowerApply cell b => cell < 512 && b < 6
  | .bankAutoRetention cell b => cell < 512 && b < 6
  | .matrixMessageArrive cell _ => cell < 512
  | .matrixCommandStart cell => cell < 512
  | .matrixCommandFinish cell sub' => cell < 512 && sub' < 4
  | .bankSwitch q => q < 8
  | .bankSwitchComplete q => q < 8
  | .lazySwapUnit q cell => q < 8 && cell < 512
  | .dstopWrite q _ => q < 8
  | .einjArm _ => true
  | .einjDisarm _ => true
  | .skewMeasure _ _ => true
  | .traceSample d => d < 8
  | .trace d _ => d < 8
  | .tctlClear => true
  | .tctlFreeze _ => true
  | .map q => q < 8
  | .unmap q => q < 8
  | .protect q => q < 8
  | .move q => q < 8
  | .pin q => q < 8
  | .unpin q => q < 8
  | .flush q => q < 8
  | .xcmdComplete q => q < 8
  | .placementInterval q => q < 8
  | .pageMoveSwitch q _ => q < 8
  | .backgroundFill q _ => q < 8
  | .pageMoveFinish q _ => q < 8
  | .ptrootWrite q _ => q < 8
  | .syncAccessPerform k => k < 16
  | .syncRetry cell slot => cell < 512 && slot < 32
  | .barrierWaitRetry cell slot => cell < 512 && slot < 32
  | .partitionCreate q _ => q < 8
  | .partitionEnd q _ => q < 8
  | .fsrvWrite q _ => q < 8
  | .mreadPacket _ _ => true
  | .mwrite _ _ _ => true
  | .mresp _ _ _ => true
  | .stage _ => true
  | .activate _ => true
  | .attest _ => true
  | .raisemin _ => true
  | .recover _ => true
  | .mbcmdUnknown _ _ => true
  | .mailboxComplete => true
  | .registerWrite _ _ => true
  | .hostLinkTraining _ => true
  | .ringGetsWork d q _ => d < 8 && q < 8

/-- The scalar register that a C-slot instruction names as its destination (R281). -/
def cDst : Instr → Option GReg
  | .call _ => some 62
  | .jlr x _ => some x | .rep x _ => some x | .setpri x _ => some x | .launch x _ _ => some x
  | .ld _ x _ _ _ => some x | .lds _ x _ _ _ => some x | .ldx _ x _ _ _ => some x | .ldsx _ x _ _ _ => some x
  | .mbwait x _ _ _ => some x | .mbread _ x _ => some x | .bowait x _ _ _ => some x | .boread _ x _ _ => some x
  | .wmread _ x _ => some x
  | _ => none

/-- The scalar register that an A-slot instruction names as its destination (R281). -/
def aDst : Instr → Option GReg
  | .add d _ _ => some d
  | .sub d _ _ => some d
  | .mul d _ _ => some d
  | .mulh d _ _ => some d
  | .mulhu d _ _ => some d
  | .div d _ _ => some d
  | .divu d _ _ => some d
  | .rem d _ _ => some d
  | .remu d _ _ => some d
  | .and d _ _ => some d
  | .or d _ _ => some d
  | .xor d _ _ => some d
  | .andn d _ _ => some d
  | .shl d _ _ => some d
  | .shr d _ _ => some d
  | .sra d _ _ => some d
  | .rol d _ _ => some d
  | .ror d _ _ => some d
  | .min d _ _ => some d
  | .max d _ _ => some d
  | .minu d _ _ => some d
  | .maxu d _ _ => some d
  | .addsc d _ _ _ => some d
  | .sel d _ _ _ => some d
  | .clz d _ => some d
  | .ctz d _ => some d
  | .popc d _ => some d
  | .bswap d _ => some d
  | .bext d _ _ _ => some d
  | .bins d _ _ _ => some d
  | .sext d _ _ => some d
  | .addi d _ _ => some d
  | .andi d _ _ => some d
  | .ori d _ _ => some d
  | .xori d _ _ => some d
  | .shli d _ _ => some d
  | .shri d _ _ => some d
  | .srai d _ _ => some d
  | .muli d _ _ => some d
  | .cmp d _ _ _ _ => some d
  | .cmpi d _ _ _ _ => some d
  | .fcmp d _ _ _ _ => some d
  | .fcmpd d _ _ _ _ => some d
  | .take d _ => some d
  | .mkempty d => some d
  | .mkfull d => some d
  | .isfull d _ => some d
  | .fadd d _ _ _ _ => some d
  | .fsub d _ _ _ _ => some d
  | .fmul d _ _ _ _ => some d
  | .fdiv d _ _ _ _ => some d
  | .fsqrt d _ _ _ => some d
  | .fma d _ _ _ _ => some d
  | .fmin d _ _ _ => some d
  | .fmax d _ _ _ => some d
  | .fabs d _ _ => some d
  | .fneg d _ _ => some d
  | .fcvt d _ _ _ _ => some d
  | .fcvti d _ _ _ _ => some d
  | .icvtf d _ _ _ _ => some d
  | .fclass d _ _ => some d
  | .fexp2 d _ _ _ => some d
  | _ => none

/-- The skip of a compare (R279). -/
def skipOf : Instr → Nat
  | .cmp _ _ _ k _ => k.toNat | .cmpi _ _ _ k _ => k.toNat | .fcmp _ _ _ k _ => k.toNat | .fcmpd _ _ _ k _ => k.toNat
  | _ => 0

/-- The C-slot instructions beside which a compare may not skip (R279). -/
def steers : Instr → Bool
  | .br _ => true | .call _ => true | .bz _ _ => true | .bnz _ _ => true | .jr _ => true | .jlr _ _ => true
  | .rep _ _ => true | .done => true
  | _ => false

/-- What a pair must satisfy (R279, R281, R302): one destination register at most, no skip beside a branch, and no take
of the register that the C slot writes. -/
def pairOk (c a : Instr) : Bool :=
  (match cDst c, aDst a with
   | some x, some d => x != d || x == 63
   | _, _ => true) &&
  (skipOf a == 0 || !steers c) &&
  (match a with
   | .take _ s => cDst c != some s
   | _ => true)

end Sys2Proof
end

