-- ==== Sys2Proof/Decode.lean ====
section
/-! DEFINITION. The decoder of a bundle and the encoder, from the encoding tables of spec/13_isa_encoding.md (R272 to
R286) and the field tables of spec/14 to spec/17. Everything that is not an instruction is rejected by name (R282). -/
namespace Sys2Proof

/-- Why a word is no instruction (R282). -/
inductive DecodeErr where
  /-- An opcode that its space does not assign, word 1 bit 31 set beside a C-slot word, or too few bytes. -/
  | unassigned
  /-- A nonzero bit in a field that the instruction does not use. -/
  | reserved
  /-- A field value that the instruction does not accept. -/
  | operand
  /-- A pair that R279, R281 or R302 does not allow. -/
  | pairing
  deriving DecidableEq, Repr

/-- A bundle (R272): a C-slot and an A-slot instruction, or one lone instruction. -/
inductive Bundle where
  | pair (c a : Instr)
  | lone (i : Instr)
  deriving DecidableEq, Repr

/-- An encoded instruction: a word of the C slot, a word of the A slot, or a lone bundle (word 1 above word 0). -/
inductive Code where
  | c (w : BitVec 32)
  | a (w : BitVec 32)
  | lone (w : BitVec 64)
  deriving DecidableEq, Repr

/-- The instruction `i` if its unused fields hold what they must (`z`) and its operands are accepted. -/
def accept (z : Bool) (i : Instr) : Except DecodeErr Instr :=
  if z then (if i.wf then .ok i else .error .operand) else .error .reserved

/-- A word 0 whose bit 31 is 0: the C map (R284) with the formats of R274. -/
def decodeC (w : BitVec 32) : Except DecodeErr Instr :=
  match (w.extractLsb' 24 7).toNat with
  | 0x01 => accept (w.extractLsb' 20 4 == 0)
      (.br (w.extractLsb' 0 20))
  | 0x02 => accept (w.extractLsb' 20 4 == 0)
      (.call (w.extractLsb' 0 20))
  | 0x03 => accept (w.extractLsb' 20 4 == 0)
      (.bz (w.extractLsb' 14 6) (w.extractLsb' 0 14))
  | 0x04 => accept (w.extractLsb' 20 4 == 0)
      (.bnz (w.extractLsb' 14 6) (w.extractLsb' 0 14))
  | 0x05 => accept (w.extractLsb' 20 4 == 0 && w.extractLsb' 14 6 == 0 && w.extractLsb' 2 6 == 0 && w.extractLsb' 0 2 == 0)
      (.jr (w.extractLsb' 8 6))
  | 0x06 => accept (w.extractLsb' 20 4 == 0 && w.extractLsb' 2 6 == 0 && w.extractLsb' 0 2 == 0)
      (.jlr (w.extractLsb' 14 6) (w.extractLsb' 8 6))
  | 0x07 => accept (w.extractLsb' 20 4 == 0 && w.extractLsb' 0 2 == 0)
      (.rep (w.extractLsb' 14 6) (w.extractLsb' 2 12))
  | 0x08 => accept (w.extractLsb' 20 4 == 0 && w.extractLsb' 0 20 == 0)
      (.yield)
  | 0x09 => accept (w.extractLsb' 20 4 == 0 && w.extractLsb' 0 20 == 0)
      (.done)
  | 0x0a => accept (w.extractLsb' 20 4 == 0 && w.extractLsb' 2 6 == 0 && w.extractLsb' 0 2 == 0)
      (.setpri (w.extractLsb' 14 6) (w.extractLsb' 8 6))
  | 0x0b => accept (w.extractLsb' 20 4 == 0 && w.extractLsb' 0 20 == 0)
      (.tbar)
  | 0x0c => accept (w.extractLsb' 20 4 == 0 && w.extractLsb' 0 2 == 0)
      (.launch (w.extractLsb' 14 6) (w.extractLsb' 8 6) (w.extractLsb' 2 6))
  | 0x0d => accept (w.extractLsb' 20 4 == 0 && w.extractLsb' 14 6 == 0 && w.extractLsb' 0 2 == 0)
      (.fill (w.extractLsb' 8 6) (w.extractLsb' 2 6))
  | 0x10 => accept (true)
      (.ld (w.extractLsb' 20 4) (w.extractLsb' 14 6) (w.extractLsb' 8 6) (w.extractLsb' 6 2) (w.extractLsb' 0 6))
  | 0x11 => accept (true)
      (.lds (w.extractLsb' 20 4) (w.extractLsb' 14 6) (w.extractLsb' 8 6) (w.extractLsb' 6 2) (w.extractLsb' 0 6))
  | 0x12 => accept (w.extractLsb' 20 4 == 0)
      (.st (w.extractLsb' 14 6) (w.extractLsb' 8 6) (w.extractLsb' 6 2) (w.extractLsb' 0 6))
  | 0x13 => accept (true)
      (.ldx (w.extractLsb' 20 4) (w.extractLsb' 14 6) (w.extractLsb' 8 6) (w.extractLsb' 2 6) (w.extractLsb' 0 2))
  | 0x14 => accept (true)
      (.ldsx (w.extractLsb' 20 4) (w.extractLsb' 14 6) (w.extractLsb' 8 6) (w.extractLsb' 2 6) (w.extractLsb' 0 2))
  | 0x15 => accept (w.extractLsb' 20 4 == 0)
      (.stx (w.extractLsb' 14 6) (w.extractLsb' 8 6) (w.extractLsb' 2 6) (w.extractLsb' 0 2))
  | 0x16 => accept (w.extractLsb' 20 4 == 0 && w.extractLsb' 14 6 == 0)
      (.pf (w.extractLsb' 8 6) (w.extractLsb' 6 2) (w.extractLsb' 0 6))
  | 0x17 => accept (w.extractLsb' 20 4 == 0 && w.extractLsb' 4 16 == 0)
      (.fence (w.extractLsb' 2 2) (w.extractLsb' 0 2))
  | 0x18 => accept (w.extractLsb' 20 4 == 0 && w.extractLsb' 14 6 == 0 && w.extractLsb' 0 2 == 0)
      (.cinv (w.extractLsb' 8 6) (w.extractLsb' 2 6))
  | 0x20 => accept (w.extractLsb' 20 4 == 0)
      (.mbwait (w.extractLsb' 14 6) (w.extractLsb' 8 6) (w.extractLsb' 2 6) (w.extractLsb' 0 2))
  | 0x21 => accept (w.extractLsb' 2 6 == 0 && w.extractLsb' 0 2 == 0)
      (.mbread (w.extractLsb' 20 4) (w.extractLsb' 14 6) (w.extractLsb' 8 6))
  | 0x22 => accept (w.extractLsb' 20 4 == 0)
      (.bowait (w.extractLsb' 14 6) (w.extractLsb' 8 6) (w.extractLsb' 2 6) (w.extractLsb' 0 2))
  | 0x23 => accept (w.extractLsb' 2 6 == 0)
      (.boread (w.extractLsb' 20 4) (w.extractLsb' 14 6) (w.extractLsb' 8 6) (w.extractLsb' 0 2))
  | 0x24 => accept (w.extractLsb' 2 6 == 0 && w.extractLsb' 0 2 == 0)
      (.wmread (w.extractLsb' 20 4) (w.extractLsb' 14 6) (w.extractLsb' 8 6))
  | 0x7f => accept (w.extractLsb' 20 4 == 0 && w.extractLsb' 0 20 == 0)
      (.nopc)
  | _ => .error .unassigned

/-- A word 1 beside it: the A map (R285) with the formats of R275. Bit 31 must be zero. -/
def decodeA (w : BitVec 32) : Except DecodeErr Instr :=
  if w.getLsbD 31 then .error .unassigned else
  match (w.extractLsb' 24 7).toNat with
  | 0x01 => accept (w.extractLsb' 0 6 == 0)
      (.add (w.extractLsb' 18 6) (w.extractLsb' 12 6) (w.extractLsb' 6 6))
  | 0x02 => accept (w.extractLsb' 0 6 == 0)
      (.sub (w.extractLsb' 18 6) (w.extractLsb' 12 6) (w.extractLsb' 6 6))
  | 0x03 => accept (w.extractLsb' 0 6 == 0)
      (.mul (w.extractLsb' 18 6) (w.extractLsb' 12 6) (w.extractLsb' 6 6))
  | 0x04 => accept (w.extractLsb' 0 6 == 0)
      (.mulh (w.extractLsb' 18 6) (w.extractLsb' 12 6) (w.extractLsb' 6 6))
  | 0x05 => accept (w.extractLsb' 0 6 == 0)
      (.mulhu (w.extractLsb' 18 6) (w.extractLsb' 12 6) (w.extractLsb' 6 6))
  | 0x06 => accept (w.extractLsb' 0 6 == 0)
      (.div (w.extractLsb' 18 6) (w.extractLsb' 12 6) (w.extractLsb' 6 6))
  | 0x07 => accept (w.extractLsb' 0 6 == 0)
      (.divu (w.extractLsb' 18 6) (w.extractLsb' 12 6) (w.extractLsb' 6 6))
  | 0x08 => accept (w.extractLsb' 0 6 == 0)
      (.rem (w.extractLsb' 18 6) (w.extractLsb' 12 6) (w.extractLsb' 6 6))
  | 0x09 => accept (w.extractLsb' 0 6 == 0)
      (.remu (w.extractLsb' 18 6) (w.extractLsb' 12 6) (w.extractLsb' 6 6))
  | 0x0a => accept (w.extractLsb' 0 6 == 0)
      (.and (w.extractLsb' 18 6) (w.extractLsb' 12 6) (w.extractLsb' 6 6))
  | 0x0b => accept (w.extractLsb' 0 6 == 0)
      (.or (w.extractLsb' 18 6) (w.extractLsb' 12 6) (w.extractLsb' 6 6))
  | 0x0c => accept (w.extractLsb' 0 6 == 0)
      (.xor (w.extractLsb' 18 6) (w.extractLsb' 12 6) (w.extractLsb' 6 6))
  | 0x0d => accept (w.extractLsb' 0 6 == 0)
      (.andn (w.extractLsb' 18 6) (w.extractLsb' 12 6) (w.extractLsb' 6 6))
  | 0x0e => accept (w.extractLsb' 0 6 == 0)
      (.shl (w.extractLsb' 18 6) (w.extractLsb' 12 6) (w.extractLsb' 6 6))
  | 0x0f => accept (w.extractLsb' 0 6 == 0)
      (.shr (w.extractLsb' 18 6) (w.extractLsb' 12 6) (w.extractLsb' 6 6))
  | 0x10 => accept (w.extractLsb' 0 6 == 0)
      (.sra (w.extractLsb' 18 6) (w.extractLsb' 12 6) (w.extractLsb' 6 6))
  | 0x11 => accept (w.extractLsb' 0 6 == 0)
      (.rol (w.extractLsb' 18 6) (w.extractLsb' 12 6) (w.extractLsb' 6 6))
  | 0x12 => accept (w.extractLsb' 0 6 == 0)
      (.ror (w.extractLsb' 18 6) (w.extractLsb' 12 6) (w.extractLsb' 6 6))
  | 0x13 => accept (w.extractLsb' 0 6 == 0)
      (.min (w.extractLsb' 18 6) (w.extractLsb' 12 6) (w.extractLsb' 6 6))
  | 0x14 => accept (w.extractLsb' 0 6 == 0)
      (.max (w.extractLsb' 18 6) (w.extractLsb' 12 6) (w.extractLsb' 6 6))
  | 0x15 => accept (w.extractLsb' 0 6 == 0)
      (.minu (w.extractLsb' 18 6) (w.extractLsb' 12 6) (w.extractLsb' 6 6))
  | 0x16 => accept (w.extractLsb' 0 6 == 0)
      (.maxu (w.extractLsb' 18 6) (w.extractLsb' 12 6) (w.extractLsb' 6 6))
  | 0x17 => accept (true)
      (.addsc (w.extractLsb' 18 6) (w.extractLsb' 12 6) (w.extractLsb' 6 6) (w.extractLsb' 0 6))
  | 0x18 => accept (true)
      (.sel (w.extractLsb' 18 6) (w.extractLsb' 12 6) (w.extractLsb' 6 6) (w.extractLsb' 0 6))
  | 0x19 => accept (w.extractLsb' 0 12 == 0)
      (.clz (w.extractLsb' 18 6) (w.extractLsb' 12 6))
  | 0x1a => accept (w.extractLsb' 0 12 == 0)
      (.ctz (w.extractLsb' 18 6) (w.extractLsb' 12 6))
  | 0x1b => accept (w.extractLsb' 0 12 == 0)
      (.popc (w.extractLsb' 18 6) (w.extractLsb' 12 6))
  | 0x1c => accept (w.extractLsb' 0 12 == 0)
      (.bswap (w.extractLsb' 18 6) (w.extractLsb' 12 6))
  | 0x1d => accept (true)
      (.bext (w.extractLsb' 18 6) (w.extractLsb' 12 6) (w.extractLsb' 6 6) (w.extractLsb' 0 6))
  | 0x1e => accept (true)
      (.bins (w.extractLsb' 18 6) (w.extractLsb' 12 6) (w.extractLsb' 6 6) (w.extractLsb' 0 6))
  | 0x1f => accept (w.extractLsb' 6 6 == 0)
      (.sext (w.extractLsb' 18 6) (w.extractLsb' 12 6) (w.extractLsb' 0 6))
  | 0x20 => accept (true)
      (.addi (w.extractLsb' 18 6) (w.extractLsb' 12 6) (w.extractLsb' 0 12))
  | 0x21 => accept (true)
      (.andi (w.extractLsb' 18 6) (w.extractLsb' 12 6) (w.extractLsb' 0 12))
  | 0x22 => accept (true)
      (.ori (w.extractLsb' 18 6) (w.extractLsb' 12 6) (w.extractLsb' 0 12))
  | 0x23 => accept (true)
      (.xori (w.extractLsb' 18 6) (w.extractLsb' 12 6) (w.extractLsb' 0 12))
  | 0x24 => accept (true)
      (.shli (w.extractLsb' 18 6) (w.extractLsb' 12 6) (w.extractLsb' 0 12))
  | 0x25 => accept (true)
      (.shri (w.extractLsb' 18 6) (w.extractLsb' 12 6) (w.extractLsb' 0 12))
  | 0x26 => accept (true)
      (.srai (w.extractLsb' 18 6) (w.extractLsb' 12 6) (w.extractLsb' 0 12))
  | 0x27 => accept (true)
      (.muli (w.extractLsb' 18 6) (w.extractLsb' 12 6) (w.extractLsb' 0 12))
  | 0x30 => accept (true)
      (.cmp (w.extractLsb' 18 6) (w.extractLsb' 12 6) (w.extractLsb' 6 6) (w.extractLsb' 4 2) (w.extractLsb' 0 4))
  | 0x31 => accept (true)
      (.cmpi (w.extractLsb' 18 6) (w.extractLsb' 12 6) (w.extractLsb' 6 6) (w.extractLsb' 4 2) (w.extractLsb' 0 4))
  | 0x32 => accept (true)
      (.fcmp (w.extractLsb' 18 6) (w.extractLsb' 12 6) (w.extractLsb' 6 6) (w.extractLsb' 4 2) (w.extractLsb' 0 4))
  | 0x33 => accept (true)
      (.fcmpd (w.extractLsb' 18 6) (w.extractLsb' 12 6) (w.extractLsb' 6 6) (w.extractLsb' 4 2) (w.extractLsb' 0 4))
  | 0x38 => accept (w.extractLsb' 0 12 == 0)
      (.take (w.extractLsb' 18 6) (w.extractLsb' 12 6))
  | 0x39 => accept (w.extractLsb' 0 18 == 0)
      (.mkempty (w.extractLsb' 18 6))
  | 0x3a => accept (w.extractLsb' 0 18 == 0)
      (.mkfull (w.extractLsb' 18 6))
  | 0x3b => accept (w.extractLsb' 0 12 == 0)
      (.isfull (w.extractLsb' 18 6) (w.extractLsb' 12 6))
  | 0x40 => accept (w.extractLsb' 0 1 == 0)
      (.fadd (w.extractLsb' 18 6) (w.extractLsb' 12 6) (w.extractLsb' 6 6) (w.extractLsb' 3 3) (w.extractLsb' 1 2))
  | 0x41 => accept (w.extractLsb' 0 1 == 0)
      (.fsub (w.extractLsb' 18 6) (w.extractLsb' 12 6) (w.extractLsb' 6 6) (w.extractLsb' 3 3) (w.extractLsb' 1 2))
  | 0x42 => accept (w.extractLsb' 0 1 == 0)
      (.fmul (w.extractLsb' 18 6) (w.extractLsb' 12 6) (w.extractLsb' 6 6) (w.extractLsb' 3 3) (w.extractLsb' 1 2))
  | 0x43 => accept (w.extractLsb' 0 1 == 0)
      (.fdiv (w.extractLsb' 18 6) (w.extractLsb' 12 6) (w.extractLsb' 6 6) (w.extractLsb' 3 3) (w.extractLsb' 1 2))
  | 0x44 => accept (w.extractLsb' 6 6 == 0 && w.extractLsb' 0 1 == 0)
      (.fsqrt (w.extractLsb' 18 6) (w.extractLsb' 12 6) (w.extractLsb' 3 3) (w.extractLsb' 1 2))
  | 0x45 => accept (w.extractLsb' 0 1 == 0)
      (.fma (w.extractLsb' 18 6) (w.extractLsb' 12 6) (w.extractLsb' 6 6) (w.extractLsb' 3 3) (w.extractLsb' 1 2))
  | 0x46 => accept (w.extractLsb' 3 3 == 0 && w.extractLsb' 0 1 == 0)
      (.fmin (w.extractLsb' 18 6) (w.extractLsb' 12 6) (w.extractLsb' 6 6) (w.extractLsb' 1 2))
  | 0x47 => accept (w.extractLsb' 3 3 == 0 && w.extractLsb' 0 1 == 0)
      (.fmax (w.extractLsb' 18 6) (w.extractLsb' 12 6) (w.extractLsb' 6 6) (w.extractLsb' 1 2))
  | 0x48 => accept (w.extractLsb' 3 9 == 0 && w.extractLsb' 0 1 == 0)
      (.fabs (w.extractLsb' 18 6) (w.extractLsb' 12 6) (w.extractLsb' 1 2))
  | 0x49 => accept (w.extractLsb' 3 9 == 0 && w.extractLsb' 0 1 == 0)
      (.fneg (w.extractLsb' 18 6) (w.extractLsb' 12 6) (w.extractLsb' 1 2))
  | 0x4a => accept (w.extractLsb' 8 4 == 0 && w.extractLsb' 0 1 == 0)
      (.fcvt (w.extractLsb' 18 6) (w.extractLsb' 12 6) (w.extractLsb' 6 2) (w.extractLsb' 3 3) (w.extractLsb' 1 2))
  | 0x4b => accept (w.extractLsb' 0 1 == 0)
      (.fcvti (w.extractLsb' 18 6) (w.extractLsb' 12 6) (w.extractLsb' 6 6) (w.extractLsb' 3 3) (w.extractLsb' 1 2))
  | 0x4c => accept (w.extractLsb' 0 1 == 0)
      (.icvtf (w.extractLsb' 18 6) (w.extractLsb' 12 6) (w.extractLsb' 6 6) (w.extractLsb' 3 3) (w.extractLsb' 1 2))
  | 0x4d => accept (w.extractLsb' 3 9 == 0 && w.extractLsb' 0 1 == 0)
      (.fclass (w.extractLsb' 18 6) (w.extractLsb' 12 6) (w.extractLsb' 1 2))
  | 0x4e => accept (w.extractLsb' 6 6 == 0 && w.extractLsb' 0 1 == 0)
      (.fexp2 (w.extractLsb' 18 6) (w.extractLsb' 12 6) (w.extractLsb' 3 3) (w.extractLsb' 1 2))
  | 0x7f => accept (w.extractLsb' 0 24 == 0)
      (.nopa)
  | _ => .error .unassigned

/-- A lone instruction, word 1 above word 0: the lone map (R286) with the formats of R276. -/
def decodeLone (w : BitVec 64) : Except DecodeErr Instr :=
  match (w.extractLsb' 24 7).toNat with
  | 0x00 => accept (w.extractLsb' 20 4 == 0 && w.extractLsb' 0 14 == 0)
      (.ldi (w.extractLsb' 14 6) (w.extractLsb' 32 32))
  | 0x01 => accept (w.extractLsb' 20 4 == 0 && w.extractLsb' 0 14 == 0)
      (.ldih (w.extractLsb' 14 6) (w.extractLsb' 32 32))
  | 0x02 => accept (w.extractLsb' 58 6 == 0 && w.extractLsb' 20 4 == 0 && w.extractLsb' 14 6 == 0 && w.extractLsb' 8 6 == 0 && w.extractLsb' 2 6 == 0 && w.extractLsb' 0 2 == 0)
      (.trap (w.extractLsb' 32 26))
  | 0x03 => accept (w.extractLsb' 58 6 == 0 && w.extractLsb' 32 26 == 0 && w.extractLsb' 20 4 == 0 && w.extractLsb' 2 6 == 0 && w.extractLsb' 0 2 == 0)
      (.tret (w.extractLsb' 14 6) (w.extractLsb' 8 6))
  | 0x04 => accept (w.extractLsb' 58 6 == 0 && w.extractLsb' 2 6 == 0 && w.extractLsb' 0 2 == 0)
      (.rdpr (w.extractLsb' 20 4) (w.extractLsb' 14 6) (w.extractLsb' 8 6) (w.extractLsb' 32 26))
  | 0x05 => accept (w.extractLsb' 58 6 == 0 && w.extractLsb' 20 4 == 0 && w.extractLsb' 14 6 == 0 && w.extractLsb' 0 2 == 0)
      (.wrpr (w.extractLsb' 8 6) (w.extractLsb' 2 6) (w.extractLsb' 32 26))
  | 0x06 => accept (w.extractLsb' 58 6 == 0 && w.extractLsb' 33 25 == 0 && w.extractLsb' 20 4 == 0 && w.extractLsb' 2 6 == 0 && w.extractLsb' 0 2 == 0)
      (.cbank (w.extractLsb' 14 6) (w.extractLsb' 8 6) (w.getLsbD 32))
  | 0x07 => accept (w.extractLsb' 58 6 == 0 && w.extractLsb' 34 24 == 0 && w.extractLsb' 20 4 == 0 && w.extractLsb' 8 6 == 0 && w.extractLsb' 2 6 == 0 && w.extractLsb' 0 2 == 0)
      (.rdtb (w.extractLsb' 14 6) (w.extractLsb' 32 2))
  | 0x10 => accept (w.extractLsb' 58 6 == 0 && w.extractLsb' 54 1 == 0 && w.extractLsb' 2 6 == 0 && w.extractLsb' 0 2 == 0)
      (.ldLone (w.extractLsb' 20 4) (w.extractLsb' 14 6) (w.extractLsb' 8 6) (w.extractLsb' 56 2) (w.getLsbD 55) (w.extractLsb' 52 2) (w.getLsbD 51) (w.extractLsb' 32 19))
  | 0x11 => accept (w.extractLsb' 58 6 == 0 && w.extractLsb' 55 1 == 0 && w.extractLsb' 51 1 == 0 && w.extractLsb' 20 4 == 0 && w.extractLsb' 2 6 == 0 && w.extractLsb' 0 2 == 0)
      (.stLone (w.extractLsb' 14 6) (w.extractLsb' 8 6) (w.extractLsb' 56 2) (w.getLsbD 54) (w.extractLsb' 52 2) (w.extractLsb' 32 19))
  | 0x12 => accept (w.extractLsb' 58 6 == 0 && w.extractLsb' 56 2 == 3 && w.extractLsb' 55 1 == 1 && w.extractLsb' 54 1 == 0 && w.extractLsb' 51 1 == 0 && w.extractLsb' 2 6 == 0 && w.extractLsb' 0 2 == 0)
      (.ldsy (w.extractLsb' 20 4) (w.extractLsb' 14 6) (w.extractLsb' 8 6) (w.extractLsb' 52 2) (w.extractLsb' 32 19))
  | 0x13 => accept (w.extractLsb' 58 6 == 0 && w.extractLsb' 56 2 == 3 && w.extractLsb' 55 1 == 0 && w.extractLsb' 54 1 == 1 && w.extractLsb' 51 1 == 0 && w.extractLsb' 20 4 == 0 && w.extractLsb' 2 6 == 0 && w.extractLsb' 0 2 == 0)
      (.stsy (w.extractLsb' 14 6) (w.extractLsb' 8 6) (w.extractLsb' 52 2) (w.extractLsb' 32 19))
  | 0x14 => accept (w.extractLsb' 58 6 == 0 && w.extractLsb' 51 1 == 0 && w.extractLsb' 0 2 == 0)
      (.aadd (w.extractLsb' 20 4) (w.extractLsb' 14 6) (w.extractLsb' 8 6) (w.extractLsb' 2 6) (w.extractLsb' 56 2) (w.getLsbD 55) (w.getLsbD 54) (w.extractLsb' 52 2) (w.extractLsb' 32 19))
  | 0x15 => accept (w.extractLsb' 58 6 == 0 && w.extractLsb' 51 1 == 0 && w.extractLsb' 0 2 == 0)
      (.aand (w.extractLsb' 20 4) (w.extractLsb' 14 6) (w.extractLsb' 8 6) (w.extractLsb' 2 6) (w.extractLsb' 56 2) (w.getLsbD 55) (w.getLsbD 54) (w.extractLsb' 52 2) (w.extractLsb' 32 19))
  | 0x16 => accept (w.extractLsb' 58 6 == 0 && w.extractLsb' 51 1 == 0 && w.extractLsb' 0 2 == 0)
      (.aor (w.extractLsb' 20 4) (w.extractLsb' 14 6) (w.extractLsb' 8 6) (w.extractLsb' 2 6) (w.extractLsb' 56 2) (w.getLsbD 55) (w.getLsbD 54) (w.extractLsb' 52 2) (w.extractLsb' 32 19))
  | 0x17 => accept (w.extractLsb' 58 6 == 0 && w.extractLsb' 51 1 == 0 && w.extractLsb' 0 2 == 0)
      (.axor (w.extractLsb' 20 4) (w.extractLsb' 14 6) (w.extractLsb' 8 6) (w.extractLsb' 2 6) (w.extractLsb' 56 2) (w.getLsbD 55) (w.getLsbD 54) (w.extractLsb' 52 2) (w.extractLsb' 32 19))
  | 0x18 => accept (w.extractLsb' 58 6 == 0 && w.extractLsb' 51 1 == 0 && w.extractLsb' 0 2 == 0)
      (.amin (w.extractLsb' 20 4) (w.extractLsb' 14 6) (w.extractLsb' 8 6) (w.extractLsb' 2 6) (w.extractLsb' 56 2) (w.getLsbD 55) (w.getLsbD 54) (w.extractLsb' 52 2) (w.extractLsb' 32 19))
  | 0x19 => accept (w.extractLsb' 58 6 == 0 && w.extractLsb' 51 1 == 0 && w.extractLsb' 0 2 == 0)
      (.amax (w.extractLsb' 20 4) (w.extractLsb' 14 6) (w.extractLsb' 8 6) (w.extractLsb' 2 6) (w.extractLsb' 56 2) (w.getLsbD 55) (w.getLsbD 54) (w.extractLsb' 52 2) (w.extractLsb' 32 19))
  | 0x1a => accept (w.extractLsb' 58 6 == 0 && w.extractLsb' 51 1 == 0 && w.extractLsb' 0 2 == 0)
      (.aminu (w.extractLsb' 20 4) (w.extractLsb' 14 6) (w.extractLsb' 8 6) (w.extractLsb' 2 6) (w.extractLsb' 56 2) (w.getLsbD 55) (w.getLsbD 54) (w.extractLsb' 52 2) (w.extractLsb' 32 19))
  | 0x1b => accept (w.extractLsb' 58 6 == 0 && w.extractLsb' 51 1 == 0 && w.extractLsb' 0 2 == 0)
      (.amaxu (w.extractLsb' 20 4) (w.extractLsb' 14 6) (w.extractLsb' 8 6) (w.extractLsb' 2 6) (w.extractLsb' 56 2) (w.getLsbD 55) (w.getLsbD 54) (w.extractLsb' 52 2) (w.extractLsb' 32 19))
  | 0x1c => accept (w.extractLsb' 58 6 == 0 && w.extractLsb' 51 1 == 0 && w.extractLsb' 0 2 == 0)
      (.aswp (w.extractLsb' 20 4) (w.extractLsb' 14 6) (w.extractLsb' 8 6) (w.extractLsb' 2 6) (w.extractLsb' 56 2) (w.getLsbD 55) (w.getLsbD 54) (w.extractLsb' 52 2) (w.extractLsb' 32 19))
  | 0x1d => accept (w.extractLsb' 51 1 == 0 && w.extractLsb' 0 2 == 0)
      (.acas (w.extractLsb' 20 4) (w.extractLsb' 14 6) (w.extractLsb' 8 6) (w.extractLsb' 2 6) (w.extractLsb' 58 6) (w.extractLsb' 56 2) (w.getLsbD 55) (w.getLsbD 54) (w.extractLsb' 52 2) (w.extractLsb' 32 19))
  | 0x1e => accept (w.extractLsb' 58 6 == 0 && w.extractLsb' 32 20 == 0 && w.extractLsb' 20 4 == 0 && w.extractLsb' 0 2 == 0)
      (.bmove (w.extractLsb' 14 6) (w.extractLsb' 8 6) (w.extractLsb' 2 6) (w.extractLsb' 56 2) (w.getLsbD 55) (w.getLsbD 54) (w.extractLsb' 52 2))
  | 0x20 => accept (w.extractLsb' 58 6 == 0 && w.extractLsb' 33 25 == 0 && w.extractLsb' 0 2 == 0)
      (.cpsub (w.extractLsb' 20 4) (w.extractLsb' 14 6) (w.extractLsb' 8 6) (w.extractLsb' 2 6) (w.getLsbD 32))
  | 0x21 => accept (w.extractLsb' 58 6 == 0 && w.extractLsb' 32 26 == 0 && w.extractLsb' 2 6 == 0 && w.extractLsb' 0 2 == 0)
      (.bmv (w.extractLsb' 20 4) (w.extractLsb' 14 6) (w.extractLsb' 8 6))
  | 0x22 => accept (w.extractLsb' 58 6 == 0 && w.extractLsb' 32 26 == 0 && w.extractLsb' 0 2 == 0)
      (.coll (w.extractLsb' 20 4) (w.extractLsb' 14 6) (w.extractLsb' 8 6) (w.extractLsb' 2 6))
  | 0x23 => accept (w.extractLsb' 58 6 == 0 && w.extractLsb' 33 25 == 0 && w.extractLsb' 20 4 == 0 && w.extractLsb' 0 2 == 0)
      (.cwait (w.extractLsb' 14 6) (w.extractLsb' 8 6) (w.extractLsb' 2 6) (w.getLsbD 32))
  | 0x24 => accept (w.extractLsb' 58 6 == 0 && w.extractLsb' 32 26 == 0 && w.extractLsb' 20 4 == 0 && w.extractLsb' 14 6 == 0 && w.extractLsb' 0 2 == 0)
      (.boinit (w.extractLsb' 8 6) (w.extractLsb' 2 6))
  | 0x25 => accept (w.extractLsb' 58 6 == 0 && w.extractLsb' 32 26 == 0 && w.extractLsb' 20 4 == 0 && w.extractLsb' 0 2 == 0)
      (.mbset (w.extractLsb' 14 6) (w.extractLsb' 8 6) (w.extractLsb' 2 6))
  | 0x26 => accept (w.extractLsb' 58 6 == 0 && w.extractLsb' 32 26 == 0 && w.extractLsb' 20 4 == 0 && w.extractLsb' 14 6 == 0 && w.extractLsb' 0 2 == 0)
      (.marm (w.extractLsb' 8 6) (w.extractLsb' 2 6))
  | 0x27 => accept (w.extractLsb' 33 25 == 0 && w.extractLsb' 20 4 == 0 && w.extractLsb' 14 6 == 0 && w.extractLsb' 0 2 == 0)
      (.mref (w.extractLsb' 8 6) (w.extractLsb' 2 6) (w.extractLsb' 58 6) (w.getLsbD 32))
  | 0x28 => accept (w.extractLsb' 58 6 == 0 && w.extractLsb' 34 24 == 0 && w.extractLsb' 2 6 == 0 && w.extractLsb' 0 2 == 0)
      (.mread (w.extractLsb' 20 4) (w.extractLsb' 14 6) (w.extractLsb' 8 6) (w.extractLsb' 32 2))
  | 0x30 => accept (w.extractLsb' 46 12 == 0 && w.extractLsb' 2 6 == 0 && w.extractLsb' 0 2 == 0)
      (.radd (w.extractLsb' 20 4) (w.extractLsb' 14 6) (w.extractLsb' 8 6) (w.extractLsb' 58 6) (w.extractLsb' 32 13) (w.getLsbD 45))
  | 0x31 => accept (w.extractLsb' 46 12 == 0 && w.extractLsb' 2 6 == 0 && w.extractLsb' 0 2 == 0)
      (.rmax (w.extractLsb' 20 4) (w.extractLsb' 14 6) (w.extractLsb' 8 6) (w.extractLsb' 58 6) (w.extractLsb' 32 13) (w.getLsbD 45))
  | 0x32 => accept (w.extractLsb' 47 11 == 0 && w.extractLsb' 32 14 == 0 && w.extractLsb' 0 2 == 0)
      (.rlww (w.extractLsb' 20 4) (w.extractLsb' 14 6) (w.extractLsb' 8 6) (w.extractLsb' 2 6) (w.extractLsb' 58 6) (w.getLsbD 46))
  | 0x33 => accept (w.extractLsb' 58 6 == 0 && w.extractLsb' 32 26 == 0 && w.extractLsb' 0 2 == 0)
      (.rsadd (w.extractLsb' 20 4) (w.extractLsb' 14 6) (w.extractLsb' 8 6) (w.extractLsb' 2 6))
  | 0x34 => accept (w.extractLsb' 58 6 == 0 && w.extractLsb' 32 26 == 0 && w.extractLsb' 0 2 == 0)
      (.rsrem (w.extractLsb' 20 4) (w.extractLsb' 14 6) (w.extractLsb' 8 6) (w.extractLsb' 2 6))
  | 0x35 => accept (w.extractLsb' 58 6 == 0 && w.extractLsb' 47 11 == 0 && w.extractLsb' 32 14 == 0 && w.extractLsb' 0 2 == 0)
      (.rshas (w.extractLsb' 20 4) (w.extractLsb' 14 6) (w.extractLsb' 8 6) (w.extractLsb' 2 6) (w.getLsbD 46))
  | 0x36 => accept (w.extractLsb' 46 12 == 0 && w.extractLsb' 0 2 == 0)
      (.rmean (w.extractLsb' 20 4) (w.extractLsb' 14 6) (w.extractLsb' 8 6) (w.extractLsb' 2 6) (w.extractLsb' 58 6) (w.extractLsb' 32 13) (w.getLsbD 45))
  | 0x37 => accept (w.extractLsb' 58 6 == 0 && w.extractLsb' 51 7 == 0 && w.extractLsb' 2 6 == 0 && w.extractLsb' 0 2 == 0)
      (.rread (w.extractLsb' 20 4) (w.extractLsb' 14 6) (w.extractLsb' 8 6) (w.extractLsb' 32 13) (w.getLsbD 45) (w.getLsbD 46) (w.extractLsb' 47 3) (w.getLsbD 50))
  | 0x38 => accept (w.extractLsb' 58 6 == 0 && w.extractLsb' 34 24 == 0 && w.extractLsb' 0 2 == 0)
      (.rfront (w.extractLsb' 20 4) (w.extractLsb' 14 6) (w.extractLsb' 8 6) (w.extractLsb' 2 6) (w.extractLsb' 32 2))
  | 0x39 => accept (w.extractLsb' 33 25 == 0 && w.extractLsb' 0 2 == 0)
      (.rstab (w.extractLsb' 20 4) (w.extractLsb' 14 6) (w.extractLsb' 8 6) (w.extractLsb' 2 6) (w.extractLsb' 58 6) (w.getLsbD 32))
  | 0x3a => accept (w.extractLsb' 58 6 == 0 && w.extractLsb' 34 24 == 0 && w.extractLsb' 8 6 == 0 && w.extractLsb' 0 2 == 0)
      (.rhlc (w.extractLsb' 20 4) (w.extractLsb' 14 6) (w.extractLsb' 2 6) (w.extractLsb' 32 2))
  | 0x40 => accept (w.extractLsb' 49 6 == 0 && w.extractLsb' 10 5 == 0 && w.extractLsb' 5 5 == 0 && w.extractLsb' 0 5 == 0)
      (.tld (w.extractLsb' 20 4) (w.extractLsb' 15 5) (w.extractLsb' 58 6) (w.extractLsb' 56 2) (w.getLsbD 55) (w.extractLsb' 44 5) (w.extractLsb' 32 12))
  | 0x41 => accept (w.extractLsb' 49 6 == 0 && w.extractLsb' 15 5 == 0 && w.extractLsb' 5 5 == 0 && w.extractLsb' 0 5 == 0)
      (.tst (w.extractLsb' 20 4) (w.extractLsb' 10 5) (w.extractLsb' 58 6) (w.extractLsb' 56 2) (w.getLsbD 55) (w.extractLsb' 44 5) (w.extractLsb' 32 12))
  | 0x42 => accept (w.extractLsb' 43 21 == 0 && w.extractLsb' 5 5 == 0 && w.extractLsb' 0 5 == 0)
      (.tmov (w.extractLsb' 20 4) (w.extractLsb' 15 5) (w.extractLsb' 10 5) (w.getLsbD 42) (w.extractLsb' 37 5) (w.extractLsb' 32 5))
  | 0x43 => accept (w.extractLsb' 52 6 == 0 && w.extractLsb' 43 7 == 0 && w.extractLsb' 32 5 == 0 && w.extractLsb' 10 5 == 0 && w.extractLsb' 5 5 == 0 && w.extractLsb' 0 5 == 0)
      (.tfill (w.extractLsb' 20 4) (w.extractLsb' 15 5) (w.extractLsb' 58 6) (w.extractLsb' 50 2) (w.getLsbD 42) (w.extractLsb' 37 5))
  | 0x48 => accept (w.extractLsb' 32 17 == 0 && w.extractLsb' 0 5 == 0)
      (.vadd (w.extractLsb' 20 4) (w.extractLsb' 15 5) (w.extractLsb' 10 5) (w.extractLsb' 5 5) (w.extractLsb' 58 6) (w.extractLsb' 55 3) (w.extractLsb' 51 4) (w.getLsbD 50) (w.getLsbD 49))
  | 0x49 => accept (w.extractLsb' 32 17 == 0 && w.extractLsb' 0 5 == 0)
      (.vsub (w.extractLsb' 20 4) (w.extractLsb' 15 5) (w.extractLsb' 10 5) (w.extractLsb' 5 5) (w.extractLsb' 58 6) (w.extractLsb' 55 3) (w.extractLsb' 51 4) (w.getLsbD 50) (w.getLsbD 49))
  | 0x4a => accept (w.extractLsb' 32 17 == 0 && w.extractLsb' 0 5 == 0)
      (.vmul (w.extractLsb' 20 4) (w.extractLsb' 15 5) (w.extractLsb' 10 5) (w.extractLsb' 5 5) (w.extractLsb' 58 6) (w.extractLsb' 55 3) (w.extractLsb' 51 4) (w.getLsbD 50) (w.getLsbD 49))
  | 0x4b => accept (w.extractLsb' 32 17 == 0)
      (.vfma (w.extractLsb' 20 4) (w.extractLsb' 15 5) (w.extractLsb' 10 5) (w.extractLsb' 5 5) (w.extractLsb' 0 5) (w.extractLsb' 58 6) (w.extractLsb' 55 3) (w.extractLsb' 51 4) (w.getLsbD 50) (w.getLsbD 49))
  | 0x4c => accept (w.extractLsb' 50 1 == 0 && w.extractLsb' 32 17 == 0 && w.extractLsb' 0 5 == 0)
      (.vdiv (w.extractLsb' 20 4) (w.extractLsb' 15 5) (w.extractLsb' 10 5) (w.extractLsb' 5 5) (w.extractLsb' 58 6) (w.extractLsb' 55 3) (w.extractLsb' 51 4) (w.getLsbD 49))
  | 0x4d => accept (w.extractLsb' 58 6 == 0 && w.extractLsb' 32 19 == 0 && w.extractLsb' 5 5 == 0 && w.extractLsb' 0 5 == 0)
      (.vsqrt (w.extractLsb' 20 4) (w.extractLsb' 15 5) (w.extractLsb' 10 5) (w.extractLsb' 55 3) (w.extractLsb' 51 4))
  | 0x4e => accept (w.extractLsb' 55 3 == 0 && w.extractLsb' 32 17 == 0 && w.extractLsb' 0 5 == 0)
      (.vmin (w.extractLsb' 20 4) (w.extractLsb' 15 5) (w.extractLsb' 10 5) (w.extractLsb' 5 5) (w.extractLsb' 58 6) (w.extractLsb' 51 4) (w.getLsbD 50) (w.getLsbD 49))
  | 0x4f => accept (w.extractLsb' 55 3 == 0 && w.extractLsb' 32 17 == 0 && w.extractLsb' 0 5 == 0)
      (.vmax (w.extractLsb' 20 4) (w.extractLsb' 15 5) (w.extractLsb' 10 5) (w.extractLsb' 5 5) (w.extractLsb' 58 6) (w.extractLsb' 51 4) (w.getLsbD 50) (w.getLsbD 49))
  | 0x50 => accept (w.extractLsb' 58 6 == 0 && w.extractLsb' 32 19 == 0 && w.extractLsb' 5 5 == 0 && w.extractLsb' 0 5 == 0)
      (.vexp2 (w.extractLsb' 20 4) (w.extractLsb' 15 5) (w.extractLsb' 10 5) (w.extractLsb' 55 3) (w.extractLsb' 51 4))
  | 0x51 => accept (w.extractLsb' 55 9 == 0 && w.extractLsb' 32 18 == 0 && w.extractLsb' 5 5 == 0 && w.extractLsb' 0 5 == 0)
      (.vabs (w.extractLsb' 20 4) (w.extractLsb' 15 5) (w.extractLsb' 10 5) (w.extractLsb' 51 4) (w.getLsbD 50))
  | 0x52 => accept (w.extractLsb' 55 9 == 0 && w.extractLsb' 32 18 == 0 && w.extractLsb' 5 5 == 0 && w.extractLsb' 0 5 == 0)
      (.vneg (w.extractLsb' 20 4) (w.extractLsb' 15 5) (w.extractLsb' 10 5) (w.extractLsb' 51 4) (w.getLsbD 50))
  | 0x53 => accept (w.extractLsb' 55 3 == 0 && w.extractLsb' 50 1 == 0 && w.extractLsb' 32 17 == 0 && w.extractLsb' 0 5 == 0)
      (.vand (w.extractLsb' 20 4) (w.extractLsb' 15 5) (w.extractLsb' 10 5) (w.extractLsb' 5 5) (w.extractLsb' 58 6) (w.extractLsb' 51 4) (w.getLsbD 49))
  | 0x54 => accept (w.extractLsb' 55 3 == 0 && w.extractLsb' 50 1 == 0 && w.extractLsb' 32 17 == 0 && w.extractLsb' 0 5 == 0)
      (.vor (w.extractLsb' 20 4) (w.extractLsb' 15 5) (w.extractLsb' 10 5) (w.extractLsb' 5 5) (w.extractLsb' 58 6) (w.extractLsb' 51 4) (w.getLsbD 49))
  | 0x55 => accept (w.extractLsb' 55 3 == 0 && w.extractLsb' 50 1 == 0 && w.extractLsb' 32 17 == 0 && w.extractLsb' 0 5 == 0)
      (.vxor (w.extractLsb' 20 4) (w.extractLsb' 15 5) (w.extractLsb' 10 5) (w.extractLsb' 5 5) (w.extractLsb' 58 6) (w.extractLsb' 51 4) (w.getLsbD 49))
  | 0x56 => accept (w.extractLsb' 55 3 == 0 && w.extractLsb' 50 1 == 0 && w.extractLsb' 32 17 == 0 && w.extractLsb' 0 5 == 0)
      (.vshl (w.extractLsb' 20 4) (w.extractLsb' 15 5) (w.extractLsb' 10 5) (w.extractLsb' 5 5) (w.extractLsb' 58 6) (w.extractLsb' 51 4) (w.getLsbD 49))
  | 0x57 => accept (w.extractLsb' 55 3 == 0 && w.extractLsb' 32 17 == 0 && w.extractLsb' 0 5 == 0)
      (.vshr (w.extractLsb' 20 4) (w.extractLsb' 15 5) (w.extractLsb' 10 5) (w.extractLsb' 5 5) (w.extractLsb' 58 6) (w.extractLsb' 51 4) (w.getLsbD 50) (w.getLsbD 49))
  | 0x58 => accept (w.extractLsb' 58 6 == 0 && w.extractLsb' 40 11 == 0 && w.extractLsb' 5 5 == 0 && w.extractLsb' 0 5 == 0)
      (.vcvt (w.extractLsb' 20 4) (w.extractLsb' 15 5) (w.extractLsb' 10 5) (w.extractLsb' 55 3) (w.extractLsb' 51 4) (w.extractLsb' 36 4) (w.extractLsb' 32 4))
  | 0x59 => accept (w.extractLsb' 58 6 == 0 && w.extractLsb' 32 19 == 0 && w.extractLsb' 5 5 == 0 && w.extractLsb' 0 5 == 0)
      (.vrsum (w.extractLsb' 20 4) (w.extractLsb' 15 5) (w.extractLsb' 10 5) (w.extractLsb' 55 3) (w.extractLsb' 51 4))
  | 0x5a => accept (w.extractLsb' 55 9 == 0 && w.extractLsb' 32 19 == 0 && w.extractLsb' 5 5 == 0 && w.extractLsb' 0 5 == 0)
      (.vrmax (w.extractLsb' 20 4) (w.extractLsb' 15 5) (w.extractLsb' 10 5) (w.extractLsb' 51 4))
  | 0x5b => accept (w.extractLsb' 55 9 == 0 && w.extractLsb' 33 18 == 0 && w.extractLsb' 0 5 == 0)
      (.vtrans (w.extractLsb' 20 4) (w.extractLsb' 15 5) (w.extractLsb' 10 5) (w.extractLsb' 5 5) (w.extractLsb' 51 4) (w.getLsbD 32))
  | 0x5c => accept (w.extractLsb' 58 6 == 0 && w.extractLsb' 35 16 == 0 && w.extractLsb' 5 5 == 0)
      (.mxpack (w.extractLsb' 20 4) (w.extractLsb' 15 5) (w.extractLsb' 10 5) (w.extractLsb' 0 5) (w.extractLsb' 55 3) (w.extractLsb' 51 4) (w.extractLsb' 32 3))
  | 0x5d => accept (w.extractLsb' 58 6 == 0 && w.extractLsb' 35 16 == 0 && w.extractLsb' 5 5 == 0)
      (.mxunpk (w.extractLsb' 20 4) (w.extractLsb' 15 5) (w.extractLsb' 10 5) (w.extractLsb' 0 5) (w.extractLsb' 55 3) (w.extractLsb' 51 4) (w.extractLsb' 32 3))
  | 0x5e => accept (w.extractLsb' 58 6 == 0 && w.extractLsb' 32 19 == 0)
      (.vscal (w.extractLsb' 20 4) (w.extractLsb' 15 5) (w.extractLsb' 10 5) (w.extractLsb' 5 5) (w.extractLsb' 0 5) (w.extractLsb' 55 3) (w.extractLsb' 51 4))
  | 0x60 => accept (w.extractLsb' 38 17 == 0 && w.extractLsb' 20 4 == 0 && w.extractLsb' 15 5 == 0 && w.extractLsb' 10 5 == 0 && w.extractLsb' 5 5 == 0 && w.extractLsb' 0 5 == 0)
      (.mcfg (w.extractLsb' 58 6) (w.extractLsb' 55 3) (w.getLsbD 37) (w.getLsbD 36) (w.extractLsb' 34 2) (w.extractLsb' 32 2))
  | 0x61 => accept (w.extractLsb' 34 18 == 0 && w.extractLsb' 15 5 == 0 && w.extractLsb' 0 5 == 0)
      (.mmul (w.extractLsb' 20 4) (w.extractLsb' 10 5) (w.extractLsb' 5 5) (w.extractLsb' 58 6) (w.extractLsb' 55 3) (w.extractLsb' 53 2) (w.getLsbD 52) (w.extractLsb' 32 2))
  | 0x62 => accept (w.extractLsb' 0 5 == 0)
      (.msend (w.extractLsb' 20 4) (w.extractLsb' 15 5) (w.extractLsb' 10 5) (w.extractLsb' 5 5) (w.extractLsb' 58 6) (w.extractLsb' 55 3) (w.extractLsb' 53 2) (w.getLsbD 52) (w.extractLsb' 50 2) (w.extractLsb' 32 18))
  | 0x63 => accept (w.extractLsb' 58 6 == 0 && w.extractLsb' 50 1 == 0 && w.extractLsb' 10 5 == 0 && w.extractLsb' 5 5 == 0 && w.extractLsb' 0 5 == 0)
      (.acget (w.extractLsb' 20 4) (w.extractLsb' 15 5) (w.extractLsb' 55 3) (w.extractLsb' 51 4) (w.extractLsb' 41 9) (w.extractLsb' 32 9))
  | 0x64 => accept (w.extractLsb' 50 14 == 0 && w.extractLsb' 15 5 == 0 && w.extractLsb' 5 5 == 0 && w.extractLsb' 0 5 == 0)
      (.acput (w.extractLsb' 20 4) (w.extractLsb' 10 5) (w.extractLsb' 41 9) (w.extractLsb' 32 9))
  | 0x65 => accept (w.extractLsb' 58 6 == 0 && w.extractLsb' 15 5 == 0 && w.extractLsb' 10 5 == 0 && w.extractLsb' 5 5 == 0 && w.extractLsb' 0 5 == 0)
      (.aczero (w.extractLsb' 20 4) (w.extractLsb' 41 9) (w.extractLsb' 32 9) (w.extractLsb' 54 4) (w.extractLsb' 50 4))
  | 0x66 => accept (w.extractLsb' 41 23 == 0 && w.extractLsb' 32 4 == 0 && w.extractLsb' 0 5 == 0)
      (.amerge (w.extractLsb' 20 4) (w.extractLsb' 15 5) (w.extractLsb' 10 5) (w.extractLsb' 5 5) (w.extractLsb' 36 5))
  | 0x67 => accept (w.extractLsb' 41 23 == 0 && w.extractLsb' 32 4 == 0 && w.extractLsb' 5 5 == 0 && w.extractLsb' 0 5 == 0)
      (.anorm (w.extractLsb' 20 4) (w.extractLsb' 15 5) (w.extractLsb' 10 5) (w.extractLsb' 36 5))
  | 0x70 => accept (w.extractLsb' 34 30 == 0 && w.extractLsb' 20 4 == 0 && w.extractLsb' 12 4 == 0 && w.extractLsb' 8 4 == 0 && w.extractLsb' 4 4 == 0 && w.extractLsb' 0 4 == 0)
      (.slen (w.extractLsb' 16 4) (w.extractLsb' 32 2))
  | 0x71 => accept (w.extractLsb' 49 9 == 0 && w.extractLsb' 12 4 == 0 && w.extractLsb' 8 4 == 0 && w.extractLsb' 4 4 == 0 && w.extractLsb' 0 4 == 0)
      (.sgen (w.extractLsb' 20 4) (w.extractLsb' 16 4) (w.extractLsb' 58 6) (w.extractLsb' 32 5) (w.extractLsb' 37 5) (w.getLsbD 42) (w.extractLsb' 43 6))
  | 0x72 => accept (w.extractLsb' 32 32 == 0 && w.extractLsb' 4 4 == 0 && w.extractLsb' 0 4 == 0)
      (.sand (w.extractLsb' 20 4) (w.extractLsb' 16 4) (w.extractLsb' 12 4) (w.extractLsb' 8 4))
  | 0x73 => accept (w.extractLsb' 32 32 == 0 && w.extractLsb' 4 4 == 0 && w.extractLsb' 0 4 == 0)
      (.sxnor (w.extractLsb' 20 4) (w.extractLsb' 16 4) (w.extractLsb' 12 4) (w.extractLsb' 8 4))
  | 0x74 => accept (w.extractLsb' 32 32 == 0 && w.extractLsb' 0 4 == 0)
      (.smux (w.extractLsb' 20 4) (w.extractLsb' 16 4) (w.extractLsb' 12 4) (w.extractLsb' 8 4) (w.extractLsb' 4 4))
  | 0x75 => accept (w.extractLsb' 44 20 == 0 && w.extractLsb' 16 4 == 0 && w.extractLsb' 8 4 == 0 && w.extractLsb' 4 4 == 0 && w.extractLsb' 0 4 == 0)
      (.scnt (w.extractLsb' 20 4) (w.extractLsb' 12 4) (w.extractLsb' 32 5) (w.extractLsb' 37 5) (w.extractLsb' 42 2))
  | 0x76 => accept (w.extractLsb' 49 9 == 0 && w.extractLsb' 32 11 == 0 && w.extractLsb' 8 4 == 0 && w.extractLsb' 4 4 == 0 && w.extractLsb' 0 4 == 0)
      (.sregen (w.extractLsb' 20 4) (w.extractLsb' 16 4) (w.extractLsb' 12 4) (w.extractLsb' 58 6) (w.extractLsb' 43 6))
  | _ => .error .unassigned

/-- A bundle as one 64-bit value, word 1 above word 0 (R272). -/
def decodeBundle (w : BitVec 64) : Except DecodeErr Bundle :=
  if w.getLsbD 31 then (decodeLone w).map .lone
  else
    match decodeC (w.extractLsb' 0 32), decodeA (w.extractLsb' 32 32) with
    | .error e, _ => .error e
    | _, .error e => .error e
    | .ok c, .ok a => if pairOk c a then .ok (.pair c a) else .error .pairing

/-- Eight bytes, the lowest address first, as one little-endian value (R5). -/
def bytesToWord : List Byte → Nat
  | [] => 0
  | b :: r => b.toNat + 256 * bytesToWord r

/-- The bundle that a list of bytes begins with, and the rest of the list. -/
def decode (bs : List Byte) : Except DecodeErr (Bundle × List Byte) :=
  if bs.length < 8 then .error .unassigned
  else (decodeBundle (BitVec.ofNat 64 (bytesToWord (bs.take 8)))).map fun b => (b, bs.drop 8)

/-- One bit of a field. -/
def ofBool (b : Bool) : BitVec 1 := if b then 1#1 else 0#1

/-- The words of an encoded instruction (R274 to R276); an event has none. -/
def encode : Instr → Option Code
  | .br o => some (.c (0#1 ++ 1#7 ++ 0#4 ++ o))
  | .call o => some (.c (0#1 ++ 2#7 ++ 0#4 ++ o))
  | .bz x o => some (.c (0#1 ++ 3#7 ++ 0#4 ++ x ++ o))
  | .bnz x o => some (.c (0#1 ++ 4#7 ++ 0#4 ++ x ++ o))
  | .jr y => some (.c (0#1 ++ 5#7 ++ 0#4 ++ 0#6 ++ y ++ 0#6 ++ 0#2))
  | .jlr x y => some (.c (0#1 ++ 6#7 ++ 0#4 ++ x ++ y ++ 0#6 ++ 0#2))
  | .rep x n => some (.c (0#1 ++ 7#7 ++ 0#4 ++ x ++ n ++ 0#2))
  | .yield => some (.c (0#1 ++ 8#7 ++ 0#4 ++ 0#20))
  | .done => some (.c (0#1 ++ 9#7 ++ 0#4 ++ 0#20))
  | .setpri x y => some (.c (0#1 ++ 10#7 ++ 0#4 ++ x ++ y ++ 0#6 ++ 0#2))
  | .tbar => some (.c (0#1 ++ 11#7 ++ 0#4 ++ 0#20))
  | .launch x y z => some (.c (0#1 ++ 12#7 ++ 0#4 ++ x ++ y ++ z ++ 0#2))
  | .fill y z => some (.c (0#1 ++ 13#7 ++ 0#4 ++ 0#6 ++ y ++ z ++ 0#2))
  | .ld la x y sz off => some (.c (0#1 ++ 16#7 ++ la ++ x ++ y ++ sz ++ off))
  | .lds la x y sz off => some (.c (0#1 ++ 17#7 ++ la ++ x ++ y ++ sz ++ off))
  | .st x y sz off => some (.c (0#1 ++ 18#7 ++ 0#4 ++ x ++ y ++ sz ++ off))
  | .ldx la x y z sz => some (.c (0#1 ++ 19#7 ++ la ++ x ++ y ++ z ++ sz))
  | .ldsx la x y z sz => some (.c (0#1 ++ 20#7 ++ la ++ x ++ y ++ z ++ sz))
  | .stx x y z sz => some (.c (0#1 ++ 21#7 ++ 0#4 ++ x ++ y ++ z ++ sz))
  | .pf y sz off => some (.c (0#1 ++ 22#7 ++ 0#4 ++ 0#6 ++ y ++ sz ++ off))
  | .fence k sc => some (.c (0#1 ++ 23#7 ++ 0#4 ++ 0#16 ++ k ++ sc))
  | .cinv y z => some (.c (0#1 ++ 24#7 ++ 0#4 ++ 0#6 ++ y ++ z ++ 0#2))
  | .mbwait x y z m => some (.c (0#1 ++ 32#7 ++ 0#4 ++ x ++ y ++ z ++ m))
  | .mbread la x y => some (.c (0#1 ++ 33#7 ++ la ++ x ++ y ++ 0#6 ++ 0#2))
  | .bowait x y z sc => some (.c (0#1 ++ 34#7 ++ 0#4 ++ x ++ y ++ z ++ sc))
  | .boread la x y sc => some (.c (0#1 ++ 35#7 ++ la ++ x ++ y ++ 0#6 ++ sc))
  | .wmread la x y => some (.c (0#1 ++ 36#7 ++ la ++ x ++ y ++ 0#6 ++ 0#2))
  | .nopc => some (.c (0#1 ++ 127#7 ++ 0#4 ++ 0#20))
  | .add d a b => some (.a (0#1 ++ 1#7 ++ d ++ a ++ b ++ 0#6))
  | .sub d a b => some (.a (0#1 ++ 2#7 ++ d ++ a ++ b ++ 0#6))
  | .mul d a b => some (.a (0#1 ++ 3#7 ++ d ++ a ++ b ++ 0#6))
  | .mulh d a b => some (.a (0#1 ++ 4#7 ++ d ++ a ++ b ++ 0#6))
  | .mulhu d a b => some (.a (0#1 ++ 5#7 ++ d ++ a ++ b ++ 0#6))
  | .div d a b => some (.a (0#1 ++ 6#7 ++ d ++ a ++ b ++ 0#6))
  | .divu d a b => some (.a (0#1 ++ 7#7 ++ d ++ a ++ b ++ 0#6))
  | .rem d a b => some (.a (0#1 ++ 8#7 ++ d ++ a ++ b ++ 0#6))
  | .remu d a b => some (.a (0#1 ++ 9#7 ++ d ++ a ++ b ++ 0#6))
  | .and d a b => some (.a (0#1 ++ 10#7 ++ d ++ a ++ b ++ 0#6))
  | .or d a b => some (.a (0#1 ++ 11#7 ++ d ++ a ++ b ++ 0#6))
  | .xor d a b => some (.a (0#1 ++ 12#7 ++ d ++ a ++ b ++ 0#6))
  | .andn d a b => some (.a (0#1 ++ 13#7 ++ d ++ a ++ b ++ 0#6))
  | .shl d a b => some (.a (0#1 ++ 14#7 ++ d ++ a ++ b ++ 0#6))
  | .shr d a b => some (.a (0#1 ++ 15#7 ++ d ++ a ++ b ++ 0#6))
  | .sra d a b => some (.a (0#1 ++ 16#7 ++ d ++ a ++ b ++ 0#6))
  | .rol d a b => some (.a (0#1 ++ 17#7 ++ d ++ a ++ b ++ 0#6))
  | .ror d a b => some (.a (0#1 ++ 18#7 ++ d ++ a ++ b ++ 0#6))
  | .min d a b => some (.a (0#1 ++ 19#7 ++ d ++ a ++ b ++ 0#6))
  | .max d a b => some (.a (0#1 ++ 20#7 ++ d ++ a ++ b ++ 0#6))
  | .minu d a b => some (.a (0#1 ++ 21#7 ++ d ++ a ++ b ++ 0#6))
  | .maxu d a b => some (.a (0#1 ++ 22#7 ++ d ++ a ++ b ++ 0#6))
  | .addsc d a b s => some (.a (0#1 ++ 23#7 ++ d ++ a ++ b ++ s))
  | .sel d a b c => some (.a (0#1 ++ 24#7 ++ d ++ a ++ b ++ c))
  | .clz d a => some (.a (0#1 ++ 25#7 ++ d ++ a ++ 0#12))
  | .ctz d a => some (.a (0#1 ++ 26#7 ++ d ++ a ++ 0#12))
  | .popc d a => some (.a (0#1 ++ 27#7 ++ d ++ a ++ 0#12))
  | .bswap d a => some (.a (0#1 ++ 28#7 ++ d ++ a ++ 0#12))
  | .bext d a b w => some (.a (0#1 ++ 29#7 ++ d ++ a ++ b ++ w))
  | .bins d a b w => some (.a (0#1 ++ 30#7 ++ d ++ a ++ b ++ w))
  | .sext d a n => some (.a (0#1 ++ 31#7 ++ d ++ a ++ 0#6 ++ n))
  | .addi d a i => some (.a (0#1 ++ 32#7 ++ d ++ a ++ i))
  | .andi d a i => some (.a (0#1 ++ 33#7 ++ d ++ a ++ i))
  | .ori d a i => some (.a (0#1 ++ 34#7 ++ d ++ a ++ i))
  | .xori d a i => some (.a (0#1 ++ 35#7 ++ d ++ a ++ i))
  | .shli d a i => some (.a (0#1 ++ 36#7 ++ d ++ a ++ i))
  | .shri d a i => some (.a (0#1 ++ 37#7 ++ d ++ a ++ i))
  | .srai d a i => some (.a (0#1 ++ 38#7 ++ d ++ a ++ i))
  | .muli d a i => some (.a (0#1 ++ 39#7 ++ d ++ a ++ i))
  | .cmp d a b k c => some (.a (0#1 ++ 48#7 ++ d ++ a ++ b ++ k ++ c))
  | .cmpi d a i k c => some (.a (0#1 ++ 49#7 ++ d ++ a ++ i ++ k ++ c))
  | .fcmp d a b k c => some (.a (0#1 ++ 50#7 ++ d ++ a ++ b ++ k ++ c))
  | .fcmpd d a b k c => some (.a (0#1 ++ 51#7 ++ d ++ a ++ b ++ k ++ c))
  | .take d a => some (.a (0#1 ++ 56#7 ++ d ++ a ++ 0#12))
  | .mkempty d => some (.a (0#1 ++ 57#7 ++ d ++ 0#18))
  | .mkfull d => some (.a (0#1 ++ 58#7 ++ d ++ 0#18))
  | .isfull d a => some (.a (0#1 ++ 59#7 ++ d ++ a ++ 0#12))
  | .fadd d a b r f => some (.a (0#1 ++ 64#7 ++ d ++ a ++ b ++ r ++ f ++ 0#1))
  | .fsub d a b r f => some (.a (0#1 ++ 65#7 ++ d ++ a ++ b ++ r ++ f ++ 0#1))
  | .fmul d a b r f => some (.a (0#1 ++ 66#7 ++ d ++ a ++ b ++ r ++ f ++ 0#1))
  | .fdiv d a b r f => some (.a (0#1 ++ 67#7 ++ d ++ a ++ b ++ r ++ f ++ 0#1))
  | .fsqrt d a r f => some (.a (0#1 ++ 68#7 ++ d ++ a ++ 0#6 ++ r ++ f ++ 0#1))
  | .fma d a b r f => some (.a (0#1 ++ 69#7 ++ d ++ a ++ b ++ r ++ f ++ 0#1))
  | .fmin d a b f => some (.a (0#1 ++ 70#7 ++ d ++ a ++ b ++ 0#3 ++ f ++ 0#1))
  | .fmax d a b f => some (.a (0#1 ++ 71#7 ++ d ++ a ++ b ++ 0#3 ++ f ++ 0#1))
  | .fabs d a f => some (.a (0#1 ++ 72#7 ++ d ++ a ++ 0#9 ++ f ++ 0#1))
  | .fneg d a f => some (.a (0#1 ++ 73#7 ++ d ++ a ++ 0#9 ++ f ++ 0#1))
  | .fcvt d a g r f => some (.a (0#1 ++ 74#7 ++ d ++ a ++ 0#4 ++ g ++ r ++ f ++ 0#1))
  | .fcvti d a t r f => some (.a (0#1 ++ 75#7 ++ d ++ a ++ t ++ r ++ f ++ 0#1))
  | .icvtf d a t r f => some (.a (0#1 ++ 76#7 ++ d ++ a ++ t ++ r ++ f ++ 0#1))
  | .fclass d a f => some (.a (0#1 ++ 77#7 ++ d ++ a ++ 0#9 ++ f ++ 0#1))
  | .fexp2 d a r f => some (.a (0#1 ++ 78#7 ++ d ++ a ++ 0#6 ++ r ++ f ++ 0#1))
  | .nopa => some (.a (0#1 ++ 127#7 ++ 0#24))
  | .ldi x i => some (.lone (i ++ 1#1 ++ 0#7 ++ 0#4 ++ x ++ 0#14))
  | .ldih x i => some (.lone (i ++ 1#1 ++ 1#7 ++ 0#4 ++ x ++ 0#14))
  | .trap e => some (.lone (0#6 ++ e ++ 1#1 ++ 2#7 ++ 0#4 ++ 0#6 ++ 0#6 ++ 0#6 ++ 0#2))
  | .tret x y => some (.lone (0#6 ++ 0#26 ++ 1#1 ++ 3#7 ++ 0#4 ++ x ++ y ++ 0#6 ++ 0#2))
  | .rdpr la x y e => some (.lone (0#6 ++ e ++ 1#1 ++ 4#7 ++ la ++ x ++ y ++ 0#6 ++ 0#2))
  | .wrpr y z e => some (.lone (0#6 ++ e ++ 1#1 ++ 5#7 ++ 0#4 ++ 0#6 ++ y ++ z ++ 0#2))
  | .cbank x y we => some (.lone (0#6 ++ 0#25 ++ (ofBool we) ++ 1#1 ++ 6#7 ++ 0#4 ++ x ++ y ++ 0#6 ++ 0#2))
  | .rdtb x sel => some (.lone (0#6 ++ 0#24 ++ sel ++ 1#1 ++ 7#7 ++ 0#4 ++ x ++ 0#6 ++ 0#6 ++ 0#2))
  | .ldLone la x y sz acq sc sgn off => some (.lone (0#6 ++ sz ++ (ofBool acq) ++ 0#1 ++ sc ++ (ofBool sgn) ++ off ++ 1#1 ++ 16#7 ++ la ++ x ++ y ++ 0#6 ++ 0#2))
  | .stLone x y sz rel sc off => some (.lone (0#6 ++ sz ++ 0#1 ++ (ofBool rel) ++ sc ++ 0#1 ++ off ++ 1#1 ++ 17#7 ++ 0#4 ++ x ++ y ++ 0#6 ++ 0#2))
  | .ldsy la x y sc off => some (.lone (0#6 ++ 3#2 ++ 1#1 ++ 0#1 ++ sc ++ 0#1 ++ off ++ 1#1 ++ 18#7 ++ la ++ x ++ y ++ 0#6 ++ 0#2))
  | .stsy x y sc off => some (.lone (0#6 ++ 3#2 ++ 0#1 ++ 1#1 ++ sc ++ 0#1 ++ off ++ 1#1 ++ 19#7 ++ 0#4 ++ x ++ y ++ 0#6 ++ 0#2))
  | .aadd la x y z sz acq rel sc off => some (.lone (0#6 ++ sz ++ (ofBool acq) ++ (ofBool rel) ++ sc ++ 0#1 ++ off ++ 1#1 ++ 20#7 ++ la ++ x ++ y ++ z ++ 0#2))
  | .aand la x y z sz acq rel sc off => some (.lone (0#6 ++ sz ++ (ofBool acq) ++ (ofBool rel) ++ sc ++ 0#1 ++ off ++ 1#1 ++ 21#7 ++ la ++ x ++ y ++ z ++ 0#2))
  | .aor la x y z sz acq rel sc off => some (.lone (0#6 ++ sz ++ (ofBool acq) ++ (ofBool rel) ++ sc ++ 0#1 ++ off ++ 1#1 ++ 22#7 ++ la ++ x ++ y ++ z ++ 0#2))
  | .axor la x y z sz acq rel sc off => some (.lone (0#6 ++ sz ++ (ofBool acq) ++ (ofBool rel) ++ sc ++ 0#1 ++ off ++ 1#1 ++ 23#7 ++ la ++ x ++ y ++ z ++ 0#2))
  | .amin la x y z sz acq rel sc off => some (.lone (0#6 ++ sz ++ (ofBool acq) ++ (ofBool rel) ++ sc ++ 0#1 ++ off ++ 1#1 ++ 24#7 ++ la ++ x ++ y ++ z ++ 0#2))
  | .amax la x y z sz acq rel sc off => some (.lone (0#6 ++ sz ++ (ofBool acq) ++ (ofBool rel) ++ sc ++ 0#1 ++ off ++ 1#1 ++ 25#7 ++ la ++ x ++ y ++ z ++ 0#2))
  | .aminu la x y z sz acq rel sc off => some (.lone (0#6 ++ sz ++ (ofBool acq) ++ (ofBool rel) ++ sc ++ 0#1 ++ off ++ 1#1 ++ 26#7 ++ la ++ x ++ y ++ z ++ 0#2))
  | .amaxu la x y z sz acq rel sc off => some (.lone (0#6 ++ sz ++ (ofBool acq) ++ (ofBool rel) ++ sc ++ 0#1 ++ off ++ 1#1 ++ 27#7 ++ la ++ x ++ y ++ z ++ 0#2))
  | .aswp la x y z sz acq rel sc off => some (.lone (0#6 ++ sz ++ (ofBool acq) ++ (ofBool rel) ++ sc ++ 0#1 ++ off ++ 1#1 ++ 28#7 ++ la ++ x ++ y ++ z ++ 0#2))
  | .acas la x y z w sz acq rel sc off => some (.lone (w ++ sz ++ (ofBool acq) ++ (ofBool rel) ++ sc ++ 0#1 ++ off ++ 1#1 ++ 29#7 ++ la ++ x ++ y ++ z ++ 0#2))
  | .bmove x y z sz acq rel sc => some (.lone (0#6 ++ sz ++ (ofBool acq) ++ (ofBool rel) ++ sc ++ 0#20 ++ 1#1 ++ 30#7 ++ 0#4 ++ x ++ y ++ z ++ 0#2))
  | .cpsub la x y z wait => some (.lone (0#6 ++ 0#25 ++ (ofBool wait) ++ 1#1 ++ 32#7 ++ la ++ x ++ y ++ z ++ 0#2))
  | .bmv la x y => some (.lone (0#6 ++ 0#26 ++ 1#1 ++ 33#7 ++ la ++ x ++ y ++ 0#6 ++ 0#2))
  | .coll la x y z => some (.lone (0#6 ++ 0#26 ++ 1#1 ++ 34#7 ++ la ++ x ++ y ++ z ++ 0#2))
  | .cwait x y z poll => some (.lone (0#6 ++ 0#25 ++ (ofBool poll) ++ 1#1 ++ 35#7 ++ 0#4 ++ x ++ y ++ z ++ 0#2))
  | .boinit y z => some (.lone (0#6 ++ 0#26 ++ 1#1 ++ 36#7 ++ 0#4 ++ 0#6 ++ y ++ z ++ 0#2))
  | .mbset x y z => some (.lone (0#6 ++ 0#26 ++ 1#1 ++ 37#7 ++ 0#4 ++ x ++ y ++ z ++ 0#2))
  | .marm y z => some (.lone (0#6 ++ 0#26 ++ 1#1 ++ 38#7 ++ 0#4 ++ 0#6 ++ y ++ z ++ 0#2))
  | .mref y z w en => some (.lone (w ++ 0#25 ++ (ofBool en) ++ 1#1 ++ 39#7 ++ 0#4 ++ 0#6 ++ y ++ z ++ 0#2))
  | .mread la x y what => some (.lone (0#6 ++ 0#24 ++ what ++ 1#1 ++ 40#7 ++ la ++ x ++ y ++ 0#6 ++ 0#2))
  | .radd la x y w n1 s => some (.lone (w ++ 0#12 ++ (ofBool s) ++ n1 ++ 1#1 ++ 48#7 ++ la ++ x ++ y ++ 0#6 ++ 0#2))
  | .rmax la x y w n1 s => some (.lone (w ++ 0#12 ++ (ofBool s) ++ n1 ++ 1#1 ++ 49#7 ++ la ++ x ++ y ++ 0#6 ++ 0#2))
  | .rlww la x y z w expl => some (.lone (w ++ 0#11 ++ (ofBool expl) ++ 0#14 ++ 1#1 ++ 50#7 ++ la ++ x ++ y ++ z ++ 0#2))
  | .rsadd la x y z => some (.lone (0#6 ++ 0#26 ++ 1#1 ++ 51#7 ++ la ++ x ++ y ++ z ++ 0#2))
  | .rsrem la x y z => some (.lone (0#6 ++ 0#26 ++ 1#1 ++ 52#7 ++ la ++ x ++ y ++ z ++ 0#2))
  | .rshas la x y z stable => some (.lone (0#6 ++ 0#11 ++ (ofBool stable) ++ 0#14 ++ 1#1 ++ 53#7 ++ la ++ x ++ y ++ z ++ 0#2))
  | .rmean la x y z w n1 s => some (.lone (w ++ 0#12 ++ (ofBool s) ++ n1 ++ 1#1 ++ 54#7 ++ la ++ x ++ y ++ z ++ 0#2))
  | .rread la x y n1 s stable rm cnt => some (.lone (0#6 ++ 0#7 ++ (ofBool cnt) ++ rm ++ (ofBool stable) ++ (ofBool s) ++ n1 ++ 1#1 ++ 55#7 ++ la ++ x ++ y ++ 0#6 ++ 0#2))
  | .rfront la x y z sel => some (.lone (0#6 ++ 0#24 ++ sel ++ 1#1 ++ 56#7 ++ la ++ x ++ y ++ z ++ 0#2))
  | .rstab la x y z w poll => some (.lone (w ++ 0#25 ++ (ofBool poll) ++ 1#1 ++ 57#7 ++ la ++ x ++ y ++ z ++ 0#2))
  | .rhlc la x z op => some (.lone (0#6 ++ 0#24 ++ op ++ 1#1 ++ 58#7 ++ la ++ x ++ 0#6 ++ z ++ 0#2))
  | .tld la td gx sc acq nrow1 pitch => some (.lone (gx ++ sc ++ (ofBool acq) ++ 0#6 ++ nrow1 ++ pitch ++ 1#1 ++ 64#7 ++ la ++ td ++ 0#5 ++ 0#5 ++ 0#5))
  | .tst la ta gx sc rel nrow1 pitch => some (.lone (gx ++ sc ++ (ofBool rel) ++ 0#6 ++ nrow1 ++ pitch ++ 1#1 ++ 65#7 ++ la ++ 0#5 ++ ta ++ 0#5 ++ 0#5))
  | .tmov la td ta row rd ra => some (.lone (0#21 ++ (ofBool row) ++ rd ++ ra ++ 1#1 ++ 66#7 ++ la ++ td ++ ta ++ 0#5 ++ 0#5))
  | .tfill la td gx sz row rd => some (.lone (gx ++ 0#6 ++ sz ++ 0#7 ++ (ofBool row) ++ rd ++ 0#5 ++ 1#1 ++ 67#7 ++ la ++ td ++ 0#5 ++ 0#5 ++ 0#5))
  | .vadd la td ta tb gx rm te sati bc => some (.lone (gx ++ rm ++ te ++ (ofBool sati) ++ (ofBool bc) ++ 0#17 ++ 1#1 ++ 72#7 ++ la ++ td ++ ta ++ tb ++ 0#5))
  | .vsub la td ta tb gx rm te sati bc => some (.lone (gx ++ rm ++ te ++ (ofBool sati) ++ (ofBool bc) ++ 0#17 ++ 1#1 ++ 73#7 ++ la ++ td ++ ta ++ tb ++ 0#5))
  | .vmul la td ta tb gx rm te sati bc => some (.lone (gx ++ rm ++ te ++ (ofBool sati) ++ (ofBool bc) ++ 0#17 ++ 1#1 ++ 74#7 ++ la ++ td ++ ta ++ tb ++ 0#5))
  | .vfma la td ta tb tc gx rm te sati bc => some (.lone (gx ++ rm ++ te ++ (ofBool sati) ++ (ofBool bc) ++ 0#17 ++ 1#1 ++ 75#7 ++ la ++ td ++ ta ++ tb ++ tc))
  | .vdiv la td ta tb gx rm te bc => some (.lone (gx ++ rm ++ te ++ 0#1 ++ (ofBool bc) ++ 0#17 ++ 1#1 ++ 76#7 ++ la ++ td ++ ta ++ tb ++ 0#5))
  | .vsqrt la td ta rm te => some (.lone (0#6 ++ rm ++ te ++ 0#19 ++ 1#1 ++ 77#7 ++ la ++ td ++ ta ++ 0#5 ++ 0#5))
  | .vmin la td ta tb gx te sati bc => some (.lone (gx ++ 0#3 ++ te ++ (ofBool sati) ++ (ofBool bc) ++ 0#17 ++ 1#1 ++ 78#7 ++ la ++ td ++ ta ++ tb ++ 0#5))
  | .vmax la td ta tb gx te sati bc => some (.lone (gx ++ 0#3 ++ te ++ (ofBool sati) ++ (ofBool bc) ++ 0#17 ++ 1#1 ++ 79#7 ++ la ++ td ++ ta ++ tb ++ 0#5))
  | .vexp2 la td ta rm te => some (.lone (0#6 ++ rm ++ te ++ 0#19 ++ 1#1 ++ 80#7 ++ la ++ td ++ ta ++ 0#5 ++ 0#5))
  | .vabs la td ta te sati => some (.lone (0#9 ++ te ++ (ofBool sati) ++ 0#18 ++ 1#1 ++ 81#7 ++ la ++ td ++ ta ++ 0#5 ++ 0#5))
  | .vneg la td ta te sati => some (.lone (0#9 ++ te ++ (ofBool sati) ++ 0#18 ++ 1#1 ++ 82#7 ++ la ++ td ++ ta ++ 0#5 ++ 0#5))
  | .vand la td ta tb gx te bc => some (.lone (gx ++ 0#3 ++ te ++ 0#1 ++ (ofBool bc) ++ 0#17 ++ 1#1 ++ 83#7 ++ la ++ td ++ ta ++ tb ++ 0#5))
  | .vor la td ta tb gx te bc => some (.lone (gx ++ 0#3 ++ te ++ 0#1 ++ (ofBool bc) ++ 0#17 ++ 1#1 ++ 84#7 ++ la ++ td ++ ta ++ tb ++ 0#5))
  | .vxor la td ta tb gx te bc => some (.lone (gx ++ 0#3 ++ te ++ 0#1 ++ (ofBool bc) ++ 0#17 ++ 1#1 ++ 85#7 ++ la ++ td ++ ta ++ tb ++ 0#5))
  | .vshl la td ta tb gx te bc => some (.lone (gx ++ 0#3 ++ te ++ 0#1 ++ (ofBool bc) ++ 0#17 ++ 1#1 ++ 86#7 ++ la ++ td ++ ta ++ tb ++ 0#5))
  | .vshr la td ta tb gx te arith bc => some (.lone (gx ++ 0#3 ++ te ++ (ofBool arith) ++ (ofBool bc) ++ 0#17 ++ 1#1 ++ 87#7 ++ la ++ td ++ ta ++ tb ++ 0#5))
  | .vcvt la td ta rm te ste part => some (.lone (0#6 ++ rm ++ te ++ 0#11 ++ ste ++ part ++ 1#1 ++ 88#7 ++ la ++ td ++ ta ++ 0#5 ++ 0#5))
  | .vrsum la td ta rm te => some (.lone (0#6 ++ rm ++ te ++ 0#19 ++ 1#1 ++ 89#7 ++ la ++ td ++ ta ++ 0#5 ++ 0#5))
  | .vrmax la td ta te => some (.lone (0#9 ++ te ++ 0#19 ++ 1#1 ++ 90#7 ++ la ++ td ++ ta ++ 0#5 ++ 0#5))
  | .vtrans la td ta tb te h => some (.lone (0#9 ++ te ++ 0#18 ++ (ofBool h) ++ 1#1 ++ 91#7 ++ la ++ td ++ ta ++ tb ++ 0#5))
  | .mxpack la td ta tc rm te part => some (.lone (0#6 ++ rm ++ te ++ 0#16 ++ part ++ 1#1 ++ 92#7 ++ la ++ td ++ ta ++ 0#5 ++ tc))
  | .mxunpk la td ta tc rm te part => some (.lone (0#6 ++ rm ++ te ++ 0#16 ++ part ++ 1#1 ++ 93#7 ++ la ++ td ++ ta ++ 0#5 ++ tc))
  | .vscal la td ta tb tc rm te => some (.lone (0#6 ++ rm ++ te ++ 0#19 ++ 1#1 ++ 94#7 ++ la ++ td ++ ta ++ tb ++ tc))
  | .mcfg gx c as bs fa fb => some (.lone (gx ++ c ++ 0#17 ++ (ofBool as) ++ (ofBool bs) ++ fa ++ fb ++ 1#1 ++ 96#7 ++ 0#4 ++ 0#5 ++ 0#5 ++ 0#5 ++ 0#5))
  | .mmul la ta tb gx c sub zero mode => some (.lone (gx ++ c ++ sub ++ (ofBool zero) ++ 0#18 ++ mode ++ 1#1 ++ 97#7 ++ la ++ 0#5 ++ ta ++ tb ++ 0#5))
  | .msend la td ta tb gx c sub zero kind ext => some (.lone (gx ++ c ++ sub ++ (ofBool zero) ++ kind ++ ext ++ 1#1 ++ 98#7 ++ la ++ td ++ ta ++ tb ++ 0#5))
  | .acget la td rm te row col => some (.lone (0#6 ++ rm ++ te ++ 0#1 ++ row ++ col ++ 1#1 ++ 99#7 ++ la ++ td ++ 0#5 ++ 0#5 ++ 0#5))
  | .acput la ta row col => some (.lone (0#14 ++ row ++ col ++ 1#1 ++ 100#7 ++ la ++ 0#5 ++ ta ++ 0#5 ++ 0#5))
  | .aczero la row col h1 w1 => some (.lone (0#6 ++ h1 ++ w1 ++ row ++ col ++ 1#1 ++ 101#7 ++ la ++ 0#5 ++ 0#5 ++ 0#5 ++ 0#5))
  | .amerge la td ta tb d16 => some (.lone (0#23 ++ d16 ++ 0#4 ++ 1#1 ++ 102#7 ++ la ++ td ++ ta ++ tb ++ 0#5))
  | .anorm la td ta d16 => some (.lone (0#23 ++ d16 ++ 0#4 ++ 1#1 ++ 103#7 ++ la ++ td ++ ta ++ 0#5 ++ 0#5))
  | .slen qd len => some (.lone (0#30 ++ len ++ 1#1 ++ 112#7 ++ 0#4 ++ qd ++ 0#4 ++ 0#4 ++ 0#4 ++ 0#4))
  | .sgen la qd gx ts row bip src => some (.lone (gx ++ 0#9 ++ src ++ (ofBool bip) ++ row ++ ts ++ 1#1 ++ 113#7 ++ la ++ qd ++ 0#4 ++ 0#4 ++ 0#4 ++ 0#4))
  | .sand la qd qa qb => some (.lone (0#32 ++ 1#1 ++ 114#7 ++ la ++ qd ++ qa ++ qb ++ 0#4 ++ 0#4))
  | .sxnor la qd qa qb => some (.lone (0#32 ++ 1#1 ++ 115#7 ++ la ++ qd ++ qa ++ qb ++ 0#4 ++ 0#4))
  | .smux la qd qa qb qc => some (.lone (0#32 ++ 1#1 ++ 116#7 ++ la ++ qd ++ qa ++ qb ++ qc ++ 0#4))
  | .scnt la qa td row out => some (.lone (0#20 ++ out ++ row ++ td ++ 1#1 ++ 117#7 ++ la ++ 0#4 ++ qa ++ 0#4 ++ 0#4 ++ 0#4))
  | .sregen la qd qa gx src => some (.lone (gx ++ 0#9 ++ src ++ 0#11 ++ 1#1 ++ 118#7 ++ la ++ qd ++ qa ++ 0#4 ++ 0#4 ++ 0#4))
  | .powerOn => none
  | .moduleReset => none
  | .cellRelease _ => none
  | .sensorConversion _ _ _ => none
  | .criticalHalt _ => none
  | .criticalResume _ => none
  | .throttleStepDown _ => none
  | .throttleStepUp _ => none
  | .warmLoopEval _ => none
  | .powerLimitEval _ => none
  | .clockStepApply _ => none
  | .ballastSetpoint _ _ => none
  | .ballastWindow _ => none
  | .hbmTempReading _ _ => none
  | .linkFrameReceive _ _ => none
  | .apply _ => none
  | .rehashComplete _ => none
  | .clrcnt _ => none
  | .hxmWrite _ _ _ => none
  | .elheadWrite _ _ => none
  | .dahliaAdmit _ _ => none
  | .migrationRetry _ _ => none
  | .lingerReturn _ _ => none
  | .migrationDepart _ _ => none
  | .banksideStart _ => none
  | .banksideComplete _ => none
  | .burstReceive _ _ _ _ => none
  | .nakRepeat _ => none
  | .aseqTimer _ => none
  | .totalsFlitSend _ => none
  | .portSilenceTimeout _ => none
  | .laneCountClear => none
  | .laneRepairStart _ => none
  | .laneSwitchComplete _ => none
  | .rewiden _ => none
  | .rewidenComplete _ _ => none
  | .portDisable _ => none
  | .portEnable _ => none
  | .disableFlit _ => none
  | .farEndTraining _ => none
  | .portTrained _ => none
  | .packetForward _ _ => none
  | .e2eGapTimeout _ _ => none
  | .retransmitTimeout _ _ => none
  | .ack _ _ _ => none
  | .nak _ _ _ => none
  | .syn _ _ _ _ => none
  | .resync _ _ _ => none
  | .rtcmdWrite => none
  | .rtcmdWriteComplete => none
  | .rtcmdRead => none
  | .fidWrite _ => none
  | .rdreq _ => none
  | .rdresp _ _ _ _ _ => none
  | .write _ => none
  | .wrdone _ _ _ _ => none
  | .amo _ => none
  | .amoreq _ => none
  | .amoresp _ _ _ _ _ => none
  | .syncst _ => none
  | .migrate _ _ _ => none
  | .mighome _ _ _ _ => none
  | .mignak _ _ => none
  | .copydata _ => none
  | .trapframe _ _ => none
  | .tretframe _ => none
  | .framedead _ _ _ => none
  | .digest _ _ _ => none
  | .delta _ _ _ => none
  | .deltac _ _ _ _ _ _ _ => none
  | .donor _ _ _ => none
  | .rejoinSwitch _ _ _ => none
  | .resetRejoin _ _ _ => none
  | .deltaPartsTimeout _ _ _ _ _ => none
  | .gossipRound _ _ _ => none
  | .frontierUpdate _ _ _ => none
  | .groupFold _ _ _ => none
  | .ringPoll _ _ _ => none
  | .ringRotationTick _ => none
  | .callPacket _ _ _ _ _ => none
  | .go _ _ _ => none
  | .mismatch _ _ _ => none
  | .collectiveComplete _ _ _ => none
  | .collectivePeerTimeout _ _ _ => none
  | .taskDispatch _ => none
  | .taskOffer _ _ => none
  | .ballastKill _ _ => none
  | .taskEnd _ => none
  | .eventRecordProcess _ _ => none
  | .cancel _ => none
  | .kill _ => none
  | .cancelgraph _ => none
  | .cheadWrite _ _ _ => none
  | .copyRecordRead _ _ => none
  | .copyPacketSend _ _ => none
  | .copyOwnReread _ _ => none
  | .copyRecordComplete _ _ => none
  | .cctlEnWrite _ _ _ => none
  | .abort _ _ => none
  | .loadReturn _ _ _ => none
  | .trapFrameSend _ _ => none
  | .trapFrameRetry _ _ => none
  | .yieldEnd _ _ => none
  | .meshMessageArrive _ _ => none
  | .fillArrive _ _ _ _ => none
  | .fillRetry _ _ => none
  | .bankWake _ _ => none
  | .bankPowerApply _ _ => none
  | .bankAutoRetention _ _ => none
  | .matrixMessageArrive _ _ => none
  | .matrixCommandStart _ => none
  | .matrixCommandFinish _ _ => none
  | .bankSwitch _ => none
  | .bankSwitchComplete _ => none
  | .lazySwapUnit _ _ => none
  | .dstopWrite _ _ => none
  | .einjArm _ => none
  | .einjDisarm _ => none
  | .skewMeasure _ _ => none
  | .traceSample _ => none
  | .trace _ _ => none
  | .tctlClear => none
  | .tctlFreeze _ => none
  | .map _ => none
  | .unmap _ => none
  | .protect _ => none
  | .move _ => none
  | .pin _ => none
  | .unpin _ => none
  | .flush _ => none
  | .xcmdComplete _ => none
  | .placementInterval _ => none
  | .pageMoveSwitch _ _ => none
  | .backgroundFill _ _ => none
  | .pageMoveFinish _ _ => none
  | .ptrootWrite _ _ => none
  | .syncAccessPerform _ => none
  | .syncRetry _ _ => none
  | .barrierWaitRetry _ _ => none
  | .partitionCreate _ _ => none
  | .partitionEnd _ _ => none
  | .fsrvWrite _ _ => none
  | .mreadPacket _ _ => none
  | .mwrite _ _ _ => none
  | .mresp _ _ _ => none
  | .stage _ => none
  | .activate _ => none
  | .attest _ => none
  | .raisemin _ => none
  | .recover _ => none
  | .mbcmdUnknown _ _ => none
  | .mailboxComplete => none
  | .registerWrite _ _ => none
  | .hostLinkTraining _ => none
  | .ringGetsWork _ _ _ => none

/-- The decoder of each space. -/
def decodeCode : Code → Except DecodeErr Instr
  | .c w => if w.getLsbD 31 then .error .unassigned else decodeC w
  | .a w => decodeA w
  | .lone w => if w.getLsbD 31 then decodeLone w else .error .unassigned

/-- The word of nopc (R283). -/
def nopcWord : BitVec 32 := 0x7F000000#32

/-- The word of nopa (R283). -/
def nopaWord : BitVec 32 := 0x7F000000#32

/-- The bundle in which the host's table word stands: 64 bits are a lone bundle; 32 bits are a C-slot word beside nopa
where they decode so, and otherwise an A-slot word beside nopc (notes/assumptions/5.md). -/
def tableBundle (nbits w : Nat) : BitVec 64 :=
  let v := BitVec.ofNat 32 w
  if nbits = 64 then BitVec.ofNat 64 w
  else
    match decodeCode (.c v) with
    | .ok _ => nopaWord ++ v
    | .error _ => v ++ nopcWord

/-- The instruction read from a table word (the fixed interface of the host). DESIGN CHOICE, log 5. -/
def decodeTableWord (nbits w : Nat) : Option Instr :=
  match decodeBundle (tableBundle nbits w) with
  | .ok (.lone i) => some i
  | .ok (.pair c a) => if nbits = 64 then none else if c = .nopc then some a else some c
  | .error _ => none

end Sys2Proof
end

