-- ==== Sys2Proof/Machine/Tab.lean ====
section
/-! DEFINITION. Sparse tables: a list of (key, value) pairs, what an unlisted key reads as given by a function of the
key. `tput` keeps the keys rising; `tset`, for memory, also keeps no entry equal to what an unlisted key reads as, so
that equal memories are equal data. -/
namespace Sys2Proof.Machine

/-- The entry of key `k`; `d k` where the table lists none. -/
def tget {α : Type} (d : Nat → α) : List (Nat × α) → Nat → α
  | [], k => d k
  | (k', v) :: r, k => if k' = k then v else tget d r k

/-- The table with the entry of key `k` set to `v`. -/
def tput {α : Type} : List (Nat × α) → Nat → α → List (Nat × α)
  | [], k, v => [(k, v)]
  | (k', v') :: r, k, v =>
    if k < k' then (k, v) :: (k', v') :: r
    else if k' = k then (k, v) :: r
    else (k', v') :: tput r k v

/-- The table without the entries of key `k`. -/
def tdel {α : Type} (k : Nat) : List (Nat × α) → List (Nat × α)
  | [] => []
  | (k', v) :: r => if k' = k then tdel k r else (k', v) :: tdel k r

/-- The table with the entry of key `k` set to `v`, in canonical form for the default `d`. -/
def tset {α : Type} [DecidableEq α] (d : Nat → α) (t : List (Nat × α)) (k : Nat) (v : α) : List (Nat × α) :=
  if v = d k then tdel k t else tput t k v

/-- Every key of the table is above `k`. -/
def tabove {α : Type} (k : Nat) : List (Nat × α) → Bool
  | [] => true
  | (k', _) :: r => decide (k < k') && tabove k r

/-- The canonical form: keys strictly rising, no entry equal to the default of its key. -/
def twf {α : Type} [DecidableEq α] (d : Nat → α) : List (Nat × α) → Bool
  | [] => true
  | (k, v) :: r => !decide (v = d k) && tabove k r && twf d r

/-- The table that holds `f k` for the keys `b` to `b + n - 1`. -/
def tofn {α : Type} (b n : Nat) (f : Nat → α) : List (Nat × α) :=
  (List.range n).map fun k => (b + k, f k)

/-- An element put before the first that is greater. -/
def insertBy {α : Type} (le : α → α → Bool) (a : α) : List α → List α
  | [] => [a]
  | b :: r => if le a b then a :: b :: r else b :: insertBy le a r

/-- A list in ascending order. -/
def sortBy {α : Type} (le : α → α → Bool) (l : List α) : List α := l.foldr (insertBy le) []

end Sys2Proof.Machine
end

