-- ==== Sys2Proof/Machine/State.lean ====
section
/-! DEFINITION. The state of one E8 module (TLE8-3072), as plain data: everything the spec gives the machine
(INVENTORY.md, State), and the model's own fields `agenda`, `turn` and `free` (notes/assumptions/2.md and 11.md).
A bank of like things is a sparse table (Machine/Tab.lean), keyed by the thing's number. -/
namespace Sys2Proof.Machine

/-- A key table with values of type `α`. -/
abbrev Tab (α : Type) := List (Nat × α)

/-- Where a thread's access lands (R223, R225): an HBM physical address of this device, a byte of a cell's scratchpad,
host memory, or a peer window of another device. -/
inductive Loc where
  | hbm (hpa : Nat)
  | scr (cell off : Nat)
  | host (a : Nat)
  | peer (dev rwin off : Nat)
  deriving DecidableEq, Repr

/-- The read-modify-write operations of the atomics (R327), numbered as the lone opcode minus 0x14. -/
inductive AOp where
  | add | and | or | xor | min | max | minu | maxu | swp | cas
  deriving DecidableEq, Repr

/-- One register result of an instruction: a scalar, a tile register or a stream register (by physical number). -/
inductive RegWrite where
  | scalar (r : Nat) (v : Word)
  | tile (t : Nat) (bytes : List (Nat × Byte))
  | strm (q : Nat) (lanes : List (Nat × Nat)) (code : Nat) (lineage : Word)
  deriving DecidableEq, Repr

/-- What an outstanding long-latency instruction still has to do when it completes (R181, R253). `ret` holds results
that issue has already produced; the others perform an access. `elem` is the read of an element for bmove, `phase` the read of a barrier
object's word 0 for bowait, on another device: both are made for a bundle that has not issued (R333, R340). `append` is a header to be read and appended to a ring (R312, R360): the
scope of its release, the ring, the words to read, the cycle in which they left, and the words; `priv` is a register write of wrpr
(R316), `back` a frame that a tret returns to a thread of this device (R314). -/
inductive Act where
  | ret (ws : List RegWrite) (flags : BitVec 8)
  | load (loc : Loc) (n : Nat) (sgn : Bool) (dst : Nat) (acq : Bool) (sc : Nat)
  | cons (loc : Loc) (dst : Nat) (sc : Nat)
  | atom (loc : Loc) (n : Nat) (op : AOp) (v w : Word) (dst : Nat) (acq rel : Bool) (sc : Nat)
  | rows (lines : List (Nat × Loc)) (tile : Nat) (acq : Bool) (sc : Nat)
  | mbc (tag dst : Nat)
  | bar (loc : Loc) (dst sc : Nat)
  | wmark (ch dst : Nat)
  | elem (src dst : Loc) (n x y z : Nat)
  | phase (loc : Loc) (sc : Nat)
  | msg (m : MatMsg) (landed : Bool)
  | mget
  | append (sc ring len sentAt : Nat) (h : List Word)
  | priv (off : Nat) (v : Word)
  | back (f : Frame)
  deriving DecidableEq, Repr

/-- An issued long-latency instruction that has not completed (R253, R255, R280): its encoding and slot, its bundle's
pc, its lookahead `la` and the bundles issued `since`, its captured operands and address, its action, the value read
once the access has performed, the lines of a tile load read so far, a fault found after issue with its cause and PCAUSE and
the faulting address, its place in the thread's program order, whether it is an acquire (R241), and the source registers that no bundle
writes until it completes, tile register r as r, stream register q as 32 + q (R347, R370). -/
structure Pend where
  inst : Word
  slot : BitVec 2
  pc : Word
  la : Nat
  since : Nat
  opA : Word
  opB : Word
  opC : Word
  addr : Word
  act : Act
  perf : Option Word
  dst : Option Nat
  tiles : List Nat
  strms : List Nat
  held : List Nat
  late : Option (Nat × Nat)
  faddr : Word
  seq : Nat
  acq : Bool
  keeps : List Nat
  deriving DecidableEq, Repr

/-- A posted store, non-returning atomic, producing store, boinit or line of a tile store that has not been acknowledged
(R239, R244, R371). -/
structure Posted where
  loc : Loc
  n : Nat
  val : Word
  val2 : Word
  wide : Option Line
  op : Option AOp
  sync : Bool
  rel : Bool
  sc : Nat
  pc : Word
  addr : Word
  performed : Bool
  bad : Nat
  seq : Nat
  deriving DecidableEq, Repr

/-- Where a thread stands (R184, R185): at home, departing, on a Dahlia core of stack `k`, waiting in that core's
arrival queue, or away on another device. -/
inductive Site where
  | home
  | departing (k j : Nat)
  | dahlia (k j : Nat)
  | queued (k j : Nat)
  | peer (dev : Nat)
  deriving DecidableEq, Repr

/-- A wait that outlives one issue attempt (R37, R179, R246, R308, R310, R337, R340): `barHeld` names the object and the PHASE that it
waits to see left, `barDue` is such a wait as the next attempt finds it, `answered` holds word 0 as it stood at the flip, `mbox` the counter and the value that it has to reach, `kept` is a wait
at a bundle part of whose effect has been had and stands (R332, R422), not ready on message or on memory, `filled` that the fill of the bundle at a pc has been written or
held (R179), and `shared` a lane that has carried out its share of its gang's bundle at a pc (R334). -/
inductive Wait where
  | none
  | yielding (since : Nat)
  | tbar (round : Nat) (pc : Word)
  | drift (mask : Word) (pc : Word)
  | barHeld (k : Nat) (l : Loc) (gp : Bool)
  | barRefused (k : Nat)
  | barDue (l : Loc)
  | answered (v : Word)
  | mbox (t : Nat) (v : Word)
  | kept (msg : Bool)
  | shared (pc : Word)
  | polling
  | fillRefused (pc : Word)
  | fillSent (pc : Word)
  | filled (pc : Word)
  | migRefused (count : Nat)
  | wake (bank : Nat)
  | switched
  | halted
  | parked (msg : Bool)
  deriving DecidableEq, Repr

/-- A thread slot's thread (R137, R176, R184). Registers: `g` holds g0 to g47, g60 and g62; `st` is g61. `full` holds
the full/empty bits. `latch` holds the operands of the bundle being issued (R281). `replay` holds the entries that a
return from a trap has still to reissue and `ea` the effective address of the one being reissued (R258). `owed` holds the traps of poisoned
acknowledgements that arrived while the thread was stopped, each with its cause, PCAUSE, pc and address (R254). `far` is set for
a context of another device on a Dahlia core here (R185): the descriptor that it came with. `homeAt` is the cycle, plus one, in which it last
came home (R199). `dest` is the fault server (device and partition) that FSRV named when the thread's trap was raised (R122). -/
structure Thread where
  gid : Word
  part : Nat
  die : Nat
  graph : Nat
  task : Nat
  cls : Nat
  dcls : Nat
  lent : Nat
  bgrp : Nat
  g : Tab Word
  full : BitVec 64
  st : BitVec 8
  f : Tab Word
  pc : Word
  npc : Word
  skip : Nat
  sb : Word
  ss : Word
  arg : Word
  lane : Nat
  lanes : List Nat
  issued : Bool
  latch : Option (Tab Word)
  out : List Pend
  posted : List Posted
  wait : Wait
  site : Site
  refusals : Nat
  tiles : List Nat
  strms : List Nat
  rounds : Nat
  seqNo : Nat
  ended : Bool
  stop : Option Frame
  sent : Bool
  dest : Option (Nat × Nat)
  noBreak : Bool
  replay : List REntry
  ea : Option Word
  owed : List (Nat × Nat × Word × Word)
  far : Option Desc
  farWin : Option Nat
  homeAt : Nat
  deriving DecidableEq, Repr

/-- A tile register (R180, R181): its bytes, full/empty bit and pending mark. -/
structure Tile where
  bytes : Tab Byte
  full : Bool
  pending : Bool
  deriving DecidableEq, Repr

/-- A stream register (R180, R393): bits of each lane, length code, lineage, full/empty bit and pending mark. -/
structure Strm where
  lanes : Tab Nat
  code : Nat
  lineage : Word
  full : Bool
  pending : Bool
  deriving DecidableEq, Repr

/-- A resident matrix configuration (R190). -/
structure MCfg where
  v : Bool
  mode : Nat
  afmt : Nat
  bfmt : Nat
  int : Bool
  key : BitVec 32
  row0 : Nat
  col0 : Nat
  ascale : Word
  bscale : Word
  deriving DecidableEq, Repr

/-- What a matrix command does (R385, R389): a product, or an accumulator copy. -/
inductive MOp where
  | mul (sub : Nat) (zero : Bool) (offs : Word)
  | get (te : BitVec 4) (rm lane row col : Nat)
  | put (row col : Nat)
  | zero (row col h w : Nat)
  deriving DecidableEq, Repr

/-- A command accepted by a matrix unit (R192): the configuration as it stood at acceptance, for one of the unit's own thread in the cycle of its
issue the slot from which it is still to be taken, its operand tiles, the
registers of the unit's cell that it still holds (R370, R387), its issuer (cell, slot key, gid, partition, scratch window and
the instruction), the context bank it belongs to, its flags, and, once it runs, the scales or zero points of both sides and
their group sizes (R386). -/
structure MCmd where
  op : MOp
  cfg : MCfg
  fresh : Option Nat
  a : List (List Byte)
  b : List (List Byte)
  hold : List Nat
  cell : Nat
  slot : Nat
  gid : Word
  part : Nat
  sb : Word
  ss : Word
  pend : Pend
  bank : Nat
  running : Bool
  flags : Nat
  sca : List Nat
  scb : List Nat
  ga : Nat
  gb : Nat
  deriving DecidableEq, Repr

/-- An Aster channel (R197). `pages` lists, for a die channel, the (window page, HPA) pairs to which its window was
mapped at arming. -/
structure Chan where
  mode : Nat
  mon : Nat
  base : Nat
  limit : Nat
  stride : Nat
  off : Nat
  ffmt : Nat
  bexp : Int
  acc : Int
  nan : Bool
  pinf : Bool
  ninf : Bool
  clip : Bool
  pages : List (Nat × Nat)
  owner : Word
  part : Nat
  deriving DecidableEq, Repr

/-- A register fill held in a cell's fill buffer (R179). -/
structure Fill where
  slot : Nat
  reg : Nat
  v : Word
  deriving DecidableEq, Repr

/-- A fill or mesh message on its way (R178, R179); `landed` once it arrives in the present cycle, at whose end it takes effect (R199,
R319). -/
structure Flight where
  cell : Nat
  slot : Nat
  reg : Nat
  v : Word
  fromCell : Nat
  fromSlot : Nat
  landed : Bool
  deriving DecidableEq, Repr

/-- A cell (R169). Thread slots are keyed by 16 times the context bank plus the slot, tiles by 32 times the bank plus
the physical register, streams by 16 times the bank plus the register, configurations by 8 times the bank plus the
slot; the accumulator by 2^18 times the bank plus 512 times the row plus the column; scratch bytes by 2^22 times the
bank plus the offset. `issuedAt` is the cycle, plus one, of its last turn (R170). `swap` lists the units of the active
bank that are still to be loaded, the next one first (R264): tile register r as r, stream register q as 32 + q, scratch block j as 64 + j,
and accumulator rows 2p and 2p + 1 as 2048 + p. A context of another device on a Dahlia core of
this one has a cell of its own past the 512: 512 plus eight times its device plus its die, with its home cid and slot as key (R184,
log 16). -/
structure Cell where
  slots : Tab (Option Thread)
  tiles : Tab Tile
  strms : Tab Strm
  cbank : Word
  power : Tab Nat
  idle : Tab Nat
  mcfgs : Tab MCfg
  mq : List MCmd
  acc : Tab (BitVec 32)
  scratch : List Host.Cell
  badWords : List Nat
  swap : List Nat
  mesh : Tab (List Word)
  fills : List Fill
  mbc : Tab Word
  chans : Tab Chan
  stopped : Bool
  issuedAt : Nat
  deriving DecidableEq, Repr

/-- Where the first access to an unfilled line takes its contents from (R20, R234, R235). -/
inductive FillSrc where
  | zero
  | copy (line : Nat)
  deriving DecidableEq, Repr

/-- The 56-bit tag of a line (R31, R33, R34): the poison code, or the tag computed from the line's ciphertext, address and
full/empty bits under the keys of a number (none: no partition's). DEDUCED, log 10. -/
inductive Tag where
  | code
  | made (key : Option Nat)
  deriving DecidableEq, Repr

/-- The metadata of an HBM line (R31, R34): full/empty bits, the tag, and the source of its fill while it is unfilled. -/
structure LineMeta where
  fe : BitVec 8
  tag : Tag
  unfilled : Option FillSrc
  deriving DecidableEq, Repr

/-- A bank-side command accepted by a base die (R38, R342). -/
structure BsCmd where
  block : List Word
  a : List Word
  part : Nat
  gid : Word
  running : Bool
  deriving DecidableEq, Repr

/-- A synchronising access waiting at a stack controller (R246): a consuming load or a producing store of a thread, by its
place in the thread's program order, or the producing store or consuming read of another device, as its packet (its
`slot` is then the partition). -/
structure SyncWait where
  cell : Nat
  slot : Nat
  seq : Nat
  store : Bool
  hpa : Nat
  pkt : Option Packet
  deriving DecidableEq, Repr

/-- A context held by a Dahlia core or its arrival queue, named by its cell and its slot key there. -/
inductive Guest where
  | own (cell slot : Nat)
  deriving DecidableEq, Repr

/-- A Dahlia core (R36, R37): its 16 thread slots, its arrival queue of up to 64 contexts, and the cycle, plus one, of its last
turn. -/
structure Dahlia where
  slots : List Guest
  queue : List Guest
  issuedAt : Nat
  deriving DecidableEq, Repr

/-- An event that a stack reports (R45): its pseudo-channel, 64 for a LINK event, its kind, its address and its words. -/
structure Report where
  rank : Nat
  kind : Nat
  addr : Nat
  words : Nat
  deriving DecidableEq, Repr

/-- A stack's state outside its BAR0 registers (R29, R35, R44, R45, R246, R340, R342): the active masks and those of the rehash that runs,
the failures in a row of a link frame by direction, the session key's number and the frame counter of the session's nonces, the bank-side
commands, the waiting accesses and barrier waits, the Dahlia cores, and the events reported in the present cycle. -/
structure Stack where
  active : Tab (BitVec 40)
  target : Option (Tab (BitVec 40))
  linkFails : Tab Nat
  session : Nat
  frames : BitVec 64
  bsq : List BsCmd
  syncs : List SyncWait
  bars : List (Nat × Nat)
  cores : Tab Dahlia
  reported : List Report
  deriving DecidableEq, Repr

/-- A Dunwick port's link state (R47 to R55): the replay buffer and the last burst of a replay, the sequence numbers, the
requests made and received for one burst, the lane counts and lanes out of service, the bulk counters, the packets
queued, those received that are still held, the one being sent with its flits left, the gossip flits and all the bulk flits sent
(R92), the time in ns at which a lane repair
became pending, and the bursts sent, in order. -/
structure Port where
  replay : List Burst
  replayEnd : Option (BitVec 12)
  nextSeq : BitVec 12
  want : BitVec 12
  gap : Bool
  reqs : Nat
  lastReq : BitVec 12
  asked : Nat
  err0 : Nat
  err1 : Nat
  out0 : Bool
  out1 : Bool
  switching : Bool
  sent : Tab (BitVec 48)
  freed : Tab (BitVec 48)
  reported : Tab (BitVec 48)
  got : Tab (BitVec 48)
  recredit : Bool
  bulkQ : List Packet
  userQ : List Packet
  inbox : List Packet
  sending : Option (Packet × Nat)
  paused : Option (Packet × Nat)
  gossipSent : Nat
  bulkSent : Nat
  rewidening : Bool
  pendAt : Nat
  wire : List Burst
  deriving DecidableEq, Repr

/-- The sending side of a stream (R58, R59): the next number, the lowest unacknowledged one, the packets kept, those that wait
for room, the numbers of the resend that runs, and the consecutive resends without progress. -/
structure TxStream where
  opened : Bool
  next : BitVec 16
  base : BitVec 16
  unacked : List Packet
  waiting : List Packet
  again : List (BitVec 16)
  resends : Nat
  deriving DecidableEq, Repr

/-- The receiving side of a stream (R57, R59). -/
structure RxStream where
  nonce : Option Word
  exp : BitVec 16
  map : BitVec 64
  deriving DecidableEq, Repr

/-- A task's state in the scheduler (R132, R139, R145). -/
inductive TaskState where
  | waiting
  | ready (die cls : Nat)
  | dispatched (die : Nat) (cells : List Nat) (slot : Nat)
  | done
  | cancelled
  | killed
  deriving DecidableEq, Repr

/-- A task of a live graph: its descriptor (R129), the dependences left, the data port found at its release (R134), its
state, its barrier rounds, and the order of its dispatch. -/
structure Task where
  entry : Word
  gang : Nat
  gdir : Nat
  ntile : Nat
  nstrm : Nat
  cls : Nat
  policy : Nat
  scratch : Nat
  fmts : List (BitVec 32)
  aff : Word
  deps : Nat
  left : Nat
  succs : List Nat
  pin : Nat
  bgrp : Nat
  port : Option Nat
  state : TaskState
  recorded : Bool
  lent : Nat
  arrived : Nat
  stamp : Nat
  deriving DecidableEq, Repr

/-- A live graph (R127 to R143). -/
structure Graph where
  die : Nat
  part : Nat
  num : Nat
  bank : Nat
  event : Bool
  taskev : Bool
  arg : Word
  compl : Word
  seed : Word
  tasks : List Task
  ndone : Nat
  lostAny : Bool
  deriving DecidableEq, Repr

/-- A task in a ready queue: graph key (owning die, partition, number) and task index, and the order of its release
(R132, R147). -/
structure QEntry where
  die : Nat
  part : Nat
  num : Nat
  task : Nat
  stamp : Nat
  deriving DecidableEq, Repr

/-- An event record (R140). -/
structure EvRec where
  kind : BitVec 8
  code : BitVec 8
  data : BitVec 32
  w1 : Word
  deriving DecidableEq, Repr

/-- A ring known to a die (R121, R144): its partition, context bank and number, whether it is mapped, its marks, and, while it is marked
invalid, where its descriptor lies. -/
structure Ring where
  part : Nat
  bank : Nat
  num : Nat
  mapped : Bool
  since : Nat
  invalid : Bool
  d0 : Word
  d1 : Word
  rejects : BitVec 24
  doneCnt : BitVec 23
  descAt : Option Loc
  deriving DecidableEq, Repr

/-- A collective call at a rank (R103 to R106): its ring and slot, its block, whether its release is over, the calls heard of by rank 0, the elements of SEND with their poison marks once they
are read, and whether it is finished. A call heard of before it is polled has an empty block. -/
structure Call where
  part : Nat
  ring : Nat
  bank : Nat
  cons : Nat
  slotVa : Nat
  block : List Word
  started : Bool
  heard : List (Nat × CallData)
  data : Option (List (Nat × Bool))
  sent : Nat
  ending : Option (Nat × Nat × Bool)
  deriving DecidableEq, Repr

/-- An item of a collective's step data: its bits, and whether what it derives from was poisoned or saturated (R101, R104). -/
structure Item where
  v : Nat
  p : Bool
  c : Bool
  deriving DecidableEq, Repr

/-- A packet's worth of a step's data that a die has still to send (R103): the contributor that it is for, the group, CSEQ and OP of its call, the
stage, the number of its first item, the items with their common marks, whether the step reduces, whether it is the step's last, and its record's CTRL. -/
structure StepOut where
  dest : Nat
  group : Nat
  cseq : Nat
  op : Nat
  stage : Nat
  first : Nat
  items : List Item
  last : Bool
  ctrl : Word
  deriving DecidableEq, Repr

/-- A packet's worth of a step's data that has arrived at a die, its tag checked: the contributor that sent it, and its number on its stream. -/
structure StepIn where
  src : Nat
  seq : BitVec 16
  group : Nat
  cseq : Nat
  op : Nat
  stage : Nat
  first : Nat
  items : List Item
  last : Bool
  deriving DecidableEq, Repr

/-- The tiles received of a group that is not complete (R87, R88): the die that sent them (its device and die number plus one; 0 where no packet is
held), the PARTS that they name, the tiles, and the last DELTA's number on its stream with its tile. -/
structure PartSet where
  src : Nat
  parts : Nat
  group : DeltaGroup
  last : BitVec 16 × Nat
  deriving DecidableEq, Repr

/-- A replica of one object on one die (R79, R80): its next sequence number, its open group, the groups applied and not
folded (P), the held groups, SEEN, F and BASE, a donor state taken into the shadow area (R94), the STATE address that it was
started at, its group and the group's members, and its own sealed groups that some member has not reported seen, kept for a rejoin (R94). -/
structure Replica where
  part : Nat
  obj : Nat
  next : Nat
  opened : List DeltaTile
  log : List DeltaGroup
  held : List DeltaGroup
  parts : List PartSet
  seen : Tab Nat
  front : Tab Nat
  rows : Tab (Tab Nat)
  base : BaseVal
  shadow : Option DonorState
  addr : Nat
  group : Nat
  mem : List Nat
  own : List DeltaGroup
  deriving DecidableEq, Repr

/-- A die's view of a replica group (R79, R90, R93): HEARD by member slot, OUT marks, the round count, whether the die lost its state and is collecting digests, the contributor first heard from (R94), and the
members from which it awaits the answer to a digest (R91). -/
structure GView where
  part : Nat
  group : Nat
  heard : Tab Word
  out : List Nat
  rounds : Nat
  lost : Bool
  first : Option Nat
  asked : List Nat
  deriving DecidableEq, Repr

/-- A compute die's state outside its cells and registers. `served` holds for each copy engine the channel that it served last, 0 to 4 (R152). The first 4,096 entries of `events` are its event queue; the
later ones are records that wait for room (R141). `gone` lists the replica groups (partition and group) whose state the die lost at a reset (R94). -/
structure Die where
  throttle : Nat
  warm : Nat
  power : Nat
  warned : Bool
  setpoint : Int
  watts : Nat
  ready : Tab (List QEntry)
  bypass : Tab Nat
  passes : Tab Nat
  served : Tab Nat
  events : List EvRec
  rings : List Ring
  spread : Tab Nat
  calls : List Call
  steps : List StepOut
  arrived : List StepIn
  replicas : List Replica
  views : List GView
  gone : List (Nat × Nat)
  chans : Tab Chan
  released : Bool
  deriving DecidableEq, Repr

/-- The reference, the bound and the owner of a monitor (R364). -/
structure MonRef where
  en : Bool
  ref : Word
  bound : Word
  die : Nat
  graph : Nat
  bgrp : Nat
  deriving DecidableEq, Repr

/-- A monitor of a partition (R364, R365). `was` holds the cycle of its last mref and what stood before the mrefs of that cycle, with which
a round that completes in it compares (R368). -/
structure Mon where
  en : Bool
  ref : Word
  bound : Word
  die : Nat
  graph : Nat
  bgrp : Nat
  count : BitVec 32
  last : Int
  lastExp : Int
  flags : BitVec 4
  drift : Bool
  was : Option (Nat × MonRef)
  deriving DecidableEq, Repr

/-- A page being moved or filled (R234, R235): its page VA and size code, the leaf's address, the old frame (none for
MAP), the new frame, whether its translations stall, and whether XCMD asked for it. -/
structure PageMove where
  va : Nat
  size : Nat
  leaf : Nat
  old : Option Nat
  new : Nat
  stalled : Bool
  isCmd : Bool
  deriving DecidableEq, Repr

/-- A translation command in progress (R231): the operation, its page VA and size code, XARG as it stood, and, once the
entry is flushed, the locations whose accesses are still to perform: whether they are host memory, the first address and the
size. -/
structure XCmd where
  op : Nat
  va : Nat
  size : Nat
  arg : Word
  flushed : Option (Bool × Nat × Nat)
  deriving DecidableEq, Repr

/-- A partition's state outside its registers (R32, R120, R122, R231 to R235, R263): `xcmd` is the translation command
in progress, `counts` the line accesses of the interval by 64 KiB page and die (eight
times the page number plus the die), `moved` the time in ns at which a page's move last completed. -/
structure Part where
  key : Option Nat
  notes : List (Frame × Option (Nat × Nat))
  monitors : Tab Mon
  xcmd : Option XCmd
  moves : List PageMove
  counts : Tab Nat
  moved : Tab Nat
  switching : Bool
  lazyLeft : Bool
  returned : List Frame
  killed : List (Word × Word)
  deriving DecidableEq, Repr

/-- A copy channel's state outside its registers (R152 to R165): the active range, the record in progress with its
64-bit words, whether its status has been written back, the elements sent, the ranges of watermark records that have landed, the packets on their way to another
device (device, number, destination, bytes), the bytes counted, the captured gid, and the code of a failure that waits for room in the event queue
(R141). -/
structure CopyCh where
  lo : Word
  hi : Word
  shGid : Option Word
  gid : Option Word
  recAddr : Word
  words : List Word
  begun : Bool
  back : Bool
  sentEls : Nat
  landed : List (Nat × Nat)
  flying : List (Nat × Nat × Nat × Nat)
  bytes : Nat
  clip : Bool
  poison : Bool
  aborting : Bool
  failing : Option Nat
  deriving DecidableEq, Repr

/-- A verified image of firmware copied to its load address (R20, R22): its kind, the address and its body. -/
structure Firmware where
  kind : Nat
  addr : Nat
  body : List Byte
  deriving DecidableEq, Repr

/-- A mailbox command that runs (R125, R126): the CODE and STEP with which it completes, and the image that STAGE writes. -/
structure Mbox where
  code : Nat
  step : Nat
  image : Option (List Byte)
  deriving DecidableEq, Repr

/-- The service die (R20 to R26, R123, R125, R126): the images in each flash slot and whether it is bootable, the slot tried
first and the one booted from, whether verified firmware runs, recovery mode, the firmware loaded, measurements, the fused
minimum level, the pod record in flash, and the mailbox command running. -/
structure Service where
  slotA : List Byte
  slotB : List Byte
  okA : Bool
  okB : Bool
  firstB : Bool
  booted : Option Bool
  up : Bool
  recovery : Bool
  loaded : List Firmware
  measurements : List (List Byte)
  minLevel : Nat
  podV : Bool
  podDev : BitVec 11
  devId : BitVec 11
  assigned : Bool
  mbox : Option Mbox
  deriving DecidableEq, Repr

/-- An entry of the capability list (R117). -/
structure Cap where
  id : Nat
  inst : Nat
  ver : Nat
  base : Nat
  size : Nat
  deriving DecidableEq, Repr

/-- What the agenda brings next (notes/assumptions/2.md): an event, time passing on the 1 GHz timebase, the turn of one
cell, the turn of a Dahlia core, a posted access performing, an access of an outstanding instruction performing, a write of the host to its
memory, one to a word of the MSI-X table (R115), a step as without an agenda, with or without the default progress, or an error of a word of a
scratchpad, corrected or not (R261). -/
inductive Turn where
  | event (i : Instr)
  | elapse (ns : Nat)
  | cell (n : Nat)
  | core (k j : Nat)
  | perform (cell slot idx : Nat)
  | performOut (cell slot idx : Nat)
  | hostWrite (a : Nat) (v : Byte)
  | msixWrite (k : Nat) (v : Word)
  | rest (prog : Bool)
  | scrError (cell w : Nat) (bad : Bool)
  deriving DecidableEq, Repr

/-- The machine. `turn` is the cell whose issue turn it is and `cur` the slot key of its issuing thread; `order` is the greatest rank of what
has acted in the present cycle (DESIGN CHOICE, log 2). -/
structure State where
  cycle : Nat
  order : Nat
  turn : Nat
  cur : Nat
  agenda : List Turn
  free : Nat
  stamp : Nat
  keyEpoch : Nat
  regs : Tab Word
  caps : List Cap
  msix : BitVec 16
  msixTable : Tab Word
  hbm : List Host.Cell
  lines : Tab LineMeta
  hostMem : List Host.Cell
  hostLink : Bool
  cells : Tab Cell
  hbmStacks : Tab Stack
  ports : Tab Port
  routes : Tab (BitVec 128)
  routePend : Option (Nat × BitVec 128)
  tx : Tab TxStream
  rx : Tab RxStream
  outbox : List Packet
  nonce : Word
  dies : Tab Die
  graphs : List Graph
  parts : Tab Part
  chans : Tab CopyCh
  service : Service
  fetchBuf : Tab Word
  flights : List Flight
  trace : List (Nat × TraceRec)
  deriving DecidableEq, Repr

/-- The capability list of this model (R117, DESIGN CHOICE, log 4): id, instance, version, base and size of each block. -/
def capsOf : List Cap :=
  [{ id := 1, inst := 0, ver := 0, base := 0x1000, size := 0x1000 },
   { id := 2, inst := 0, ver := 0, base := 0x10000, size := 0x10000 },
   { id := 3, inst := 0, ver := 0, base := 0x20000, size := 0x2000 },
   { id := 5, inst := 0, ver := 0, base := 0x23000, size := 0x408 },
   { id := 6, inst := 0, ver := 0, base := 0x24000, size := 0x20 },
   { id := 10, inst := 0, ver := 0, base := 0x25000, size := 0x200 },
   { id := 11, inst := 0, ver := 0, base := 0x26000, size := 0x1000 },
   { id := 12, inst := 0, ver := 0, base := 0x27000, size := 0x40 },
   { id := 7, inst := 0, ver := 0, base := 0x100000, size := 0x80208 }] ++
  ((List.range 8).map fun d => { id := 4, inst := d, ver := 0, base := 0x30000 + 0x1000 * d, size := 0x408 }) ++
  ((List.range 8).map fun d => { id := 8, inst := d, ver := 0, base := 0x38000 + 0x1000 * d, size := 0x38 }) ++
  ((List.range 8).map fun d => { id := 9, inst := d, ver := 0, base := 0x40000 + 0x1000 * d, size := 0x808 })

/-- The service die at reset: empty flash, no fuse blown beyond level 0, nothing booted (DESIGN CHOICE, log 8). -/
def Service.reset : Service :=
  { slotA := [], slotB := [], okA := true, okB := true, firstB := false, booted := none, up := false, recovery := false,
    loaded := [], measurements := [], minLevel := 0, podV := false, podDev := 0#11, devId := 0#11, assigned := false, mbox := none }

/-- The machine right after a module reset, before its start-up (R20): every register at its reset value, no partition,
nothing held by any agent, memory with nothing listed, every line unfilled with zero as its source. -/
def State.reset : State :=
  { cycle := 0, order := 0, turn := 0, cur := 0, agenda := [], free := 1, stamp := 0, keyEpoch := 0, regs := [], caps := capsOf,
    msix := 0#16, msixTable := [], hbm := [], lines := [], hostMem := [], hostLink := false, cells := [], hbmStacks := [],
    ports := [], routes := [], routePend := none, tx := [], rx := [], outbox := [], nonce := Config.freeWord 0, dies := [],
    graphs := [], parts := [], chans := [], service := Service.reset, fetchBuf := [], flights := [], trace := [] }

/-- Why the machine stops. No rule of the spec stops the machine with an instruction: traps are next states. -/
inductive Fault where
  /-- Raised by nothing but the step, for an agenda entry whose instruction is not an event (an encoded instruction
  runs from memory only). Safe: the hardware has no such move. -/
  | notAnEvent
  deriving DecidableEq, Repr

/-- Why the model gives no meaning. -/
inductive Refusal where
  /-- An instruction whose meaning is not written yet. Safe: nothing can be proved of its effect. -/
  | notModelled (mnemonic : String)
  deriving DecidableEq, Repr

end Sys2Proof.Machine
end

