-- ==== Sys2Proof/Machine/Access.lean ====
section
/-! DEFINITION. Names for the parts of the state: bit fields, the registers of the BAR0 space with their reset values,
cells, threads, dies, stacks, partitions, and the scalar registers of a thread. -/
namespace Sys2Proof.Machine

/-- Bits [lo + n - 1 : lo] of a word. -/
def bf (w : Word) (lo n : Nat) : Nat := (w.toNat / 2 ^ lo) % 2 ^ n

/-- A word with bits [lo + n - 1 : lo] replaced. -/
def bset (w : Word) (lo n v : Nat) : Word :=
  BitVec.ofNat 64 (w.toNat - bf w lo n * 2 ^ lo + (v % 2 ^ n) * 2 ^ lo)

/-- A number as a word. -/
abbrev W (n : Nat) : Word := BitVec.ofNat 64 n

/-- The key of a BAR0 register: block id, the block's number within its kind, and offset (R117). -/
def rk (b i o : Nat) : Nat := b * 2 ^ 32 + i * 2 ^ 28 + o

/-- The reset value of a register (R17, R30, R73, R230, R271; zero for the others). -/
def regReset (k : Nat) : Word :=
  let b := k / 2 ^ 32
  let o := k % 2 ^ 28
  if b = 1 then (if o = 0x280 then 0x766C64#64 else 0#64)
  else if b = 2 then
    match o % 0x1000 with
    | 0x10 => 0x0041040000#64
    | 0x18 => 0x0082080000#64
    | 0x20 => 0x0104100000#64
    | 0x28 => 0x0208200000#64
    | 0x30 => 0x0410400000#64
    | 0x38 => 0x0820800000#64
    | _ => 0#64
  else if b = 3 then (if o = 0 then 0x201001#64 else 0#64)
  else if b = 10 then (if o % 0x40 = 0x10 then 0x1000001#64 else 0#64)
  else if b = 11 then (if o = 0x818 then 0xA0#64 else 0#64)
  else 0#64

/-- A BAR0 register. -/
def State.reg (s : State) (b i o : Nat) : Word := tget regReset s.regs (rk b i o)

/-- The state with a BAR0 register set. -/
def State.setReg (s : State) (b i o : Nat) (v : Word) : State := { s with regs := tput s.regs (rk b i o) v }

/-- The state with a field of a BAR0 register set. -/
def State.setFld (s : State) (b i o lo n v : Nat) : State := s.setReg b i o (bset (s.reg b i o) lo n v)

/-- A field of a BAR0 register. -/
def State.fld (s : State) (b i o lo n : Nat) : Nat := bf (s.reg b i o) lo n

/-- A counter register that wraps at its field, raised by `k`. -/
def State.bump (s : State) (b i o lo n k : Nat) : State := s.setFld b i o lo n (s.fld b i o lo n + k)

/-- A cell at reset: no thread, CBANK with AUTO = 1 (R182). -/
def Cell.init : Cell :=
  { slots := [], tiles := [], strms := [], cbank := 0x10000#64, power := [], idle := [], mcfgs := [], mq := [],
    acc := [], scratch := [], badWords := [], swap := [], mesh := [], fills := [], mbc := [], chans := [],
    stopped := false, issuedAt := 0 }

/-- Cell `n`, 64 times the die plus the cell id. -/
def State.cellAt (s : State) (n : Nat) : Cell := tget (fun _ => Cell.init) s.cells n

/-- The state with cell `n` replaced. -/
def State.setCell (s : State) (n : Nat) (c : Cell) : State := { s with cells := tput s.cells n c }

/-- A thread slot that holds no thread reads as this. -/
def Thread.init : Thread :=
  { gid := 0#64, part := 0, die := 0, graph := 0, task := 0, cls := 2, dcls := 2, lent := 0, bgrp := 0, g := [],
    full := BitVec.allOnes 64, st := 0#8, f := [], pc := 0#64, npc := 0#64, skip := 0, sb := 0#64, ss := 0#64,
    arg := 0#64, lane := 0, lanes := [], issued := false, latch := none, out := [], posted := [], wait := .none,
    site := .home, refusals := 0, tiles := [], strms := [], rounds := 0, seqNo := 0, ended := false,
    stop := none, sent := false, dest := none, noBreak := false, replay := [], ea := none, owed := [], far := none, farWin := none, homeAt := 0 }

/-- The thread of slot key `k` (16 times the context bank plus the slot) of cell `n`, if there is one. -/
def State.thr? (s : State) (n k : Nat) : Option Thread := tget (fun _ => none) (s.cellAt n).slots k

/-- The thread of slot key `k` of cell `n`. -/
def State.thrAt (s : State) (n k : Nat) : Thread := (s.thr? n k).getD Thread.init

/-- The state with a thread slot set. -/
def State.setThr? (s : State) (n k : Nat) (t : Option Thread) : State :=
  s.setCell n { s.cellAt n with slots := tput (s.cellAt n).slots k t }

/-- The state with the thread of a slot set. -/
def State.setThrAt (s : State) (n k : Nat) (t : Thread) : State := s.setThr? n k (some t)

/-- The issuing thread. -/
def State.thr (s : State) : Thread := s.thrAt s.turn s.cur

/-- The state with the issuing thread replaced. -/
def State.setThr (s : State) (t : Thread) : State := s.setThrAt s.turn s.cur t

/-- The state seen from slot key `k` of cell `n`. -/
def State.at (s : State) (n k : Nat) : State := { s with turn := n, cur := k }

/-- The state with the issuing cell and slot of another state. -/
def State.back (s from_ : State) : State := { s with turn := from_.turn, cur := from_.cur }

/-- The issuing cell. -/
def State.cell (s : State) : Cell := s.cellAt s.turn

/-- Die of the issuing cell. -/
def State.dieNo (s : State) : Nat := s.turn / 64

/-- A die at reset: warn point armed, nothing released (R13, R20). -/
def Die.init : Die :=
  { throttle := 0, warm := 0, power := 0, warned := false, setpoint := 0, watts := 0,
    ready := [], bypass := [], passes := [], served := [], events := [], rings := [], spread := [], calls := [], steps := [], arrived := [], replicas := [],
    views := [], gone := [], chans := [], released := false }

/-- Compute die `d`. -/
def State.dieAt (s : State) (d : Nat) : Die := tget (fun _ => Die.init) s.dies d

/-- The state with a compute die replaced. -/
def State.setDie (s : State) (d : Nat) (x : Die) : State := { s with dies := tput s.dies d x }

/-- A stack at reset. -/
def Stack.init : Stack :=
  { active := [], target := none, linkFails := [], session := 0, frames := 0#64, bsq := [], syncs := [], bars := [], cores := [], reported := [] }

/-- Stack `k`. -/
def State.stackAt (s : State) (k : Nat) : Stack := tget (fun _ => Stack.init) s.hbmStacks k

/-- The state with a stack replaced. -/
def State.setStack (s : State) (k : Nat) (x : Stack) : State := { s with hbmStacks := tput s.hbmStacks k x }

/-- A partition at reset. -/
def Part.init : Part :=
  { key := none, notes := [], monitors := [], xcmd := none, moves := [], counts := [], moved := [],
    switching := false, lazyLeft := false, returned := [], killed := [] }

/-- Partition `q`. -/
def State.partAt (s : State) (q : Nat) : Part := tget (fun _ => Part.init) s.parts q

/-- The state with a partition replaced. -/
def State.setPart (s : State) (q : Nat) (x : Part) : State := { s with parts := tput s.parts q x }

/-- PARTCTL.EN with its creation completed: partition `q` is running (R119, R120). DEDUCED, log 44. -/
def State.running (s : State) (q : Nat) : Bool := s.fld 5 0 (0x40 * q) 0 1 == 1 && s.fld 5 0 (0x40 * q + 8) 0 1 == 1

/-- Die `d` belongs to partition `q` (PARTCTL.DIES, R119). -/
def State.dieIn (s : State) (q d : Nat) : Bool := s.fld 5 0 (0x40 * q) (8 + d) 1 == 1

/-- The dies of a partition in ascending order. -/
def State.diesOf (s : State) (q : Nat) : List Nat := (List.range 8).filter fun d => s.dieIn q d

/-- The active context bank of a partition (PARTCTL.BANK). -/
def State.bankOf (s : State) (q : Nat) : Nat := s.fld 5 0 (0x40 * q) 1 1

/-- The partition that holds die `d`, if any; a partition exists while EN is 1 (R119, R120). -/
def State.partOfDie (s : State) (d : Nat) : Option Nat := (List.range 8).find? fun q => s.fld 5 0 (0x40 * q) 0 1 == 1 && s.dieIn q d

/-- FID.DEVID (R73). -/
def State.devId (s : State) : Nat := s.fld 3 0 8 0 11

/-- TBCNT of a die (R266). -/
def State.tb (s : State) (d : Nat) : Word := s.reg 11 0 (0xA10 + 0x40 * d)

/-- The next free value, and the state with the counter advanced (DESIGN CHOICE, log 11). -/
def State.fresh (s : State) : Word × State := (Config.freeWord s.free, { s with free := s.free + 1 })

/-- The neighbour of a cell in direction `p` (0 north, 1 east, 2 south, 3 west), where the mesh has one (R134, R178). -/
def meshNeighbour (n p : Nat) : Option Nat :=
  let d := n / 64
  let r := (n % 64) / 8
  let c := n % 8
  match p with
  | 0 => if r = 0 then none else some (64 * d + 8 * (r - 1) + c)
  | 1 => if c = 7 then none else some (64 * d + 8 * r + (c + 1))
  | 2 => if r = 7 then none else some (64 * d + 8 * (r + 1) + c)
  | _ => if c = 0 then none else some (64 * d + 8 * r + (c - 1))

/-- The incoming FIFO of direction `p` of cell `n` (R178). -/
def State.fifo (s : State) (n p : Nat) : List Word := tget (fun _ => []) (s.cellAt n).mesh p

/-- The state with a FIFO set. -/
def State.setFifo (s : State) (n p : Nat) (l : List Word) : State :=
  s.setCell n { s.cellAt n with mesh := tput (s.cellAt n).mesh p l }

/-- Scalar register `r` of a thread of cell `n` (R176), a port as the head of its FIFO. -/
def State.regOf (s : State) (n : Nat) (t : Thread) (r : Nat) : Word :=
  if r < 48 then tget (fun _ => 0#64) t.g r
  else if r < 52 then (s.fifo n (r - 48)).headD 0#64
  else match r with
  | 52 => t.sb
  | 53 => t.ss
  | 54 => t.arg
  | 55 => W t.task
  | 56 => W (t.gid.toNat % 2 ^ 32)
  | 57 => W (t.gid.toNat / 2 ^ 32)
  | 58 => W (n % 64)
  | 59 => W t.lane
  | 60 => tget (fun _ => 0#64) t.g 60
  | 61 => t.st.zeroExtend 64
  | 62 => tget (fun _ => 0#64) t.g 62
  | _ => 0#64

/-- Scalar register `r` as the issuing thread's instruction reads it: from the operands captured for its bundle where
they are (R281), otherwise from the register. -/
def State.rdN (s : State) (r : Nat) : Word :=
  match s.thr.latch with
  | some l => tget (fun k => s.regOf s.turn s.thr k) l r
  | none => s.regOf s.turn s.thr r

/-- A source register named by a field. -/
def State.rd (s : State) (r : GReg) : Word := s.rdN r.toNat

/-- A scalar register as the leader of the gang reads it (R175, R307). -/
def State.rdLead (s : State) (r : GReg) : Word :=
  match s.thr.lanes with
  | [] => s.rd r
  | c :: _ => (s.at c s.cur).rd r

/-- A thread with a scalar register set and full (R176); g52 to g59 and g63 keep what they have. -/
def Thread.put (t : Thread) (r : Nat) (v : Word) : Thread :=
  if r < 48 ∨ r = 60 ∨ r = 62 then { t with g := tput t.g r v, full := t.full ||| (1#64 <<< r) }
  else if r = 61 then { t with st := v.setWidth 8 }
  else t

/-- A result written to register `r` of the issuing thread (R176, R293): a port pushes it towards the neighbour
(R178). -/
def State.wrN (s : State) (r : Nat) (v : Word) : State :=
  if 48 ≤ r ∧ r < 52 then
    match meshNeighbour s.turn (r - 48) with
    | some m => { s with flights := s.flights ++ [{ cell := m, slot := 0, reg := 64 + (r - 48 + 2) % 4, v := v, fromCell := s.turn, fromSlot := s.cur, landed := false }] }
    | none => s
  else s.setThr (s.thr.put r v)

/-- A result written to a destination field. -/
def State.wr (s : State) (r : GReg) (v : Word) : State := s.wrN r.toNat v

/-- Status ORed into st (R177). -/
def State.orSt (s : State) (fl : Nat) : State := s.setThr { s.thr with st := s.thr.st ||| BitVec.ofNat 8 fl }

/-- A scalar register is full (R176, R301): a port while its FIFO holds a message. -/
def State.isFull (s : State) (r : Nat) : Bool :=
  if 48 ≤ r ∧ r < 52 then !(s.fifo s.turn (r - 48)).isEmpty
  else if r < 48 ∨ r = 60 ∨ r = 62 then s.thr.full.getLsbD r
  else true

/-- A register marked full or empty. -/
def State.setFull (s : State) (r : Nat) (b : Bool) : State :=
  let m := 1#64 <<< r
  s.setThr { s.thr with full := if b then s.thr.full ||| m else s.thr.full &&& ~~~m }

/-- A message taken from port `r` (g48 to g51) of the issuing cell (R178). -/
def State.popPort (s : State) (r : Nat) : State :=
  s.setFifo s.turn (r - 48) ((s.fifo s.turn (r - 48)).drop 1)

/-- The ports among the sources popped once each (R178). -/
def State.popPorts (s : State) (rs : List GReg) : State :=
  [48, 49, 50, 51].foldl (fun s r => if rs.any (fun x => x.toNat == r) then s.popPort r else s) s

/-- The bundle has not issued: its thread waits at it (R171). -/
def Wait.holds : Wait → Bool
  | .parked _ => true
  | .barHeld _ _ _ => true
  | .barRefused _ => true
  | .mbox _ _ => true
  | .kept _ => true
  | .polling => true
  | .fillRefused _ => true
  | .fillSent _ => true
  | _ => false

/-- The wait that the attempt of a bundle finds (R334, R340): that its wait is held at a barrier object, an answer to it, or that the lane's share of it
is over. -/
def Wait.atBundle (w : Wait) : Wait :=
  match w with
  | .barHeld _ l _ => .barDue l
  | .answered _ => w
  | .shared _ => w
  | .filled _ => w
  | _ => .none

/-- The wait that a bundle leaves once it is over for its thread. -/
def Wait.behind (w : Wait) : Wait :=
  match w with
  | .barDue _ => .none
  | .answered _ => .none
  | .shared _ => .none
  | .filled _ => .none
  | _ => w

/-- After an instruction: the ports it reads are popped, unless its bundle's operands were captured before (R281) or it
trapped, in which case nothing executes (R252). -/
def State.popAfter (s0 s : State) (rs : List GReg) : State :=
  if s0.thr.latch.isSome || s.thr.stop.isSome || s.thr.wait.holds then s else s.popPorts rs

/-- The encoding of an instruction as the replay entry keeps it: slot code (0 C, 1 A, 2 lone) and word (R255). -/
def codeOf (i : Instr) : BitVec 2 × Word :=
  match encode i with
  | some (.c w) => (0#2, w.zeroExtend 64)
  | some (.a w) => (1#2, w.zeroExtend 64)
  | some (.lone w) => (2#2, w)
  | none => (0#2, 0#64)

/-- The instruction of a replay entry. -/
def instrOf (slot : BitVec 2) (w : Word) : Option Instr :=
  match decodeCode (match slot.toNat with | 0 => .c (w.setWidth 32) | 1 => .a (w.setWidth 32) | _ => .lone w) with
  | .ok i => some i
  | .error _ => none

end Sys2Proof.Machine
end

