-- ==== Sys2Proof/Machine/Float.lean ====
section
/-! DEFINITION. Number formats, rounding and exact arithmetic (spec/10_number_formats.md R200 to R209): a value is
computed exactly as sign, magnitude and power of two, and rounded once. Flags are the bits of st (R177). -/
namespace Sys2Proof.Machine

/-- NV (R206). -/
def flNV : Nat := 1
/-- DZ (R206). -/
def flDZ : Nat := 2
/-- OF (R206). -/
def flOF : Nat := 4
/-- UF (R206). -/
def flUF : Nat := 8
/-- NX (R206). -/
def flNX : Nat := 16
/-- SAT (R206). -/
def flSAT : Nat := 32
/-- CLIP (R177). -/
def flCLIP : Nat := 64
/-- PZ (R177). -/
def flPZ : Nat := 128

/-- A floating format (R200): exponent and mantissa widths, bias, whether it has infinities, and its NaN patterns:
0 none, 1 all exponents ones, 2 the pattern of E4M3. -/
structure Fmt where
  ew : Nat
  mw : Nat
  bias : Nat
  inf : Bool
  nan : Nat
  deriving DecidableEq, Repr

/-- FP64. -/
def fp64 : Fmt := { ew := 11, mw := 52, bias := 1023, inf := true, nan := 1 }
/-- FP32. -/
def fp32 : Fmt := { ew := 8, mw := 23, bias := 127, inf := true, nan := 1 }
/-- FP16. -/
def fp16 : Fmt := { ew := 5, mw := 10, bias := 15, inf := true, nan := 1 }
/-- BF16. -/
def bf16 : Fmt := { ew := 8, mw := 7, bias := 127, inf := true, nan := 1 }
/-- FP8 E4M3. -/
def e4m3 : Fmt := { ew := 4, mw := 3, bias := 7, inf := false, nan := 2 }
/-- FP8 E5M2. -/
def e5m2 : Fmt := { ew := 5, mw := 2, bias := 15, inf := true, nan := 1 }
/-- E2M3. -/
def e2m3 : Fmt := { ew := 2, mw := 3, bias := 1, inf := false, nan := 0 }
/-- E3M2. -/
def e3m2 : Fmt := { ew := 3, mw := 2, bias := 3, inf := false, nan := 0 }
/-- E2M1. -/
def e2m1 : Fmt := { ew := 2, mw := 1, bias := 1, inf := false, nan := 0 }

/-- Bits of a format. -/
def Fmt.width (f : Fmt) : Nat := 1 + f.ew + f.mw

/-- The format of the F field (R277). -/
def fmtOfF (f : BitVec 2) : Fmt :=
  match f.toNat with
  | 0 => fp32 | 1 => fp64 | 2 => fp16 | _ => bf16

/-- A decoded value: NaN or infinity with its sign, or (-1)^neg * m * 2^e. -/
inductive FVal where
  | nan (neg : Bool)
  | inf (neg : Bool)
  | fin (neg : Bool) (m : Nat) (e : Int)
  deriving DecidableEq, Repr

/-- The value of a pattern (R201, R200). -/
def fdecode (f : Fmt) (b : Nat) : FVal :=
  let s := (b / 2 ^ (f.ew + f.mw)) % 2 == 1
  let E := (b / 2 ^ f.mw) % 2 ^ f.ew
  let M := b % 2 ^ f.mw
  if f.nan = 1 ∧ E = 2 ^ f.ew - 1 then (if M = 0 then .inf s else .nan s)
  else if f.nan = 2 ∧ E = 2 ^ f.ew - 1 ∧ M = 2 ^ f.mw - 1 then .nan s
  else if E = 0 then .fin s M (1 - (f.bias : Int) - f.mw)
  else .fin s (2 ^ f.mw + M) ((E : Int) - f.bias - f.mw)

/-- The sign bit of a format, set or not. -/
def Fmt.sign (f : Fmt) (neg : Bool) : Nat := if neg then 2 ^ (f.ew + f.mw) else 0

/-- The canonical NaN and its flags (R202, R203). -/
def Fmt.nanPat (f : Fmt) (neg : Bool) : Nat × Nat :=
  if f.nan = 1 then (f.sign neg + (2 ^ f.ew - 1) * 2 ^ f.mw + 2 ^ (f.mw - 1), 0)
  else if f.nan = 2 then (f.sign neg + 2 ^ (f.ew + f.mw) - 1, 0)
  else (0, flNV)

/-- The pattern of the largest finite magnitude (R200). -/
def Fmt.maxPat (f : Fmt) : Nat :=
  if f.nan = 1 then (2 ^ f.ew - 1) * 2 ^ f.mw - 1
  else if f.nan = 2 then 2 ^ (f.ew + f.mw) - 2
  else 2 ^ (f.ew + f.mw) - 1

/-- The largest finite magnitude as mantissa and exponent. -/
def Fmt.maxFin (f : Fmt) : Nat × Int :=
  let p := f.maxPat
  (2 ^ f.mw + p % 2 ^ f.mw, ((p / 2 ^ f.mw : Nat) : Int) - f.bias - f.mw)

/-- m * 2^e > m' * 2^e'. -/
def dyGt (m : Nat) (e : Int) (m' : Nat) (e' : Int) : Bool :=
  if e ≥ e' then m * 2 ^ (e - e').toNat > m' else m > m' * 2 ^ (e' - e).toNat

/-- Bit length of a number. -/
def bitLen (m : Nat) : Nat := if m = 0 then 0 else Nat.log2 m + 1

/-- Whether a magnitude with quotient `n`, remainder `r` below `2^s` is rounded up in magnitude (R204, R207). -/
def roundUp (rm draw : Nat) (neg : Bool) (n r s : Nat) : Bool :=
  if r = 0 then false
  else match rm with
  | 0 => 2 * r > 2 ^ s || (2 * r == 2 ^ s && n % 2 == 1)
  | 1 => false
  | 2 => !neg
  | 3 => neg
  | _ => if neg then !decide (draw * 2 ^ s < (2 ^ s - r) * 2 ^ 32) else decide (draw * 2 ^ s < r * 2 ^ 32)

/-- The pattern of the magnitude `n * 2^q`, `n` below `2^(mw+1)` and at least `2^mw` unless `q` is the least exponent. -/
def fpack (f : Fmt) (neg : Bool) (n : Nat) (q : Int) : Nat :=
  let (n, q) := if n = 2 ^ (f.mw + 1) then (n / 2, q + 1) else (n, q)
  if n < 2 ^ f.mw then f.sign neg + n
  else f.sign neg + (q + f.mw + f.bias).toNat * 2 ^ f.mw + (n - 2 ^ f.mw)

/-- An infinite result in a format (R203, R205). -/
def Fmt.infPat (f : Fmt) (neg : Bool) : Nat × Nat :=
  if f.inf then (f.sign neg + (2 ^ f.ew - 1) * 2 ^ f.mw, 0) else (f.sign neg + f.maxPat, flSAT + flOF)

/-- An overflowed result (R203, R205). -/
def foverflow (f : Fmt) (rm : Nat) (neg : Bool) : Nat × Nat :=
  if f.inf then
    if rm = 1 ∨ (rm = 2 ∧ neg) ∨ (rm = 3 ∧ !neg) then (f.sign neg + f.maxPat, flOF + flNX)
    else (f.sign neg + (2 ^ f.ew - 1) * 2 ^ f.mw, flOF + flNX)
  else (f.sign neg + f.maxPat, flSAT + flOF + flNX)

/-- The magnitude `m * 2^e` rounded to the format, with its flags (R203 to R207): a stochastic rounding beyond the largest finite number is to the
nearest, as R207 writes it (DEDUCED, log 71). -/
def fround (f : Fmt) (rm draw : Nat) (neg : Bool) (m : Nat) (e : Int) : Nat × Nat :=
  if m = 0 then (f.sign neg, 0)
  else
    let (maxM, maxE) := f.maxFin
    let rm' := if rm = 4 ∧ dyGt m e maxM maxE then 0 else rm
    let E := e + (bitLen m : Int) - 1
    let emin : Int := 1 - f.bias
    let q := (if E < emin then emin else E) - f.mw
    let (n, r, s) := if e ≥ q then (m * 2 ^ (e - q).toNat, 0, 0)
      else let s := (q - e).toNat; (m / 2 ^ s, m % 2 ^ s, s)
    let n' := if roundUp rm' draw neg n r s then n + 1 else n
    if dyGt n' q maxM maxE then foverflow f rm' neg
    else (fpack f neg n' q, if r = 0 then 0 else if E < emin then flUF + flNX else flNX)

/-- A decoded value written in a format (R202 to R207). -/
def fencode (f : Fmt) (rm draw : Nat) : FVal → Nat × Nat
  | .nan neg => f.nanPat neg
  | .inf neg => f.infPat neg
  | .fin neg m e => fround f rm draw neg m e

/-- The canonical NaN of the first NaN among the operands, or the invalid result (R202). -/
def firstNan : List FVal → FVal
  | [] => .nan false
  | .nan s :: _ => .nan s
  | _ :: r => firstNan r

/-- A signed integer multiple of 2^e as a value. -/
def ofInt (i : Int) (e : Int) : FVal := .fin (i < 0) i.natAbs e

/-- The exact sum (R205 for the sign of an exact zero). -/
def fadd2 (rm : Nat) : FVal → FVal → FVal × Nat
  | .nan s, _ => (.nan s, 0)
  | _, .nan s => (.nan s, 0)
  | .inf s, .inf t => if s = t then (.inf s, 0) else (.nan false, flNV)
  | .inf s, _ => (.inf s, 0)
  | _, .inf t => (.inf t, 0)
  | .fin s m e, .fin t n f =>
    if m = 0 ∧ n = 0 then (.fin (if s = t then s else rm == 3) 0 0, 0)
    else
      let g := if e < f then e else f
      let a : Int := (m * 2 ^ (e - g).toNat : Nat)
      let b : Int := (n * 2 ^ (f - g).toNat : Nat)
      let r := (if s then -a else a) + (if t then -b else b)
      if r = 0 then (.fin (rm == 3) 0 0, 0) else (ofInt r g, 0)

/-- The exact product. -/
def fmul2 : FVal → FVal → FVal × Nat
  | .nan s, _ => (.nan s, 0)
  | _, .nan s => (.nan s, 0)
  | .inf s, .inf t => (.inf (s != t), 0)
  | .inf s, .fin t m _ => if m = 0 then (.nan false, flNV) else (.inf (s != t), 0)
  | .fin s m _, .inf t => if m = 0 then (.nan false, flNV) else (.inf (s != t), 0)
  | .fin s m e, .fin t n f => (.fin (s != t) (m * n) (e + f), 0)

/-- A value negated. -/
def FVal.neg : FVal → FVal
  | .nan s => .nan (!s)
  | .inf s => .inf (!s)
  | .fin s m e => .fin (!s) m e

/-- A magnitude quotient to 200 bits below its leading bit, with a sticky bit for the remainder: enough for any rounding
of R204, the draw of R207 included. -/
def divSticky (m n : Nat) : Nat × Int :=
  let k := 200 + bitLen n
  let q := m * 2 ^ k / n
  let r := m * 2 ^ k % n
  (2 * q + (if r = 0 then 0 else 1), -(k : Int) - 1)

/-- The quotient (R298). -/
def fdiv2 : FVal → FVal → FVal × Nat
  | .nan s, _ => (.nan s, 0)
  | _, .nan s => (.nan s, 0)
  | .inf _, .inf _ => (.nan false, flNV)
  | .inf s, .fin t _ _ => (.inf (s != t), 0)
  | .fin s _ _, .inf t => (.fin (s != t) 0 0, 0)
  | .fin s m e, .fin t n f =>
    if n = 0 then (if m = 0 then (.nan false, flNV) else (.inf (s != t), flDZ))
    else let (q, x) := divSticky m n
      (.fin (s != t) q (e - f + x), 0)

/-- One step of the integer square root by bits, from bit `k` down. -/
def isqrtGo (m : Nat) : Nat → Nat → Nat
  | 0, r => r
  | k + 1, r => let c := r + 2 ^ k; isqrtGo m k (if c * c ≤ m then c else r)

/-- The integer square root. -/
def isqrt (m : Nat) : Nat := isqrtGo m (bitLen m / 2 + 1) 0

/-- The square root (R298). -/
def fsqrt1 : FVal → FVal × Nat
  | .nan s => (.nan s, 0)
  | .inf s => if s then (.nan false, flNV) else (.inf false, 0)
  | .fin s m e =>
    if m = 0 then (.fin s 0 0, 0)
    else if s then (.nan false, flNV)
    else
      let k : Nat := 400
      let odd := (e % 2).toNat
      let m' := m * 2 ^ (k + odd)
      let r := isqrt m'
      (.fin false (2 * r + (if r * r = m' then 0 else 1)) ((e - odd - k) / 2 - 1), 0)

/-- The product over the set bits of a fraction: bit `i` below the point contributes 2^(2^-i), at `p` bits. -/
def exp2Go (p frac fb : Nat) : Nat → Nat → Nat → Nat
  | 0, _, acc => acc
  | k + 1, root, acc =>
    let root' := isqrt (root * 2 ^ p)
    let i := fb - (k + 1)
    let acc' := if (frac / 2 ^ (fb - 1 - i)) % 2 = 1 then acc * root' / 2 ^ p else acc
    exp2Go p frac fb k root' acc'

/-- 2 to a value (R298): exact for an integer, otherwise 300 bits below the point and a sticky bit. -/
def fexp2v : FVal → FVal × Nat
  | .nan s => (.nan s, 0)
  | .inf s => if s then (.fin false 0 0, 0) else (.inf false, 0)
  | .fin s m e =>
    if m = 0 then (.fin false 1 0, 0)
    else if e + (bitLen m : Int) > 20 then (if s then (.fin false 1 (-100000), 0) else (.fin false 1 100000, 0))
    else if e + (bitLen m : Int) < -140 then
      (if s then (.fin false (2 ^ 301 - 1) (-301), 0) else (.fin false (2 ^ 301 + 1) (-301), 0))
    else
      let fb := if e < 0 then (-e).toNat else 0
      let v : Int := if s then -((m * 2 ^ (if e < 0 then 0 else e.toNat) : Nat) : Int) else (m * 2 ^ (if e < 0 then 0 else e.toNat) : Nat)
      let ip := v / (2 ^ fb : Nat)
      let fr := (v % (2 ^ fb : Nat)).toNat
      if fr = 0 then (.fin false 1 ip, 0)
      else
        let p := 360
        let a := exp2Go p fr fb fb (2 * 2 ^ p) (2 ^ p)
        (.fin false (2 * ((a - 1024) / 2 ^ 59) + 1) (ip - 302), 0)

/-- The fused a * b + c, its NaN taken in the order a, b, c (R202, R298). -/
def ffma3 (rm : Nat) (a b c : FVal) : FVal × Nat :=
  let (p, f1) := fmul2 a b
  match a, b with
  | .nan s, _ => (.nan s, 0)
  | _, .nan s => (.nan s, 0)
  | _, _ =>
    if f1 = flNV then (match c with | .nan s => (.nan s, flNV) | _ => (.nan false, flNV))
    else fadd2 rm p c

/-- The order of R298 for fmin and fmax: -0 below +0. -/
def fltTotal : FVal → FVal → Bool
  | .inf s, .inf t => s && !t
  | .inf s, _ => s
  | _, .inf t => !t
  | .fin s m e, .fin t n f =>
    if s != t then s
    else if s then dyGt m e n f else dyGt n f m e
  | _, _ => false

/-- Numerically less (R278): -0 equals +0. -/
def fltNum (a b : FVal) : Bool :=
  match a, b with
  | .fin _ 0 _, .fin _ 0 _ => false
  | _, _ => fltTotal a b

/-- A NaN. -/
def FVal.isNan : FVal → Bool
  | .nan _ => true
  | _ => false

/-- Ordered and equal (R278). -/
def feqNum (a b : FVal) : Bool := !a.isNan && !b.isNan && !fltNum a b && !fltNum b a

/-- The condition of fcmp and fcmpd (R278). -/
def fcond (c : Nat) (a b : FVal) : Bool :=
  let un := a.isNan || b.isNan
  match c with
  | 0 => feqNum a b
  | 1 => !feqNum a b
  | 2 => !un && fltNum a b
  | 3 => !un && !fltNum a b
  | 4 => !un && !fltNum b a
  | 5 => !un && fltNum b a
  | 6 => un
  | _ => !un

/-- A magnitude rounded to an integer (R299). -/
def roundInt (rm draw : Nat) (neg : Bool) (m : Nat) (e : Int) : Int × Bool :=
  let (n, r, s) := if e ≥ 0 then (m * 2 ^ e.toNat, 0, 0)
    else let s := (-e).toNat; (m / 2 ^ s, m % 2 ^ s, s)
  let n' := if roundUp rm draw neg n r s then n + 1 else n
  ((if neg then -(n' : Int) else n'), r ≠ 0)

/-- A value converted to an integer between `lo` and `hi` (R299, R379). -/
def fToInt (rm draw : Nat) (lo hi : Int) : FVal → Int × Nat
  | .nan _ => (0, flNV)
  | .inf s => (if s then lo else hi, flSAT)
  | .fin s m e =>
    if e > 4096 ∧ m ≠ 0 then (if s then lo else hi, flSAT)
    else
      let (i, nx) := roundInt rm draw s m e
      if i < lo then (lo, flSAT) else if hi < i then (hi, flSAT) else (i, if nx then flNX else 0)

/-- The class bit of R300. -/
def fclassBit (f : Fmt) : FVal → Nat
  | .nan s => if s then 9 else 8
  | .inf s => if s then 0 else 7
  | .fin s m e =>
    if m = 0 then (if s then 3 else 4)
    else if m < 2 ^ f.mw ∧ e = 1 - (f.bias : Int) - f.mw then (if s then 2 else 5)
    else if s then 1 else 6

/-- mix of R208. -/
def chMix (h : BitVec 32) : BitVec 32 :=
  let h := (h ^^^ (h >>> 16)) * 0x85EBCA6B#32
  let h := (h ^^^ (h >>> 13)) * 0xC2B2AE35#32
  h ^^^ (h >>> 16)

/-- chash of R208. -/
def chash (k c : BitVec 32) : BitVec 32 := chMix (k ^^^ chMix (c + 0x9E3779B9#32))

/-- rng of R209. -/
def rng (seed lin : Word) (lane idx : Nat) : BitVec 32 :=
  let k := chash (seed.extractLsb' 0 32 ^^^ lin.extractLsb' 0 32) (seed.extractLsb' 32 32 ^^^ lin.extractLsb' 32 32)
  chash (chash k (BitVec.ofNat 32 lane)) (BitVec.ofNat 32 idx)

end Sys2Proof.Machine
end

