-- ==== Sys2Proof/Machine/Memory.lean ====
section
/-! DEFINITION. Memory: HBM lines with their metadata (spec/02 R27 to R45), scratchpads, host memory, the Aster channels
that observe writes (spec/09 R197, R198), translation (spec/11 R223 to R231, spec/03 R69, R70), watermark stalls
(spec/08 R165) and data breakpoints (spec/12 R268). -/
namespace Sys2Proof.Machine

/-- Trap causes (R252). -/
def cILLEGAL : Nat := 1
/-- XLATE. -/
def cXLATE : Nat := 2
/-- PERM. -/
def cPERM : Nat := 3
/-- POISON. -/
def cPOISON : Nat := 4
/-- ALIGN. -/
def cALIGN : Nat := 5
/-- BANKOFF. -/
def cBANKOFF : Nat := 6
/-- CORR. -/
def cCORR : Nat := 7
/-- CAPREJ. -/
def cCAPREJ : Nat := 8
/-- DRIFT. -/
def cDRIFT : Nat := 9
/-- FMT. -/
def cFMT : Nat := 10
/-- MIGNAK. -/
def cMIGNAK : Nat := 11
/-- BREAK. -/
def cBREAK : Nat := 12
/-- WATCH. -/
def cWATCH : Nat := 13
/-- SYSCALL. -/
def cSYSCALL : Nat := 14

/-! ## Bytes -/

/-- What an unlisted byte of memory reads as: zero (R20; DESIGN CHOICE, log 7 for host memory, DESIGN CHOICE, log 8 for scratch). -/
def memDefault (_ : Nat) : Byte := 0#8

/-- A byte memory is in canonical form: addresses strictly rising, no entry equal to what an unlisted address reads as. -/
def Memory.wf (m : List Host.Cell) : Bool := twf memDefault m

/-- Every memory of the machine is in canonical form: HBM, host memory, and the scratchpad of every cell. -/
def State.memWf (s : State) : Bool := Memory.wf s.hbm && Memory.wf s.hostMem && s.cells.all fun e => Memory.wf e.2.scratch

/-- `n` bytes from `a`, little-endian (R5). -/
def readLE (get : Nat → Byte) (a : Nat) : Nat → Nat
  | 0 => 0
  | n + 1 => (get a).toNat + 256 * readLE get (a + 1) n

/-- The low `n` bytes of a value written from `a` in a byte table. -/
def writeLE (m : List Host.Cell) (a : Nat) (v : Nat) : Nat → List Host.Cell
  | 0 => m
  | n + 1 => writeLE (tset memDefault m a (BitVec.ofNat 8 v)) (a + 1) (v / 256) n

/-- A number as `n` words. -/
def wordsOf (v n : Nat) : List Word := (List.range n).map fun i => W (v / 2 ^ (64 * i))

/-- The HBM byte at an HPA as stored. -/
def State.hbmByte (s : State) (a : Nat) : Byte := tget memDefault s.hbm a

/-- Scratch byte `off` of cell `n` in context bank `b` (R195, R264). -/
def State.scrByte (s : State) (n b off : Nat) : Byte := tget memDefault (s.cellAt n).scratch (b * 2 ^ 22 + off)

/-- The host memory byte at an address (R225). -/
def State.hostByte (s : State) (a : Nat) : Byte := tget memDefault s.hostMem a

/-! ## Lines -/

/-- A line that nothing has touched since the reset: unfilled, with zero as its source (R20). -/
def LineMeta.init : LineMeta := { fe := 0xFF#8, tag := .made none, unfilled := some .zero }

/-- A line filled with zero without a partition's key: all full/empty bits full, not poisoned (R31). -/
def LineMeta.zeroed : LineMeta := { LineMeta.init with unfilled := none }

/-- The line's tag is the poison code (R34). -/
def LineMeta.poison (m : LineMeta) : Bool := m.tag == .code

/-- The number of the keys under which the line's tag was made. -/
def LineMeta.key (m : LineMeta) : Option Nat := match m.tag with | .code => none | .made k => k

/-- The tag compares under keys of which `ok` holds (R33, R34). -/
def Tag.opens (ok : Option Nat → Bool) : Tag → Bool
  | .code => false
  | .made k => ok k

/-- The metadata of the line of an HPA. -/
def State.lineOf (s : State) (a : Nat) : LineMeta := tget (fun _ => LineMeta.init) s.lines (a / 64)

/-- The state with a line's metadata set. -/
def State.setLine (s : State) (a : Nat) (m : LineMeta) : State := { s with lines := tput s.lines (a / 64) m }

/-- The state with eight words of a line set to those of a list of bytes from a getter. -/
def State.putLine (s : State) (a : Nat) (get : Nat → Byte) : State :=
  let b := a / 64 * 64
  { s with hbm := (List.range 64).foldl (fun m i => tset memDefault m (b + i) (get i)) s.hbm }

/-- Zero-fill of a line: zero data, all full/empty bits full, a fresh tag (R31, R33). -/
def State.zeroLine (s : State) (a : Nat) (key : Option Nat := none) : State :=
  (s.putLine a (fun _ => 0#8)).setLine a { LineMeta.zeroed with tag := .made key }

/-- A byte of HBM as it is seen without side effect under keys of which `ok` holds: through the fill of an unfilled line, zero
where the line is poisoned or its tag does not compare. -/
def State.seenUnder (s : State) (ok : Option Nat → Bool) (a : Nat) : Byte :=
  match (s.lineOf a).unfilled with
  | some .zero => 0#8
  | some (.copy l) =>
    if (s.lineOf (64 * l)).tag.opens ok && (s.lineOf (64 * l)).unfilled.isNone then s.hbmByte (64 * l + a % 64) else 0#8
  | none => if (s.lineOf a).tag.opens ok then s.hbmByte a else 0#8

/-- A byte of HBM seen under the key that it was written with. -/
def State.seenByte (s : State) (a : Nat) : Byte := s.seenUnder (fun _ => true) a

/-- The data of the line of an HPA. -/
def State.lineData (s : State) (a : Nat) : Line := BitVec.ofNat 512 (readLE s.hbmByte (a / 64 * 64) 64)

/-- The ciphertext of the line of an HPA under the data key of a number (R32). -/
def State.cipher (s : State) (k a : Nat) : Line := Config.xts k (BitVec.ofNat 34 (a / 64)) (s.lineData a)

/-- The tag stored for the line of an HPA (R33, R34). -/
def State.tagWord (s : State) (a : Nat) : BitVec 56 :=
  match (s.lineOf a).tag with
  | .code => BitVec.allOnes 56
  | .made k => let n := k.elim 0 (· + 1); Config.cmac n (s.cipher n a) (BitVec.ofNat 34 (a / 64)) (s.lineOf a).fe

/-- The metadata word of the line of an HPA (R31). -/
def State.metaWord (s : State) (a : Nat) : Word := s.tagWord a ++ (s.lineOf a).fe

/-- The parity of the low `n` bits of a number. -/
def parity (v : Nat) : Nat → Bool
  | 0 => false
  | n + 1 => (v % 2 == 1) != parity (v / 2) n

/-- The active hash mask `i` of a stack (R29, R30): 0 to 4 for the channel bits, 5 for the pseudo-channel. -/
def State.mask (s : State) (k i : Nat) : Nat :=
  (tget (fun i => (regReset (rk 2 0 (0x10 + 8 * i))).setWidth 40) (s.stackAt k).active i).toNat

/-- The hashed channel of an HPA (R29). -/
def State.channel (s : State) (a : Nat) : Nat :=
  (List.range 5).foldl (fun c i =>
    let b := ((a / 2 ^ (7 + i)) % 2 == 1) != parity (a &&& s.mask (a / 2 ^ 36) i) 40
    c + (if b then 2 ^ i else 0)) 0

/-- The hashed pseudo-channel number of an HPA: 2 * channel + pc (R27, R29). -/
def State.pchan (s : State) (a : Nat) : Nat :=
  2 * s.channel a + (if ((a / 64) % 2 == 1) != parity (a &&& s.mask (a / 2 ^ 36) 5) 40 then 1 else 0)

/-- An event counted and logged by stack `k` (R45): kind, line address, words. -/
def State.logEvent (s : State) (k kind a words : Nat) : State :=
  let o := 0x1000 * k
  let s := s.bump 2 0 (o + 0x40) 0 32 1
  let un := s.fld 2 0 (o + 0x50) 8 5
  let hd := s.fld 2 0 (o + 0x50) 0 4
  if un < 16 then
    let e := (hd + un) % 16
    let s := s.setReg 2 0 (o + 0x100 + 16 * e) (W ((a / 64 % 2 ^ 34) * 64 + kind))
    let s := s.setReg 2 0 (o + 0x108 + 16 * e) (W (s.fld 2 0 (o + 0x40) 0 32 * 2 ^ 32 + words))
    s.setFld 2 0 (o + 0x50) 8 5 (un + 1)
  else s.bump 2 0 (o + 0x48) 0 32 1

/-- An event reported by stack `k` in the present cycle, at whose end it is counted and logged (State.logAll, R45); LINK is kind 5. -/
def State.reportEvent (s : State) (k kind a words : Nat) : State :=
  s.setStack k { s.stackAt k with
    reported := (s.stackAt k).reported ++ [{ rank := if kind = 5 then 64 else s.pchan a, kind := kind, addr := a, words := words }] }

/-- The events that stack `k` has reported in a cycle counted and logged: in ascending pseudo-channel, LINK events last (R45). -/
def State.logStack (s : State) (k : Nat) : State :=
  (sortBy (fun x y => decide (x.rank ≤ y.rank)) (s.stackAt k).reported).foldl (fun s e => s.logEvent k e.kind e.addr e.words)
    (s.setStack k { s.stackAt k with reported := [] })

/-- Those of every stack. -/
def State.logAll (s : State) : State :=
  s.hbmStacks.foldl (fun s (k, x) => if x.reported.isEmpty then s else s.logStack k) s

/-- A line read counted (R44, R404). -/
def State.countRead (s : State) (a : Nat) : State := s.bump 2 0 (0x1000 * (a / 2 ^ 36) + 0x200 + 8 * s.pchan a) 0 32 1

/-- A line write counted (R44, R404). -/
def State.countWrite (s : State) (a : Nat) : State := s.bump 2 0 (0x1000 * (a / 2 ^ 36) + 0x200 + 8 * s.pchan a) 32 32 1

/-- A line marked poisoned and logged (R34). -/
def State.poisonLine (s : State) (a kind words : Nat) : State :=
  (s.setLine a { s.lineOf a with tag := .code }).reportEvent (a / 2 ^ 36) kind a words

/-- An armed injection of kind 1 to 3 on the line of a read (R262). -/
def State.inject (s : State) (a : Nat) : State :=
  if s.fld 11 0 0x808 3 1 = 1 ∧ s.fld 11 0 0x810 6 34 = a / 64 then
    match s.fld 11 0 0x808 0 3 with
    | 1 => (s.setReg 11 0 0x808 0#64).reportEvent (a / 2 ^ 36) 1 a 1
    | 2 => (s.setReg 11 0 0x808 0#64).poisonLine a 2 1
    | 3 => (s.setReg 11 0 0x808 0#64).poisonLine a 3 0xFF
    | _ => s
  else s

/-- The tag of the line was made under another key than `key`, so that it does not compare (R33, R34, DEDUCED, log 10). -/
def State.tagBad (s : State) (key : Option Nat) (a : Nat) : Bool :=
  match (s.lineOf a).tag with
  | .code => false
  | .made k => k != key

/-- A filled line read under a key: an injection fires, and a tag that does not compare poisons the line (R33, R34, R262). -/
def State.checkLine (s : State) (key : Option Nat) (a : Nat) : State :=
  let s := s.inject a
  if s.tagBad key a then s.poisonLine a 3 0xFF else s

/-- The first access to an unfilled line fills it, with a fresh tag under a key: with zero, or with the old frame's line, its
data, full/empty bits and poison, which is read like any line (R20, R31, R234, R235). The fill write is counted (R404). -/
def State.touch (s : State) (a : Nat) (key : Option Nat := none) : State :=
  match (s.lineOf a).unfilled with
  | none => s
  | some .zero => (s.zeroLine a key).countWrite a
  | some (.copy l) =>
    match (s.lineOf (64 * l)).unfilled with
    | some _ => (s.zeroLine a key).countWrite a
    | none =>
      let x := s.checkLine key (64 * l)
      let o := x.lineOf (64 * l)
      (((x.putLine a (fun i => x.hbmByte (64 * l + i))).setLine a { o with unfilled := none }).countRead (64 * l)).countWrite a

/-- What the controller does before it reads a line for a partition's key: fill, injection, tag check (R33, R34). -/
def State.openLine (s : State) (key : Option Nat) (a : Nat) : State := (s.touch a key).checkLine key a

/-- The line of an HPA gives poisoned responses: its tag is the poison code, or its stack's link has failed (R34, R35). -/
def State.lineBad (s : State) (a : Nat) : Bool := (s.lineOf a).poison || s.fld 2 0 (0x1000 * (a / 2 ^ 36) + 8) 2 1 == 1

/-- The key of a partition (R32): the number of the data and integrity keys in key slot `q` of every base die. -/
def State.keyOf (s : State) (q : Nat) : Option Nat := (s.partAt q).key

/-- A 64-bit word of HBM as partition `q` sees it without side effect: a table walk, or the device's own look at a structure of
the partition. -/
def State.seenWord (s : State) (q a : Nat) : Word := W (readLE (s.seenUnder (· == s.keyOf q)) a 8)

/-- The key of the partition that owns the page of an HPA, for an access that no partition makes: the key that the line was
written with while a partition still holds it, otherwise that of the partition of the stack's die. DEDUCED, log 10. -/
def State.ownerKey (s : State) (a : Nat) : Option Nat :=
  let k := (s.lineOf a).key
  if k.isSome && (List.range 8).any (fun q => s.keyOf q == k) then k else (s.partOfDie (a / 2 ^ 37)).bind s.keyOf

/-- A byte of HBM as its owner sees it. -/
def State.ownByte (s : State) (a : Nat) : Byte := s.seenUnder (· == s.ownerKey a) a

/-- The answer to a read: the state after it, the value, and the cause of a poisoned response of R72 (0: none). -/
structure MemR where
  s : State
  v : Nat
  bad : Nat
  deriving DecidableEq, Repr

/-- A read of `n` bytes of one HBM line for partition `q` (R33, R34). -/
def State.hbmRead (s : State) (q a n : Nat) : MemR :=
  let s := (s.openLine (s.keyOf q) a).countRead a
  if s.lineBad a then { s := s, v := 0, bad := 7 } else { s := s, v := readLE s.hbmByte a n, bad := 0 }

/-! ## Aster -/

/-- A wide fixed-point entry (R101): the integer, and the flags NAN 1, PINF 2, NINF 4, CLIP 8. -/
def satW (w : Nat) (v : Int) : Int × Nat :=
  let hi : Int := (2 ^ (w - 1) : Nat)
  if v < -hi then (-hi, 8) else if hi - 1 < v then (hi - 1, 8) else (v, 0)

/-- Entry of a value into WFX of width `w` at base exponent `bexp` (R101). -/
def wfxEnter (w : Nat) (bexp : Int) : FVal → Int × Nat
  | .nan _ => (0, 1)
  | .inf s => (0, if s then 4 else 2)
  | .fin s m e =>
    if m ≠ 0 ∧ e - bexp > 1000 then satW w (if s then -((2 ^ 1000 : Nat) : Int) else (2 ^ 1000 : Nat))
    else satW w (roundInt 0 0 s m (e - bexp)).1

/-- Conversion of a WFX value with its flags to a format (R101). -/
def wfxOut (f : Fmt) (v : Int) (bexp : Int) (fl : Nat) : Nat × Nat :=
  if fl % 2 = 1 ∨ ((fl / 2) % 2 = 1 ∧ (fl / 4) % 2 = 1) then f.nanPat false
  else if (fl / 2) % 2 = 1 then f.infPat false
  else if (fl / 4) % 2 = 1 then f.infPat true
  else fround f 0 0 (v < 0) v.natAbs bexp

/-- Bytes of a field format of R362. -/
def ffmtSize (f : Nat) : Nat :=
  match f with
  | 0 => 4 | 1 => 8 | 2 => 2 | 3 => 2 | 4 => 4 | _ => 8

/-- A two's-complement value of `n` bits. -/
def sInt (n v : Nat) : Int := if v % 2 ^ n < 2 ^ (n - 1) then (v % 2 ^ n : Nat) else ((v % 2 ^ n : Nat) : Int) - (2 ^ n : Nat)

/-- The value of a field (R362). -/
def ffmtVal (f v : Nat) : FVal :=
  match f with
  | 0 => fdecode fp32 v | 1 => fdecode fp64 v | 2 => fdecode fp16 v | 3 => fdecode bf16 v
  | 4 => ofInt (sInt 32 v) 0
  | _ => ofInt (sInt 64 v) 0

/-- A channel after one changed instance with its old and its new value (R198). -/
def Chan.observe (c : Chan) (old new : Nat) : Chan :=
  let (n, f1) := wfxEnter 192 c.bexp (ffmtVal c.ffmt new)
  let (o, f2) := if c.mode = 1 then (0, 0) else wfxEnter 192 c.bexp (ffmtVal c.ffmt old)
  let (d, f3) := satW 192 (n - o)
  let (a, f4) := satW 192 (c.acc + d)
  let fl := f1 ||| f2 ||| f3 ||| f4
  { c with acc := a, nan := c.nan || fl % 2 == 1, pinf := c.pinf || (fl / 2) % 2 == 1,
           ninf := c.ninf || (fl / 4) % 2 == 1, clip := c.clip || (fl / 8) % 2 == 1 }

/-- The instance numbers of a channel whose field meets `n` bytes at address `a` (R197). -/
def Chan.hits (c : Chan) (a n : Nat) : List Nat :=
  let fs := ffmtSize c.ffmt
  let lo := (a + 1 - fs - c.off - c.base) / c.stride
  ((List.range (n / 8 + 3)).map (· + lo)).filter fun k =>
    let p := c.base + k * c.stride + c.off
    c.mode ≠ 0 ∧ p + fs ≤ c.limit ∧ p < a + n ∧ a < p + fs

/-- A channel after a write of `n` bytes at `a`, with the bytes before and after (R198). -/
def Chan.watch (c : Chan) (old new : Nat → Byte) (a n : Nat) : Chan :=
  let fs := ffmtSize c.ffmt
  (c.hits a n).foldl (fun c k =>
    let p := c.base + k * c.stride + c.off
    let o := readLE old p fs
    let w := readLE new p fs
    if o = w then c else c.observe o w) c

/-- The channels of a table after a write. -/
def watchAll (cs : Tab Chan) (f : Chan → Chan) : Tab Chan := cs.map fun (k, c) => (k, f c)

/-- The HPA at which a die channel sees window address `p`, if mapped (R362). -/
def Chan.hpa (c : Chan) (p : Nat) : Option Nat :=
  (c.pages.find? fun e => e.1 == p / 65536).map fun e => e.2 + p % 65536

/-- A die channel after a write of `n` bytes at HPA `a`, through every window page that is mapped to its frame. -/
def Chan.watchHbm (c : Chan) (old new : Nat → Byte) (a n : Nat) : Chan :=
  (c.pages.filter fun e => e.2 == a / 65536 * 65536).foldl (fun x e =>
    x.watch (fun p => ((c.hpa p).map old).getD 0#8) (fun p => ((c.hpa p).map new).getD 0#8) (e.1 * 65536 + a % 65536) n) c

/-- A write of `n` bytes at an address of HBM or host memory meets the descriptor of a ring that is marked invalid. -/
def Ring.sees (x : Ring) (host : Bool) (a n : Nat) : Bool :=
  x.invalid && (match x.descAt with
    | some (.hbm h) => !host && decide (h < a + n) && decide (a < h + 32)
    | some (.host h) => host && decide (h < a + n) && decide (a < h + 32)
    | _ => false)

/-- The rings whose descriptors a write meets are no longer marked invalid (R121). -/
def State.observeRings (s : State) (host : Bool) (a n : Nat) : State :=
  if s.dies.all fun e => e.2.rings.all fun x => !x.sees host a n then s
  else { s with dies := s.dies.map fun (d, e) => (d, { e with rings := e.rings.map fun x => if x.sees host a n then { x with invalid := false } else x }) }

/-- The die channels of the die that owns the stack of HPA `a` (R197), and the rings (R121), after a write there. -/
def State.observeHbm (s0 s1 : State) (a n : Nat) : State :=
  let d := a / 2 ^ 37
  let s := s1.observeRings false a n
  if (s.dieAt d).chans.isEmpty then s
  else s.setDie d { s.dieAt d with chans := watchAll (s.dieAt d).chans (fun c => c.watchHbm s0.hbmByte s.hbmByte a n) }

/-- The cell channels after a write of `n` bytes at offset `off` of a scratchpad. -/
def State.observeScr (s0 s : State) (cell b off n : Nat) : State :=
  if (s.cellAt cell).chans.isEmpty then s
  else s.setCell cell { s.cellAt cell with chans := watchAll (s.cellAt cell).chans (fun c =>
    c.watch (s0.scrByte cell b) (s.scrByte cell b) off n) }

/-! ## Writes -/

/-- A write of the low `n` bytes of `v` to one HBM line for partition `q` (R33, R34): to a poisoned line, fewer than
eight words are discarded and logged. The result says whether the acknowledgement is poisoned. -/
def State.hbmWrite (s : State) (q a n v : Nat) : State × Nat :=
  let s := (s.openLine (s.keyOf q) a).countWrite a
  if s.fld 2 0 (0x1000 * (a / 2 ^ 36) + 8) 2 1 = 1 then (s, 7)
  else if (s.lineOf a).poison then
    (s.reportEvent (a / 2 ^ 36) 4 a ((2 ^ ((a % 64 + n - 1) / 8 + 1) - 2 ^ (a % 64 / 8)) % 256), 0)
  else
    let s1 := { s with hbm := writeLE s.hbm a v n }
    (State.observeHbm s (s1.setLine a { s.lineOf a with tag := .made (s.keyOf q) }) a n, 0)

/-- The contiguous runs of set bits of a byte mask, as start and length. -/
def maskRuns (m : Nat) : List (Nat × Nat) :=
  (List.range 64).foldl (fun l i =>
    if m / 2 ^ i % 2 = 0 then l
    else match l.getLast? with
      | some (b, n) => if b + n = i then l.dropLast ++ [(b, n + 1)] else l ++ [(i, 1)]
      | none => [(i, 1)]) []

/-- The words of a line of which a byte mask selects a byte, as a mask (R45). -/
def maskWords (m : Nat) : Nat := ((List.range 8).filter fun w => m / 2 ^ (8 * w) % 256 ≠ 0).foldl (fun a w => a + 2 ^ w) 0

/-- One write of the bytes of a line that a mask selects, fewer than eight whole words (R33, R34): to a poisoned line it is discarded and logged
once. -/
def State.hbmWriteMask (s : State) (q b mask v : Nat) : State × Nat :=
  let s := (s.openLine (s.keyOf q) b).countWrite b
  if s.fld 2 0 (0x1000 * (b / 2 ^ 36) + 8) 2 1 = 1 then (s, 7)
  else if (s.lineOf b).poison then (s.reportEvent (b / 2 ^ 36) 4 b (maskWords mask), 0)
  else
    ((maskRuns mask).foldl (fun x (i, n) =>
      let y := ({ x with hbm := writeLE x.hbm (b + i) (v / 2 ^ (8 * i) % 2 ^ (8 * n)) n } : State).setLine b { x.lineOf b with tag := .made (x.keyOf q) }
      State.observeHbm x y (b + i) n) s, 0)

/-- A write of a whole HBM line: its own data and a fresh tag, which ends poison (R20, R33, R34); a line that is to be filled
with zero is not filled first. -/
def State.hbmWriteLine (s : State) (q a : Nat) (l : Line) : State :=
  let s0 := (match (s.lineOf a).unfilled with
    | some .zero => s.zeroLine a (s.keyOf q)
    | _ => s.touch a (s.keyOf q)).countWrite a
  if s0.fld 2 0 (0x1000 * (a / 2 ^ 36) + 8) 2 1 = 1 then s0
  else
    let s1 := s0.putLine a (fun i => l.extractLsb' (8 * i) 8)
    State.observeHbm s0 (s1.setLine a { s0.lineOf a with tag := .made (s0.keyOf q) }) (a / 64 * 64) 64

/-- The context bank of a cell's threads: the active bank of the partition that holds its die (R263). -/
def State.cellBank (s : State) (n : Nat) : Nat :=
  match s.partOfDie (n / 64) with
  | some q => s.bankOf q
  | none => 0

/-- A read at a location for partition `q` (R33, R195, R225, R261). A location on another device answers by a packet. -/
def State.memRead (s : State) (q : Nat) (l : Loc) (n : Nat) : MemR :=
  match l with
  | .hbm a => s.hbmRead q a n
  | .scr c off =>
    let b := s.cellBank c
    if (s.cellAt c).badWords.contains ((b * 2 ^ 22 + off) / 8) then { s := s, v := 0, bad := 7 }
    else { s := s, v := readLE (s.scrByte c b) off n, bad := 0 }
  | .host a => if s.hostLink then { s := s, v := readLE s.hostByte a n, bad := 0 } else { s := s, v := 0, bad := 8 }
  | .peer _ _ _ => { s := s, v := 0, bad := 8 }

/-- A write at a location for partition `q`; the result gives the cause of a poisoned acknowledgement. -/
def State.memWrite (s : State) (q : Nat) (l : Loc) (n v : Nat) : State × Nat :=
  match l with
  | .hbm a => s.hbmWrite q a n v
  | .scr c off =>
    let b := s.cellBank c
    let x := s.cellAt c
    let s1 := s.setCell c { x with scratch := writeLE x.scratch (b * 2 ^ 22 + off) v n,
                                   badWords := x.badWords.filter (· ≠ (b * 2 ^ 22 + off) / 8) }
    (State.observeScr s s1 c b off n, 0)
  | .host a => if s.hostLink then (({ s with hostMem := writeLE s.hostMem a v n } : State).observeRings true a n, 0) else (s, 8)
  | .peer _ _ _ => (s, 8)

/-! ## Translation -/

/-- A right of a page (R228): RD 1, WR 2, EX 4, AT 8. -/
def rRD : Nat := 1
/-- WR. -/
def rWR : Nat := 2
/-- EX. -/
def rEX : Nat := 4
/-- AT. -/
def rAT : Nat := 8

/-- The rights of an entry (R227) hold every right of `need`. -/
def rightsOk (e : Word) (need : Nat) : Bool :=
  (need % 2 == 0 || e.getLsbD 61) && ((need / 2) % 2 == 0 || e.getLsbD 60) &&
  ((need / 4) % 2 == 0 || e.getLsbD 59) && ((need / 8) % 2 == 0 || e.getLsbD 58)

/-- The address field of an entry (R227). -/
def entAddr (e : Word) : Nat := bf e 8 44 * 256

/-- A valid pointer to a table aligned to `al` (R227, R228). -/
def ptrOk (e : Word) (al : Nat) : Bool :=
  e.getLsbD 63 && !e.getLsbD 62 && bf e 56 6 == 0 && bf e 52 4 == 0 && bf e 40 12 == 0 && bf e 0 7 == 0 &&
  entAddr e % al == 0

/-- A valid leaf of a page of `sz` bytes (R227, R228). -/
def leafOk (e : Word) (sz : Nat) : Bool :=
  e.getLsbD 63 && e.getLsbD 62 && bf e 52 4 == 0 && bf e 0 7 == 0 && entAddr e % sz == 0 &&
  (e.getLsbD 56 || bf e 40 12 == 0)

/-- A leaf found by a walk: the entry, its own address, and the page's size in bytes. -/
structure Leaf where
  e : Word
  at_ : Nat
  size : Nat
  deriving DecidableEq, Repr

/-- The walk of R226 from the table root, whatever PTROOT.EN says; nothing where R228 gives XLATE. -/
def State.walkRaw (s : State) (q va : Nat) : Option Leaf :=
  let root := s.fld 10 0 (0x40 * q) 20 20 * 2 ^ 20
  let a0 := root + 8 * (va / 2 ^ 39 % 2 ^ 17)
  let e0 := s.seenWord q a0
  if !ptrOk e0 4096 then none
  else
    let a1 := entAddr e0 + 8 * (va / 2 ^ 30 % 512)
    let e1 := s.seenWord q a1
    if leafOk e1 (2 ^ 30) then some { e := e1, at_ := a1, size := 2 ^ 30 }
    else if !ptrOk e1 4096 then none
    else
      let a2 := entAddr e1 + 8 * (va / 2 ^ 21 % 512)
      let e2 := s.seenWord q a2
      if leafOk e2 (2 ^ 21) then some { e := e2, at_ := a2, size := 2 ^ 21 }
      else if !ptrOk e2 256 then none
      else
        let a3 := entAddr e2 + 8 * (va / 2 ^ 16 % 32)
        let e3 := s.seenWord q a3
        if leafOk e3 (2 ^ 16) then some { e := e3, at_ := a3, size := 2 ^ 16 } else none

/-- The translation of a paged address in the tables of partition `q` (R226 to R228). -/
def State.walk (s : State) (q va : Nat) : Option Leaf :=
  if s.fld 10 0 (0x40 * q) 0 1 = 0 then none else s.walkRaw q va

/-- Where a leaf maps an address. -/
def Leaf.loc (l : Leaf) (va : Nat) : Loc :=
  let a := entAddr l.e + va % l.size
  if l.e.getLsbD 56 then .host a else .hbm a

/-- The HPA of a paged address of a partition. -/
def State.hpaOf (s : State) (q a : Nat) : Option Nat :=
  (s.walk q a).bind fun l => match l.loc a with
    | .hbm h => some h
    | _ => none

/-- A paged address, with the rights needed (R228): the cause of the trap, or the location. -/
def State.paged (s : State) (q va need : Nat) : Except Nat Loc :=
  match s.walk q va with
  | none => .error cXLATE
  | some l => if rightsOk l.e need then .ok (l.loc va) else .error cPERM

/-- A paged address: not peer space, not the scratch window, and within 57 bits (R223). -/
def isPaged (va : Nat) : Bool := va / 2 ^ 56 == 0 && va / 2 ^ 48 != 0xFF

/-- Line accesses of an agent of die `d` to a range of virtual addresses, counted per page and die (R232); peer space,
scratch and host memory are not counted. DEDUCED, log 25. -/
def State.charge (s : State) (d q va n : Nat) : State :=
  if s.dieIn q d && isPaged va && (s.hpaOf q va).isSome then
    let x := s.partAt q
    let k := va / 65536 * 8 + d
    s.setPart q { x with counts := tput x.counts k (tget (fun _ => 0) x.counts k + ((va + n - 1) / 64 + 1 - va / 64)) }
  else s

/-- The line accesses of a range that may span pages. -/
def State.chargeRange (s : State) (d q va n : Nat) : State :=
  if n = 0 then s
  else (List.range ((va + n - 1) / 65536 + 1 - va / 65536)).foldl (fun y i =>
    let lo := max va ((va / 65536 + i) * 65536)
    y.charge d q lo (min (va + n) ((va / 65536 + i + 1) * 65536) - lo)) s

/-- A location `k` bytes on. -/
def Loc.plus (l : Loc) (k : Nat) : Loc :=
  match l with
  | .hbm a => .hbm (a + k)
  | .scr c o => .scr c (o + k)
  | .host a => .host (a + k)
  | .peer d w o => .peer d w (o + k)

/-- `w` words read one by one from a location as one number; a poisoned word reads as zero (R261, R371). -/
def State.wordsRead (s : State) (q : Nat) (l : Loc) : Nat → MemR
  | 0 => { s := s, v := 0, bad := 0 }
  | w + 1 =>
    let r := s.memRead q l 8
    let r' := r.s.wordsRead q (l.plus 8) w
    { s := r'.s, v := (if r.bad = 0 then r.v else 0) + 2 ^ 64 * r'.v, bad := if r.bad ≠ 0 then r.bad else r'.bad }

/-- The 64 bytes of a line of a tile's row read (R371): one read of an HBM line (R404), the words of another tier. -/
def State.lineRead (s : State) (q : Nat) (l : Loc) : MemR :=
  match l with
  | .scr _ _ => s.wordsRead q l 8
  | _ => s.memRead q l 64

/-- `w` words of a number written one by one. -/
def State.wordsWrite (s : State) (q : Nat) (l : Loc) (v : Nat) : Nat → State × Nat
  | 0 => (s, 0)
  | w + 1 =>
    let (s1, b) := s.memWrite q l 8 (v % 2 ^ 64)
    let (s2, b') := s1.wordsWrite q (l.plus 8) (v / 2 ^ 64) w
    (s2, if b ≠ 0 then b else b')

/-- A line of a tile's row written (R371): a whole HBM line takes a fresh tag (R33, R34). -/
def State.lineWrite (s : State) (q : Nat) (l : Loc) (v : Line) : State × Nat :=
  match l with
  | .hbm a => (s.hbmWriteLine q a v, if s.fld 2 0 (0x1000 * (a / 2 ^ 36) + 8) 2 1 = 1 then 7 else 0)
  | _ => s.wordsWrite q l v.toNat 8

/-- A window slot checked for an access of `n` bytes at an offset (R69, R70): the cause, or the place on the other device. -/
def slotLoc (w : Word) (off n need : Nat) : Except Nat Loc :=
  let sz := bf w 48 6
  if !w.getLsbD 63 ∨ sz < 16 ∨ 40 < sz ∨ bf w 54 6 ≠ 0 ∨ bf w 43 5 ≠ 0 ∨ bf w 0 16 ≠ 0 ∨ 2 ^ sz < off + n then .error cXLATE
  else if (need % 2 = 1 ∧ !w.getLsbD 62) ∨ ((need / 2) % 2 = 1 ∧ !w.getLsbD 61) ∨ ((need / 8) % 2 = 1 ∧ !w.getLsbD 60) then .error cPERM
  else .ok (.peer (bf w 32 11) (bf w 16 16) off)

/-- A peer address checked at the source (R69, R70): the window slot is read in the partition's tables. -/
def State.peerLoc (s : State) (q va n need : Nat) : Except Nat Loc :=
  let at_ := s.fld 5 0 (0x40 * q + 0x10) 19 38 * 2 ^ 19 + 8 * (va / 2 ^ 40 % 2 ^ 16)
  if s.fld 5 0 (0x40 * q + 0x10) 0 1 = 0 then .error cXLATE
  else
    match s.paged q at_ rRD with
    | .ok l =>
      let r := s.memRead q l 8
      if r.bad ≠ 0 then .error cXLATE else slotLoc (W r.v) (va % 2 ^ 40) n need
    | .error _ => .error cXLATE

/-- The state after the window slot of a peer address was read: what a read of its line does (R33, R34, R70, R262, R404). -/
def State.slotSeen (s : State) (q va : Nat) : State :=
  let at_ := s.fld 5 0 (0x40 * q + 0x10) 19 38 * 2 ^ 19 + 8 * (va / 2 ^ 40 % 2 ^ 16)
  if va / 2 ^ 56 ≠ 1 ∨ s.fld 5 0 (0x40 * q + 0x10) 0 1 = 0 then s
  else
    match s.paged q at_ rRD with
    | .ok l => (s.memRead q l 8).s
    | .error _ => s

/-! ## Target windows -/

/-- A word of the device's own tables at an HPA, as their owner sees it (R71). -/
def State.tableAt (s : State) (a : Nat) : Word := W (readLE s.ownByte a 8)

/-- The four words of a target window entry (R71). -/
def State.window (s : State) (rwin : Nat) : Word × Word × Word × Word :=
  let a := bf (s.reg 3 0 0x48) 21 36 * 2 ^ 21 + 32 * rwin
  (s.tableAt a, s.tableAt (a + 8), s.tableAt (a + 16), s.tableAt (a + 24))

/-- The words of a target window entry are valid (R71, R72): V, the zero fields, SIZE, BASE, GROUP or MAP. -/
def windowOk (w : Word × Word × Word × Word) : Bool :=
  let (w0, w1, w2, w3) := w
  let sz := bf w0 54 6
  w0.getLsbD 63 && bf w0 0 50 == 0 && decide (16 ≤ sz) && decide (sz ≤ 40) && w3 == 0#64 && bf w1 57 7 == 0 && w1.toNat % 2 ^ sz == 0 &&
    (if w0.getLsbD 50 then bf w2 57 7 == 0 && w2.toNat % 256 == 0 else w2.toNat / 2 ^ 16 == 0)

/-- The checks of an access through a window after that of its source (R71, R72), and its translation. -/
def State.windowPage (s : State) (w0 w1 : Word) (off n need : Nat) : Except Nat (Nat × Nat) :=
  let q := bf w0 51 3
  if (need % 2 = 1 ∧ !w0.getLsbD 62) ∨ (need / 2 % 2 = 1 ∧ !w0.getLsbD 61) ∨ (need / 8 % 2 = 1 ∧ !w0.getLsbD 60) then .error 3
  else if 2 ^ bf w0 54 6 < off + n then .error 4
  else if !s.running q then .error 5
  else match s.paged q (w1.toNat + off) need with
    | .ok (.hbm h) => .ok (q, h)
    | .ok _ => .error 6
    | .error c => .error (if c = cXLATE then 6 else 3)

/-- The bit of a device in the bitmap of a MODE 1 window as it is seen without side effect. -/
def State.mapSeen (s : State) (q map dev : Nat) : Bool :=
  match s.paged q (map + dev / 8) rRD with
  | .ok (.hbm h) => (s.seenUnder (· == s.keyOf q) h).getLsbD (dev % 8)
  | _ => false

/-- Where an access of another device's thread, on a Dahlia core here, lands (R185): in this device's HBM by the window of its
peer address, or, for a store, on a third device. The access that it came with has its descriptor's window, and so has each later one through the
same slot; the other slots are its own device's. Any other address sends the thread home, which the failure does. DESIGN CHOICE, log 16. -/
def State.farLoc (s : State) (t : Thread) (x : Desc) (a n need : Nat) : Except Nat Loc :=
  if a / 2 ^ 56 ≠ 1 then .error cXLATE
  else
    let k := a / 2 ^ 40 % 2 ^ 16
    match (if t.farWin.getD k = k then .ok (.peer s.devId x.rwin.toNat (a % 2 ^ 40)) else slotLoc (Config.farSlot t.gid k) (a % 2 ^ 40) n need) with
    | .ok (.peer dev rw off) =>
      if dev ≠ s.devId then (if need = rWR then .ok (.peer dev rw off) else .error cXLATE)
      else
        let (w0, w1, w2, w3) := s.window rw
        if s.fld 3 0 0x48 0 1 = 0 ∨ !windowOk (w0, w1, w2, w3) then .error cXLATE
        else if !(if w0.getLsbD 50 then s.mapSeen (bf w0 51 3) w2.toNat ((s.turn - 512) / 8) else w2.toNat == x.group.toNat) then .error cPERM
        else match s.windowPage w0 w1 off n need with
          | .ok (_, h) => .ok (.hbm h)
          | .error c => .error (if c = 6 then cXLATE else cPERM)
    | .ok l => .ok l
    | .error c => .error c

/-- Where a thread's access of `n` bytes at a virtual address lands (R223, R224, R228, R70, R185). -/
def State.locate (s : State) (t : Thread) (va : Word) (n need : Nat) : Except Nat Loc :=
  let a := va.toNat
  match t.far with
  | some x => s.farLoc t x a n need
  | none =>
  if a / 2 ^ 57 ≠ 0 then .error cXLATE
  else if a / 2 ^ 56 = 1 then s.peerLoc t.part a n need
  else if a / 2 ^ 48 = 0xFF then
    let d := a / 2 ^ 28 % 8
    if a / 2 ^ 31 % 2 ^ 17 ≠ 0 ∨ !s.dieIn t.part d then .error cXLATE
    else if t.sb.toNat ≤ a ∧ a + n ≤ t.sb.toNat + t.ss.toNat then
      .ok (.scr (64 * d + a / 2 ^ 22 % 64) (a % 2 ^ 22))
    else .error cPERM
  else s.paged t.part a need

/-- An access that touches the part of a watermark range that has not arrived (R165). -/
def State.watermarkStall (s : State) (q va n : Nat) : Bool :=
  s.chans.any fun (k, c) =>
    let d := k / 32
    let i := k % 32
    s.fld 9 d (0x40 * i) 9 3 == q && decide ((s.reg 9 d (0x20 + 0x40 * i)).toNat < va + n) &&
      decide (va < c.hi.toNat) && decide (c.lo.toNat < c.hi.toNat) && decide ((s.reg 9 d (0x20 + 0x40 * i)).toNat < c.hi.toNat)

/-- A page whose translations stall while it is moved (R234). -/
def State.moveStall (s : State) (q va : Nat) : Bool :=
  (s.partAt q).moves.any fun m => m.stalled && decide (m.va ≤ va) && decide (va < m.va + (match m.size with | 0 => 2 ^ 16 | 1 => 2 ^ 21 | _ => 2 ^ 30))

/-- The stack of an HPA rehashes (R44). -/
def State.rehashing (s : State) (a : Nat) : Bool := s.fld 2 0 (0x1000 * (a / 2 ^ 36) + 8) 1 1 == 1

/-- A unit of a cell's active bank demanded: it is the next to be loaded (R264). -/
def State.demandUnit (s : State) (n u : Nat) : State :=
  let c := s.cellAt n
  if c.swap.contains u then s.setCell n { c with swap := u :: c.swap.erase u } else s

/-- The scratch block of a location demanded. -/
def State.demandLoc (s : State) (l : Loc) : State :=
  match l with
  | .scr c off => s.demandUnit c (64 + off / 4096)
  | _ => s

/-- An access stalls during a rehash of its stack (R44), or of the stack from which its line is still to be filled (R236), and while
its scratch block is still to be swapped (R264). -/
def State.locStall (s : State) (l : Loc) : Bool :=
  match l with
  | .hbm a => s.rehashing a || (match (s.lineOf a).unfilled with | some (.copy o) => s.rehashing (64 * o) | _ => false)
  | .scr c off => (s.cellAt c).swap.contains (64 + off / 4096)
  | _ => false

/-- An engine's access waits: its page is being moved (R234), its stack rehashes (R44), or its scratch block is still to be swapped
(R264). -/
def State.engStall (s : State) (q va : Nat) : Bool :=
  isPaged va && (s.moveStall q va || ((s.hpaOf q va).map fun h => s.locStall (.hbm h)).getD false) ||
    va / 2 ^ 48 == 0xFF && s.locStall (.scr (64 * (va / 2 ^ 28 % 8) + va / 2 ^ 22 % 64) (va % 2 ^ 22))

/-- Breakpoint `i` of the thread's partition is enabled and its gid matches (R268, R271). -/
def State.bpOn (s : State) (t : Thread) (i : Nat) : Bool :=
  let o := 0x100 * t.part + 0x18 * i
  let c := s.reg 11 0 (o + 0x48)
  let g := s.reg 11 0 (o + 0x50)
  t.far.isNone && s.fld 11 0 0x800 0 1 == 1 && c.getLsbD 0 &&
    (match bf c 6 2 with
     | 0 => true
     | 1 => t.gid == g
     | 2 => bf t.gid 32 32 == bf g 32 32
     | _ => false)

/-- A data breakpoint matches an access of `n` bytes (R268): `kinds` 1 a load, 2 a store, 3 both; not for the first bundle after a
return from a trap (R258). -/
def State.watchHit (s : State) (t : Thread) (va n kinds : Nat) : Bool :=
  !t.noBreak && (List.range 8).any fun i =>
    let o := 0x100 * t.part + 0x18 * i
    let k := s.fld 11 0 (o + 0x48) 1 3
    let len := 2 ^ s.fld 11 0 (o + 0x48) 4 2
    let a := s.fld 11 0 (o + 0x40) 0 57
    s.bpOn t i && (k == 3 || (k == 1 && kinds % 2 == 1) || (k == 2 && kinds / 2 == 1)) && decide (a < va + n) && decide (va < a + len)

/-- An execute breakpoint matches a bundle's address (R268). -/
def State.breakHit (s : State) (t : Thread) : Bool :=
  (List.range 8).any fun i =>
    s.bpOn t i && s.fld 11 0 (0x100 * t.part + 0x18 * i + 0x48) 1 3 == 0 &&
      s.fld 11 0 (0x100 * t.part + 0x18 * i + 0x40) 0 57 == t.pc.toNat

/-- Any breakpoint of the partition is enabled (R268). -/
def State.anyBreak (s : State) (q : Nat) : Bool :=
  s.fld 11 0 0x800 0 1 == 1 && (List.range 8).any fun i => s.fld 11 0 (0x100 * q + 0x18 * i + 0x48) 0 1 == 1

end Sys2Proof.Machine
end

