-- ==== Sys2Proof/Machine/Operands.lean ====
section
/-! DEFINITION. The operands of each instruction: scalar sources in the order in which a replay entry captures them
(R255), destinations, tile and stream registers (R369 to R398), the lookahead it carries (R280), and whether it draws
from the generator (R207). -/
namespace Sys2Proof.Machine

/-- `n` tile registers from `t` (R370). -/
def tileSet (t : BitVec 5) (n : Nat) : List Nat := (List.range n).map (t.toNat + ·)

/-- A tiles of a matrix mode (R384). -/
def mmA (m : BitVec 2) : Nat :=
  match m.toNat with
  | 0 => 1 | 1 => 1 | 2 => 2 | _ => 4

/-- B tiles of a matrix mode (R384). -/
def mmB (m : BitVec 2) : Nat :=
  match m.toNat with
  | 0 => 2 | 1 => 8 | 2 => 4 | _ => 2

/-- Scalar sources, in the order of R255. -/
def srcs (i : Instr) : List GReg :=
  match i with
  | .bz x _ => [x]
  | .bnz x _ => [x]
  | .jr y => [y]
  | .jlr _ y => [y]
  | .rep x _ => [x]
  | .setpri _ y => [y]
  | .launch _ y z => [y, z]
  | .fill y z => [y, z]
  | .ld _ _ y _ _ => [y]
  | .lds _ _ y _ _ => [y]
  | .st x y _ _ => [x, y]
  | .ldx _ _ y z _ => [y, z]
  | .ldsx _ _ y z _ => [y, z]
  | .stx x y z _ => [x, y, z]
  | .pf y _ _ => [y]
  | .cinv y z => [y, z]
  | .mbwait _ y z _ => [y, z]
  | .mbread _ _ y => [y]
  | .bowait _ y z _ => [y, z]
  | .boread _ _ y _ => [y]
  | .wmread _ _ y => [y]
  | .add _ a b => [a, b]
  | .sub _ a b => [a, b]
  | .mul _ a b => [a, b]
  | .mulh _ a b => [a, b]
  | .mulhu _ a b => [a, b]
  | .div _ a b => [a, b]
  | .divu _ a b => [a, b]
  | .rem _ a b => [a, b]
  | .remu _ a b => [a, b]
  | .and _ a b => [a, b]
  | .or _ a b => [a, b]
  | .xor _ a b => [a, b]
  | .andn _ a b => [a, b]
  | .shl _ a b => [a, b]
  | .shr _ a b => [a, b]
  | .sra _ a b => [a, b]
  | .rol _ a b => [a, b]
  | .ror _ a b => [a, b]
  | .min _ a b => [a, b]
  | .max _ a b => [a, b]
  | .minu _ a b => [a, b]
  | .maxu _ a b => [a, b]
  | .addsc _ a b _ => [a, b]
  | .sel _ a b c => [a, b, c]
  | .clz _ a => [a]
  | .ctz _ a => [a]
  | .popc _ a => [a]
  | .bswap _ a => [a]
  | .bext _ a b _ => [a, b]
  | .bins d a b _ => [a, b, d]
  | .sext _ a _ => [a]
  | .addi _ a _ => [a]
  | .andi _ a _ => [a]
  | .ori _ a _ => [a]
  | .xori _ a _ => [a]
  | .shli _ a _ => [a]
  | .shri _ a _ => [a]
  | .srai _ a _ => [a]
  | .muli _ a _ => [a]
  | .cmp _ a b _ _ => [a, b]
  | .cmpi _ a _ _ _ => [a]
  | .fcmp _ a b _ _ => [a, b]
  | .fcmpd _ a b _ _ => [a, b]
  | .take _ a => [a]
  | .fadd _ a b _ _ => [a, b]
  | .fsub _ a b _ _ => [a, b]
  | .fmul _ a b _ _ => [a, b]
  | .fdiv _ a b _ _ => [a, b]
  | .fsqrt _ a _ _ => [a]
  | .fma d a b _ _ => [a, b, d]
  | .fmin _ a b _ => [a, b]
  | .fmax _ a b _ => [a, b]
  | .fabs _ a _ => [a]
  | .fneg _ a _ => [a]
  | .fcvt _ a _ _ _ => [a]
  | .fcvti _ a _ _ _ => [a]
  | .icvtf _ a _ _ _ => [a]
  | .fclass _ a _ => [a]
  | .fexp2 _ a _ _ => [a]
  | .ldih x _ => [x]
  | .tret _ y => [y]
  | .rdpr _ _ y _ => [y]
  | .wrpr y z _ => [y, z]
  | .cbank _ y we => if we then [y] else []
  | .ldLone _ _ y _ _ _ _ _ => [y]
  | .stLone x y _ _ _ _ => [x, y]
  | .ldsy _ _ y _ _ => [y]
  | .stsy x y _ _ => [x, y]
  | .aadd _ _ y z _ _ _ _ _ => [y, z]
  | .aand _ _ y z _ _ _ _ _ => [y, z]
  | .aor _ _ y z _ _ _ _ _ => [y, z]
  | .axor _ _ y z _ _ _ _ _ => [y, z]
  | .amin _ _ y z _ _ _ _ _ => [y, z]
  | .amax _ _ y z _ _ _ _ _ => [y, z]
  | .aminu _ _ y z _ _ _ _ _ => [y, z]
  | .amaxu _ _ y z _ _ _ _ _ => [y, z]
  | .aswp _ _ y z _ _ _ _ _ => [y, z]
  | .acas _ _ y z w _ _ _ _ _ => [y, z, w]
  | .bmove x y z _ _ _ _ => [x, y, z]
  | .cpsub _ _ y z _ => [y, z]
  | .bmv _ _ y => [y]
  | .coll _ _ y z => [y, z]
  | .cwait _ y z _ => [y, z]
  | .boinit y z => [y, z]
  | .mbset _ y z => [y, z]
  | .marm y z => [y, z]
  | .mref y z w en => if en then [y, z, w] else [y]
  | .mread _ _ y _ => [y]
  | .radd _ _ y w _ s => if s then [y, w] else [y]
  | .rmax _ _ y w _ s => if s then [y, w] else [y]
  | .rlww _ _ y z _ expl => if expl then [y, z] else [y]
  | .rsadd _ _ y z => [y, z]
  | .rsrem _ _ y z => [y, z]
  | .rshas _ _ y z _ => [y, z]
  | .rmean _ _ y z w _ s => if s then [y, z, w] else [y, z]
  | .rread _ _ y _ _ _ _ _ => [y]
  | .rfront _ _ y z sel' => if sel'.toNat < 2 then [y, z] else [y]
  | .rstab _ _ y z w _ => [y, z, w]
  | .rhlc _ _ z op => if op == 2 then [z] else []
  | .tld _ _ gx _ _ _ _ => [gx]
  | .tst _ _ gx _ _ _ _ => [gx]
  | .tfill _ _ gx _ _ _ => [gx]
  | .vadd _ _ _ _ gx _ _ _ bc => if bc then [gx] else []
  | .vsub _ _ _ _ gx _ _ _ bc => if bc then [gx] else []
  | .vmul _ _ _ _ gx _ _ _ bc => if bc then [gx] else []
  | .vfma _ _ _ _ _ gx _ _ _ bc => if bc then [gx] else []
  | .vdiv _ _ _ _ gx _ _ bc => if bc then [gx] else []
  | .vmin _ _ _ _ gx _ _ bc => if bc then [gx] else []
  | .vmax _ _ _ _ gx _ _ bc => if bc then [gx] else []
  | .vand _ _ _ _ gx _ bc => if bc then [gx] else []
  | .vor _ _ _ _ gx _ bc => if bc then [gx] else []
  | .vxor _ _ _ _ gx _ bc => if bc then [gx] else []
  | .vshl _ _ _ _ gx _ bc => if bc then [gx] else []
  | .vshr _ _ _ _ gx _ _ bc => if bc then [gx] else []
  | .mcfg gx _ _ _ _ _ => [gx]
  | .mmul _ _ _ gx _ _ _ _ => [gx]
  | .msend _ _ _ _ gx _ _ _ kind _ => if kind.toNat < 2 then [gx, gx + 1] else [gx]
  | .sgen _ _ gx _ _ _ _ => [gx]
  | .sregen _ _ _ gx _ => [gx]
  | _ => []

/-- The instruction draws from the generator of R209, so that it reads g60 (R207, R255). -/
def draws (i : Instr) : Bool :=
  match i with
  | .fadd _ _ _ r _ => r == 4
  | .fsub _ _ _ r _ => r == 4
  | .fmul _ _ _ r _ => r == 4
  | .fdiv _ _ _ r _ => r == 4
  | .fsqrt _ _ r _ => r == 4
  | .fma _ _ _ r _ => r == 4
  | .fcvt _ _ _ r _ => r == 4
  | .fcvti _ _ _ r _ => r == 4
  | .icvtf _ _ _ r _ => r == 4
  | .fexp2 _ _ r _ => r == 4
  | .rread _ _ _ _ _ _ rm _ => rm == 4
  | .vadd _ _ _ _ _ rm _ _ _ => rm == 4
  | .vsub _ _ _ _ _ rm _ _ _ => rm == 4
  | .vmul _ _ _ _ _ rm _ _ _ => rm == 4
  | .vfma _ _ _ _ _ _ rm _ _ _ => rm == 4
  | .vdiv _ _ _ _ _ rm _ _ => rm == 4
  | .vsqrt _ _ _ rm _ => rm == 4
  | .vexp2 _ _ _ rm _ => rm == 4
  | .vcvt _ _ _ rm _ _ _ => rm == 4
  | .vrsum _ _ _ rm _ => rm == 4
  | .mxpack _ _ _ _ rm _ _ => rm == 4
  | .mxunpk _ _ _ _ rm _ _ => rm == 4
  | .vscal _ _ _ _ _ rm _ => rm == 4
  | .acget _ _ rm _ _ _ => rm == 4
  | .sgen _ _ _ _ _ _ _ => true
  | .sregen _ _ _ _ _ => true
  | _ => false

/-- The scalar destination of a lone instruction. -/
def loneDst (i : Instr) : Option GReg :=
  match i with
  | .ldi x _ => some x
  | .ldih x _ => some x
  | .tret x _ => some x
  | .rdpr _ x _ _ => some x
  | .cbank x _ _ => some x
  | .rdtb x _ => some x
  | .ldLone _ x _ _ _ _ _ _ => some x
  | .ldsy _ x _ _ _ => some x
  | .aadd _ x _ _ _ _ _ _ _ => some x
  | .aand _ x _ _ _ _ _ _ _ => some x
  | .aor _ x _ _ _ _ _ _ _ => some x
  | .axor _ x _ _ _ _ _ _ _ => some x
  | .amin _ x _ _ _ _ _ _ _ => some x
  | .amax _ x _ _ _ _ _ _ _ => some x
  | .aminu _ x _ _ _ _ _ _ _ => some x
  | .amaxu _ x _ _ _ _ _ _ _ => some x
  | .aswp _ x _ _ _ _ _ _ _ => some x
  | .acas _ x _ _ _ _ _ _ _ _ => some x
  | .cpsub _ x _ _ _ => some x
  | .bmv _ x _ => some x
  | .coll _ x _ _ => some x
  | .cwait x _ _ _ => some x
  | .mbset x _ _ => some x
  | .mread _ x _ _ => some x
  | .radd _ x _ _ _ _ => some x
  | .rmax _ x _ _ _ _ => some x
  | .rlww _ x _ _ _ _ => some x
  | .rsadd _ x _ _ => some x
  | .rsrem _ x _ _ => some x
  | .rshas _ x _ _ _ => some x
  | .rmean _ x _ _ _ _ _ => some x
  | .rread _ x _ _ s _ _ _ => if s then some x else none
  | .rfront _ x _ _ _ => some x
  | .rstab _ x _ _ _ _ => some x
  | .rhlc _ x _ _ => some x
  | _ => none

/-- The scalar destination of an instruction (R281). DEDUCED, log 29. -/
def scalarDst (i : Instr) : Option GReg := (cDst i).or ((aDst i).or (loneDst i))

/-- Task-relative tile registers that the instruction reads. -/
def tileSrcs (i : Instr) : List Nat :=
  match i with
  | .radd _ _ _ w _ s => if s then [] else [w.toNat]
  | .rmax _ _ _ w _ s => if s then [] else [w.toNat]
  | .rlww _ _ _ _ w _ => [w.toNat]
  | .rmean _ _ _ _ w _ s => if s then [] else [w.toNat]
  | .tst _ ta _ _ _ _ _ => [ta.toNat]
  | .tmov _ td ta row _ _ => if row then [td.toNat, ta.toNat] else [ta.toNat]
  | .tfill _ td _ _ row _ => if row then [td.toNat] else []
  | .vadd _ _ ta tb _ _ _ _ bc => if bc then [ta.toNat] else [ta.toNat, tb.toNat]
  | .vsub _ _ ta tb _ _ _ _ bc => if bc then [ta.toNat] else [ta.toNat, tb.toNat]
  | .vmul _ _ ta tb _ _ _ _ bc => if bc then [ta.toNat] else [ta.toNat, tb.toNat]
  | .vfma _ _ ta tb tc _ _ _ _ bc => if bc then [ta.toNat, tc.toNat] else [ta.toNat, tb.toNat, tc.toNat]
  | .vdiv _ _ ta tb _ _ _ bc => if bc then [ta.toNat] else [ta.toNat, tb.toNat]
  | .vsqrt _ _ ta _ _ => [ta.toNat]
  | .vmin _ _ ta tb _ _ _ bc => if bc then [ta.toNat] else [ta.toNat, tb.toNat]
  | .vmax _ _ ta tb _ _ _ bc => if bc then [ta.toNat] else [ta.toNat, tb.toNat]
  | .vexp2 _ _ ta _ _ => [ta.toNat]
  | .vabs _ _ ta _ _ => [ta.toNat]
  | .vneg _ _ ta _ _ => [ta.toNat]
  | .vand _ _ ta tb _ _ bc => if bc then [ta.toNat] else [ta.toNat, tb.toNat]
  | .vor _ _ ta tb _ _ bc => if bc then [ta.toNat] else [ta.toNat, tb.toNat]
  | .vxor _ _ ta tb _ _ bc => if bc then [ta.toNat] else [ta.toNat, tb.toNat]
  | .vshl _ _ ta tb _ _ bc => if bc then [ta.toNat] else [ta.toNat, tb.toNat]
  | .vshr _ _ ta tb _ _ _ bc => if bc then [ta.toNat] else [ta.toNat, tb.toNat]
  | .vcvt _ td ta _ te ste _ => if teCount ste < teCount te then [td.toNat, ta.toNat] else [ta.toNat]
  | .vrsum _ _ ta _ _ => [ta.toNat]
  | .vrmax _ _ ta _ => [ta.toNat]
  | .vtrans _ _ ta tb te _ => if teBits te == 16 then [ta.toNat, tb.toNat] else [ta.toNat]
  | .mxpack _ td ta tc _ _ _ => [td.toNat, ta.toNat, tc.toNat]
  | .mxunpk _ _ ta tc _ _ _ => [ta.toNat, tc.toNat]
  | .vscal _ _ ta tb tc _ _ => [ta.toNat, tb.toNat, tc.toNat]
  | .mmul _ ta tb _ _ _ _ mode => tileSet ta (mmA mode) ++ tileSet tb (mmB mode)
  | .msend _ _ ta tb _ _ _ _ kind ext => match kind.toNat with
    | 0 => tileSet ta (mmA (ext.extractLsb' 0 2)) ++ tileSet tb (mmB (ext.extractLsb' 0 2))
    | 3 => [ta.toNat]
    | _ => []
  | .acput _ ta _ _ => [ta.toNat]
  | .amerge _ _ ta tb d16 => tileSet ta (tripleLen d16) ++ tileSet tb (tripleLen d16)
  | .anorm _ _ ta d16 => tileSet ta (tripleLen d16)
  | .sgen _ _ _ ts _ _ _ => [ts.toNat]
  | .scnt _ _ td _ _ => [td.toNat]
  | _ => []

/-- Task-relative tile registers that the instruction writes. -/
def tileDsts (i : Instr) : List Nat :=
  match i with
  | .rread _ x _ _ s _ _ _ => if s then [] else [x.toNat]
  | .tld _ td _ _ _ _ _ => [td.toNat]
  | .tmov _ td _ _ _ _ => [td.toNat]
  | .tfill _ td _ _ _ _ => [td.toNat]
  | .vadd _ td _ _ _ _ _ _ _ => [td.toNat]
  | .vsub _ td _ _ _ _ _ _ _ => [td.toNat]
  | .vmul _ td _ _ _ _ _ _ _ => [td.toNat]
  | .vfma _ td _ _ _ _ _ _ _ _ => [td.toNat]
  | .vdiv _ td _ _ _ _ _ _ => [td.toNat]
  | .vsqrt _ td _ _ _ => [td.toNat]
  | .vmin _ td _ _ _ _ _ _ => [td.toNat]
  | .vmax _ td _ _ _ _ _ _ => [td.toNat]
  | .vexp2 _ td _ _ _ => [td.toNat]
  | .vabs _ td _ _ _ => [td.toNat]
  | .vneg _ td _ _ _ => [td.toNat]
  | .vand _ td _ _ _ _ _ => [td.toNat]
  | .vor _ td _ _ _ _ _ => [td.toNat]
  | .vxor _ td _ _ _ _ _ => [td.toNat]
  | .vshl _ td _ _ _ _ _ => [td.toNat]
  | .vshr _ td _ _ _ _ _ _ => [td.toNat]
  | .vcvt _ td _ _ _ _ _ => [td.toNat]
  | .vrsum _ td _ _ _ => [td.toNat]
  | .vrmax _ td _ _ => [td.toNat]
  | .vtrans _ td _ _ _ _ => [td.toNat]
  | .mxpack _ td _ tc _ _ _ => [td.toNat, tc.toNat]
  | .mxunpk _ td _ _ _ _ _ => [td.toNat]
  | .vscal _ td _ _ _ _ _ => [td.toNat]
  | .msend _ td _ _ _ _ _ _ kind _ => if kind == 2 then [td.toNat] else []
  | .acget _ td _ _ _ _ => [td.toNat]
  | .amerge _ td _ _ d16 => tileSet td (tripleLen d16)
  | .anorm _ td _ d16 => tileSet td (tripleLen d16 - 1)
  | .scnt _ _ td _ _ => [td.toNat]
  | _ => []

/-- Task-relative stream registers that the instruction reads. -/
def strmSrcs (i : Instr) : List Nat :=
  match i with
  | .sand _ _ qa qb => [qa.toNat, qb.toNat]
  | .sxnor _ _ qa qb => [qa.toNat, qb.toNat]
  | .smux _ _ qa qb qc => [qa.toNat, qb.toNat, qc.toNat]
  | .scnt _ qa _ _ _ => [qa.toNat]
  | .sregen _ _ qa _ _ => [qa.toNat]
  | _ => []

/-- Task-relative stream registers that the instruction writes. -/
def strmDsts (i : Instr) : List Nat :=
  match i with
  | .slen qd _ => [qd.toNat]
  | .sgen _ qd _ _ _ _ _ => [qd.toNat]
  | .sand _ qd _ _ => [qd.toNat]
  | .sxnor _ qd _ _ => [qd.toNat]
  | .smux _ qd _ _ _ => [qd.toNat]
  | .sregen _ qd _ _ _ => [qd.toNat]
  | _ => []

/-- The lookahead of a long-latency instruction; none where its opcode carries no LA (R280, R284, R286). -/
def laOf (i : Instr) : Option Nat :=
  match i with
  | .ld la _ _ _ _ => some la.toNat
  | .lds la _ _ _ _ => some la.toNat
  | .ldx la _ _ _ _ => some la.toNat
  | .ldsx la _ _ _ _ => some la.toNat
  | .mbread la _ _ => some la.toNat
  | .boread la _ _ _ => some la.toNat
  | .wmread la _ _ => some la.toNat
  | .rdpr la _ _ _ => some la.toNat
  | .ldLone la _ _ _ _ _ _ _ => some la.toNat
  | .ldsy la _ _ _ _ => some la.toNat
  | .aadd la _ _ _ _ _ _ _ _ => some la.toNat
  | .aand la _ _ _ _ _ _ _ _ => some la.toNat
  | .aor la _ _ _ _ _ _ _ _ => some la.toNat
  | .axor la _ _ _ _ _ _ _ _ => some la.toNat
  | .amin la _ _ _ _ _ _ _ _ => some la.toNat
  | .amax la _ _ _ _ _ _ _ _ => some la.toNat
  | .aminu la _ _ _ _ _ _ _ _ => some la.toNat
  | .amaxu la _ _ _ _ _ _ _ _ => some la.toNat
  | .aswp la _ _ _ _ _ _ _ _ => some la.toNat
  | .acas la _ _ _ _ _ _ _ _ _ => some la.toNat
  | .cpsub la _ _ _ _ => some la.toNat
  | .bmv la _ _ => some la.toNat
  | .coll la _ _ _ => some la.toNat
  | .mread la _ _ _ => some la.toNat
  | .radd la _ _ _ _ _ => some la.toNat
  | .rmax la _ _ _ _ _ => some la.toNat
  | .rlww la _ _ _ _ _ => some la.toNat
  | .rsadd la _ _ _ => some la.toNat
  | .rsrem la _ _ _ => some la.toNat
  | .rshas la _ _ _ _ => some la.toNat
  | .rmean la _ _ _ _ _ _ => some la.toNat
  | .rread la _ _ _ _ _ _ _ => some la.toNat
  | .rfront la _ _ _ _ => some la.toNat
  | .rstab la _ _ _ _ _ => some la.toNat
  | .rhlc la _ _ _ => some la.toNat
  | .tld la _ _ _ _ _ _ => some la.toNat
  | .tst la _ _ _ _ _ _ => some la.toNat
  | .tmov la _ _ _ _ _ => some la.toNat
  | .tfill la _ _ _ _ _ => some la.toNat
  | .vadd la _ _ _ _ _ _ _ _ => some la.toNat
  | .vsub la _ _ _ _ _ _ _ _ => some la.toNat
  | .vmul la _ _ _ _ _ _ _ _ => some la.toNat
  | .vfma la _ _ _ _ _ _ _ _ _ => some la.toNat
  | .vdiv la _ _ _ _ _ _ _ => some la.toNat
  | .vsqrt la _ _ _ _ => some la.toNat
  | .vmin la _ _ _ _ _ _ _ => some la.toNat
  | .vmax la _ _ _ _ _ _ _ => some la.toNat
  | .vexp2 la _ _ _ _ => some la.toNat
  | .vabs la _ _ _ _ => some la.toNat
  | .vneg la _ _ _ _ => some la.toNat
  | .vand la _ _ _ _ _ _ => some la.toNat
  | .vor la _ _ _ _ _ _ => some la.toNat
  | .vxor la _ _ _ _ _ _ => some la.toNat
  | .vshl la _ _ _ _ _ _ => some la.toNat
  | .vshr la _ _ _ _ _ _ _ => some la.toNat
  | .vcvt la _ _ _ _ _ _ => some la.toNat
  | .vrsum la _ _ _ _ => some la.toNat
  | .vrmax la _ _ _ => some la.toNat
  | .vtrans la _ _ _ _ _ => some la.toNat
  | .mxpack la _ _ _ _ _ _ => some la.toNat
  | .mxunpk la _ _ _ _ _ _ => some la.toNat
  | .vscal la _ _ _ _ _ _ => some la.toNat
  | .mmul la _ _ _ _ _ _ _ => some la.toNat
  | .msend la _ _ _ _ _ _ _ _ _ => some la.toNat
  | .acget la _ _ _ _ _ => some la.toNat
  | .acput la _ _ _ => some la.toNat
  | .aczero la _ _ _ _ => some la.toNat
  | .amerge la _ _ _ _ => some la.toNat
  | .anorm la _ _ _ => some la.toNat
  | .sgen la _ _ _ _ _ _ => some la.toNat
  | .sand la _ _ _ => some la.toNat
  | .sxnor la _ _ _ => some la.toNat
  | .smux la _ _ _ _ => some la.toNat
  | .scnt la _ _ _ _ => some la.toNat
  | .sregen la _ _ _ _ => some la.toNat
  | _ => none

/-- The scalar registers that an instruction reads at issue, g60 included where it draws. -/
def reads (i : Instr) : List Nat := (srcs i).map (·.toNat) ++ (if draws i then [60] else [])

/-- The scalar registers that an instruction names as a source or a destination (R176, R178). -/
def named (i : Instr) : List Nat := reads i ++ ((scalarDst i).toList.map (·.toNat)) ++
  (match i with | .isfull _ a => [a.toNat] | _ => [])

end Sys2Proof.Machine
end

