-- ==== Sys2Proof/Machine/Ops.lean ====
section
/-! DEFINITION. The shared operations of a thread: taking a trap and its frame (spec/12 R252 to R257), the checks at
issue that every instruction shares (R138, R178, R181, R182), long-latency instructions and their completion (R171,
R253), posted accesses (R239, R244, R248), and tile and stream registers (spec/09 R180, R181). -/
namespace Sys2Proof.Machine

/-! ## Taking a trap -/

/-- The light context of a thread with the pc at which it resumes (R184). -/
def Thread.ctx (t : Thread) (pc : Word) : LightCtx :=
  { g := (List.range 48).map (tget (fun _ => 0#64) t.g), pc := pc, f := (List.range 4).map (tget (fun _ => 0#64) t.f),
    gid := t.gid, cls := BitVec.ofNat 2 t.cls, eff := BitVec.ofNat 2 (max t.cls t.lent), st := t.st,
    full := t.full.setWidth 48, lk := tget (fun _ => 0#64) t.g 62 }

/-- A thread with the registers and the pc of a light context (R186, R258). -/
def Thread.withCtx (t : Thread) (c : LightCtx) : Thread :=
  { t with
    g := (List.range 48).foldl (fun g i => tput g i (c.g.getD i 0#64)) (tput t.g 62 c.lk),
    f := tofn 0 4 (fun i => c.f.getD i 0#64), st := c.st, pc := c.pc, npc := c.pc,
    full := (t.full &&& ~~~0xFFFFFFFFFFFF#64) ||| c.full.zeroExtend 64 }

/-- The replay entry of an unfinished instruction (R253, R255), marked FAULT where it is the one that the frame is about: ACTION is
PERF. RESULT holds the value of a scalar destination only, so that an instruction of another kind is executed again. -/
def Pend.entry (p : Pend) (fault : Bool := false) : REntry :=
  let perf := p.perf.isSome && p.dst.isSome
  { inst := p.inst, slot := p.slot, perf := perf, fault := fault, action := perf, pc := p.pc,
    opA := p.opA, opB := p.opB, opC := p.opC, addr := p.addr, result := if perf then p.perf.getD 0#64 else 0#64 }

/-- An outstanding instruction whose bundle has issued, so that it forms a replay entry when its thread stops (R253): not an access made
for a bmove or a bowait that the thread still stands at (R333, R340). -/
def Pend.replays (p : Pend) : Bool :=
  match p.act with
  | .elem _ _ _ _ _ _ => false
  | .phase _ _ => false
  | _ => true

/-- The replay entries of a thread's outstanding instructions in issue order (R253); the one at `fi` is marked FAULT. -/
def Thread.entries (t : Thread) (fi : Option Nat) : List REntry :=
  ((t.out.mapIdx fun i p => (p, fi == some i)).filter (·.1.replays)).map fun x => x.1.entry x.2

/-- The place among a thread's replay entries of outstanding instruction `fi`, where it has one. -/
def Thread.entryIdx (t : Thread) (fi : Option Nat) : Option Nat :=
  fi.filter fun i => ((t.out[i]?).map Pend.replays).getD true

/-- What a wait leaves when its thread stops: one of an issued bundle goes on when the thread resumes, as does that of a fill which has been sent
(R310, R366, R179). -/
def Wait.issuedPart (w : Wait) : Wait :=
  match w with
  | .tbar _ _ => w
  | .drift _ _ => w
  | .fillSent _ => w
  | .filled _ => w
  | .fillRefused _ => w
  | _ => .none

/-- ORIGIN (R255). -/
def State.origin (s : State) (n k : Nat) (t : Thread) : Word :=
  W (s.devId * 2 ^ 53 + n / 64 * 2 ^ 50 + n % 64 * 2 ^ 44 + k % 16 * 2 ^ 40 + t.part * 2 ^ 37 + k / 16 * 2 ^ 36)

/-- The synchronising accesses and barrier waits of a thread leave the stacks' lists without effect (R246, R340): its consuming load,
and where it is killed or pre-empted its producing stores. -/
def State.withdraw (s : State) (n k : Nat) (stores : Bool := false) : State :=
  { s with hbmStacks := s.hbmStacks.map fun (i, x) =>
      (i, { x with syncs := x.syncs.filter (fun w => !(w.cell == n && w.slot == k && w.pkt.isNone && (stores || !w.store))),
                   bars := x.bars.filter (· ≠ (n, k)) }) }

/-- A context leaves the Dahlia cores and queues that hold it (R145, R187, R258). -/
def State.dropGuest (s : State) (n k : Nat) : State :=
  { s with hbmStacks := s.hbmStacks.map fun (i, x) => (i, { x with cores := x.cores.map fun (j, c) =>
      (j, { c with slots := c.slots.filter (· ≠ .own n k), queue := c.queue.filter (· ≠ .own n k) }) }) }

/-- A thread is traced (R267). -/
def State.traced (s : State) (gid : Word) : Bool :=
  s.fld 11 0 0x818 0 1 == 1 && ((gid ^^^ s.reg 11 0 0x820) &&& s.reg 11 0 0x828) == 0#64

/-- A trace record of a thread of cell `n`, slot key `k`, at a site of a die and a slot there, for the ring of its home
die, if it is traced (R267). -/
def State.traceSite (s : State) (kind arg n k die site slot : Nat) (pc : Word) : State :=
  let t := s.thrAt n k
  if t.far.isNone && s.traced t.gid then
    { s with trace := s.trace ++ [(n / 64, { w0 := W (kind * 2 ^ 56 + arg * 2 ^ 48 + s.devId * 2 ^ 37 + die * 2 ^ 34 + site * 2 ^ 27 + slot * 2 ^ 23),
                                             gid := t.gid, tb := s.tb die, pc := pc })] }
  else s

/-- A trace record at the home cell. DEDUCED, log 62. -/
def State.traceAt (s : State) (kind arg n k : Nat) (pc : Word) : State := s.traceSite kind arg n k (n / 64) (n % 64) (k % 16) pc

/-- The site field of a trace record for a Dahlia core (R267). -/
def dahliaSite (k j : Nat) : Nat := 64 + 8 * (k % 2) + j

/-- The slot of a core in which a thread stands: stack, core and slot. -/
def State.coreHolding (s : State) (n key : Nat) : Option (Nat × Nat × Nat) :=
  s.hbmStacks.findSome? fun (k, x) => x.cores.findSome? fun (j, c) =>
    (c.slots.findIdx? (· == .own n key)).map fun i => (k, j, i)

/-- A thread that stops goes home from where it stands (R187), recorded where it stood and at home (R267); a context of another device stays until it
is sent home. -/
def State.leaveCore (s : State) (n k : Nat) (addr : Word) : State :=
  if (s.thrAt n k).far.isSome then s
  else match s.coreHolding n k with
    | some (st, j, i) => ((s.traceSite 4 0 n k (st / 2) (dahliaSite st j) i addr).dropGuest n k).traceAt 5 0 n k addr
    | none => s.dropGuest n k

/-- The fault server that FSRV of a partition names, if it is valid (R122). -/
def State.server (s : State) (q : Nat) : Option (Nat × Nat) :=
  let v := s.reg 5 0 (0x40 * q + 0x18)
  if bf v 16 1 = 0 then none else some (bf v 0 11, bf v 11 3)

/-- A thread stops at a bundle boundary (R253, R255): its frame is formed, every unfinished long-latency instruction
becomes a replay entry in issue order, those still to be reissued among them, and the frame stays with the thread, with the server that is
to have it (R122), until it is delivered. -/
def State.stopAt (s : State) (n k cause pcause : Nat) (faddr fpc resume : Word) (fi : Option Nat) (deferred : Bool) : State :=
  let t := s.thrAt n k
  let (tok, s) := s.fresh
  let fr : Frame :=
    { ctx := t.ctx resume, cause := BitVec.ofNat 8 cause, faultIdx := BitVec.ofNat 4 ((t.entryIdx fi).getD 15),
      pcause := BitVec.ofNat 8 pcause, deferred := deferred, dead := false, notify := false, gang := !t.lanes.isEmpty,
      lane := BitVec.ofNat 3 t.lane, glanes := BitVec.ofNat 8 (if t.lanes.isEmpty then 0 else 2 ^ t.lane), faddr := faddr,
      fpc := fpc, origin := s.origin n k t, tb := s.tb (n / 64), token := tok,
      entries := t.entries fi ++ t.replay.map fun e => { e with fault := false } }
  let s := s.setThrAt n k { t with stop := some fr, sent := false, dest := s.server t.part, latch := none, pc := resume, npc := resume, skip := if t.lanes.isEmpty then 0 else t.skip,
                                   out := [], replay := [], ea := none, issued := false, site := .home, refusals := 0, wait := t.wait.issuedPart }
  ((s.withdraw n k).leaveCore n k ((t.out.getLast?.map (·.addr)).getD 0#64)).traceAt 6 cause n k resume

/-- The pc at which a precise trap resumes (R252): the following bundle for SYSCALL and DRIFT, else the bundle. -/
def resumePc (cause : Nat) (pc : Word) : Word := if cause = cSYSCALL ∨ cause = cDRIFT then pc + 8#64 else pc

/-- TAKING A TRAP that is detected at issue (R252): FPC is the bundle, no entry is marked FAULT. DEDUCED, log 28. -/
def State.trap (s : State) (cause : Nat) (faddr : Word) : State :=
  s.stopAt s.turn s.cur cause 0 faddr s.thr.pc (resumePc cause s.thr.pc) none false

/-- TAKING A TRAP for a virtual address that an access names; a window slot that was read and is bad keeps what its read did (R70). -/
def State.locTrap (s : State) (cause : Nat) (va : Word) : State :=
  (if cause = cXLATE then s.slotSeen s.thr.part va.toNat else s).trap cause va

/-- TAKING A TRAP for a fault of outstanding instruction `i` found after issue (R253): the thread stops at the boundary
after its last issued bundle, and the faulting instruction is the entry marked FAULT. -/
def State.lateTrap (s : State) (n k i cause pcause : Nat) : State :=
  let t := s.thrAt n k
  match t.out[i]? with
  | none => s
  | some p =>
    let s := s.setThrAt n k { t with out := t.out.set i { p with late := some (cause, pcause) } }
    s.stopAt n k cause pcause p.faddr p.pc t.pc (some i) false

/-- TAKING A TRAP for a poisoned acknowledgement of a posted access (R72, R253): DEFERRED, no FAULT entry. -/
def State.deferredTrap (s : State) (n k cause pcause : Nat) (fpc faddr : Word) : State :=
  s.stopAt n k cause pcause faddr fpc (s.thrAt n k).pc none true

/-- The trap of a poisoned response's CAUSE and whether it is taken (R72, R261); 9 stands for the MIGNAK of a hop on another device (R37; DESIGN
CHOICE, log 16). -/
def trapOfCause (ptrap : Bool) (c : Nat) : Option Nat :=
  if c = 0 then none
  else if c ≤ 5 then some cPERM
  else if c = 6 then some cXLATE
  else if c = 7 then (if ptrap then some cPOISON else none)
  else if c = 9 then some cMIGNAK
  else some cPOISON

/-- TRPCTL.PTRAP of a partition (R271). -/
def State.ptrap (s : State) (q : Nat) : Bool := s.fld 11 0 (0x100 * q) 0 1 == 1

/-- Poison traps are enabled for a thread; one of another device takes its poisoned responses home, where that is decided (R187). -/
def State.traps (s : State) (t : Thread) : Bool := t.far.isSome || s.ptrap t.part

/-! ## Tile and stream registers -/

/-- A tile register that nothing has written: zero, full, not pending (R180). -/
def Tile.init : Tile := { bytes := [], full := true, pending := false }

/-- A stream register that nothing has written (R393). -/
def Strm.init : Strm := { lanes := [], code := 0, lineage := 0#64, full := true, pending := false }

/-- The physical tile register of task-relative number `i` of the issuing thread (R138). -/
def State.tphys (s : State) (i : Nat) : Nat := (s.thr.tiles[i]?).getD 0

/-- The physical stream register of task-relative number `i`. -/
def State.sphys (s : State) (i : Nat) : Nat := (s.thr.strms[i]?).getD 0

/-- Physical tile register `p` of cell `n` in context bank `b`. -/
def State.tileAt (s : State) (n b p : Nat) : Tile := tget (fun _ => Tile.init) (s.cellAt n).tiles (32 * b + p)

/-- A tile register set. -/
def State.setTileAt (s : State) (n b p : Nat) (t : Tile) : State :=
  s.setCell n { s.cellAt n with tiles := tput (s.cellAt n).tiles (32 * b + p) t }

/-- Physical stream register `p`. -/
def State.strmAt (s : State) (n b p : Nat) : Strm := tget (fun _ => Strm.init) (s.cellAt n).strms (16 * b + p)

/-- A stream register set. -/
def State.setStrmAt (s : State) (n b p : Nat) (t : Strm) : State :=
  s.setCell n { s.cellAt n with strms := tput (s.cellAt n).strms (16 * b + p) t }

/-- Tile register `i` of the issuing thread. -/
def State.tile (s : State) (i : Nat) : Tile := s.tileAt s.turn (s.cur / 16) (s.tphys i)

/-- Stream register `i` of the issuing thread. -/
def State.strm (s : State) (i : Nat) : Strm := s.strmAt s.turn (s.cur / 16) (s.sphys i)

/-- The first `n` bytes of a byte table from key `k`. -/
def dense : Nat → Nat → Tab Byte → List Byte
  | 0, _, _ => []
  | n + 1, k, [] => 0#8 :: dense n (k + 1) []
  | n + 1, k, (j, v) :: r => if j = k then v :: dense n (k + 1) r else 0#8 :: dense n (k + 1) ((j, v) :: r)

/-- The byte table of a list of bytes. -/
def sparse (k : Nat) : List Byte → Tab Byte
  | [] => []
  | b :: r => if b = 0#8 then sparse (k + 1) r else (k, b) :: sparse (k + 1) r

/-- The 4,096 bytes of a tile register (R180). -/
def Tile.all (t : Tile) : List Byte := dense 4096 0 t.bytes

/-- The power state of a cell's bank (R182): 0 on, 1 retention, 2 off; tile banks 0 to 3, stream banks 4 and 5. -/
def State.bankPower (s : State) (n b : Nat) : Nat := tget (fun _ => 0) (s.cellAt n).power b

/-! ## Checks at issue that every instruction shares -/

/-- A mesh port that an instruction names without a neighbour at the mesh edge (R178). -/
def State.edgeBad (s : State) (i : Instr) : Bool :=
  (named i).any fun r => decide (48 ≤ r) && decide (r < 52) && (meshNeighbour s.turn (r - 48)).isNone

/-- A tile or stream register at or beyond the task's count (R138). -/
def State.countBad (s : State) (i : Instr) : Bool :=
  (tileSrcs i ++ tileDsts i).any (fun t => decide (s.thr.tiles.length ≤ t)) ||
  (strmSrcs i ++ strmDsts i).any (fun t => decide (s.thr.strms.length ≤ t))

/-- The first tile or stream register that gives BANKOFF: in a bank that is off, or a source that is empty with no write
pending (R181, R182). -/
def State.bankOff (s : State) (i : Instr) : Option Nat :=
  ((tileSrcs i ++ tileDsts i).find? fun t => s.bankPower s.turn (s.tphys t / 8) == 2).or
  (((strmSrcs i ++ strmDsts i).find? fun q => s.bankPower s.turn (4 + s.sphys q / 8) == 2).or
  (((tileSrcs i).find? fun t => !(s.tile t).full && !(s.tile t).pending).or
  ((strmSrcs i).find? fun q => !(s.strm q).full && !(s.strm q).pending)))

/-- The first cause that every instruction's operands may raise at issue (R252), with FADDR: an operand that the
encoding does not accept, a port off the edge, a register beyond the task's count, a bank that is off. DEDUCED, log 64. -/
def State.preTrap (s : State) (i : Instr) : Option (Nat × Word) :=
  if !i.wf || s.edgeBad i || s.countBad i then some (cILLEGAL, 0#64)
  else (s.bankOff i).map fun r => (cBANKOFF, W r)

/-- A format with scales: MX or integer (R190). -/
def mScaled (f : Nat) : Bool := 4 ≤ f && f ≤ 10

/-- A configuration slot that nothing has written. -/
def MCfg.init : MCfg :=
  { v := false, mode := 0, afmt := 0, bfmt := 0, int := false, key := 0#32, row0 := 0, col0 := 0, ascale := 0#64, bscale := 0#64 }

/-- Configuration `c` of cell `n` in a context bank. -/
def State.mcfgAt (s : State) (n bank c : Nat) : MCfg := tget (fun _ => MCfg.init) (s.cellAt n).mcfgs (8 * bank + c)

/-- The sources of an instruction as the issuing thread reads them: the scale offsets of a matrix command are read only where its configuration has
scales (R386). -/
def State.srcsOf (s : State) (i : Instr) : List GReg :=
  match i with
  | .mmul _ _ _ gx c _ _ _ =>
    let m := s.mcfgAt s.turn (s.cur / 16) c.toNat
    if mScaled m.afmt || mScaled m.bfmt then [gx] else []
  | _ => srcs i

/-- The scalar registers that an instruction reads so. -/
def State.readsOf (s : State) (i : Instr) : List Nat := (s.srcsOf i).map (·.toNat) ++ (if draws i then [60] else [])

/-- An instruction executed at issue: the shared checks, then its own effect; ports it names are popped (R178). -/
def State.run (s : State) (i : Instr) (f : State → State) : Host.Outcome State Fault Refusal :=
  .next (match s.preTrap i with
    | some (c, a) => s.trap c a
    | none => s.popAfter (f s) (s.srcsOf i))

/-! ## Long-latency instructions -/

/-- The operands a replay entry captures: the sources in order, and g60 in OPC for a draw (R255). -/
def State.captured (s : State) (i : Instr) : Word × Word × Word :=
  let v := (srcs i).map s.rd
  (v.getD 0 0#64, v.getD 1 0#64, if draws i then s.rdN 60 else v.getD 2 0#64)

/-- A tile register of the issuing thread marked empty with a write pending (R181). -/
def State.markTile (s : State) (i : Nat) : State :=
  s.setTileAt s.turn (s.cur / 16) (s.tphys i) { s.tile i with full := false, pending := true }

/-- A stream register so marked. -/
def State.markStrm (s : State) (i : Nat) : State :=
  s.setStrmAt s.turn (s.cur / 16) (s.sphys i) { s.strm i with full := false, pending := true }

/-- An instruction of the issuing thread as an outstanding one, with its captured operands (R253, R255). -/
def State.pendFor (s : State) (i : Instr) (addr : Word) (act : Act) (perf : Option Word) (late : Option (Nat × Nat)) (acq : Bool) : Pend :=
  let (sl, w) := codeOf i
  let (a, b, c) := s.captured i
  { inst := w, slot := sl, pc := s.thr.pc, la := (laOf i).getD 0, since := 0, opA := a, opB := b, opC := c, addr := addr,
    act := act, perf := perf, dst := (scalarDst i).map (·.toNat), tiles := (tileDsts i).map s.tphys, strms := (strmDsts i).map s.sphys,
    held := [], late := late, faddr := addr, seq := s.thr.seqNo, acq := acq,
    keeps := (tileSrcs i).map s.tphys ++ (strmSrcs i).map fun q => 32 + s.sphys q }

/-- An access outstanding for an instruction that the thread goes on standing at (R333, R340): no destination is pending. -/
def State.poll (s : State) (i : Instr) (addr : Word) (act : Act) (acq : Bool) : State :=
  s.setThr { s.thr with out := s.thr.out ++ [{ s.pendFor i addr act none none acq with dst := none }], seqNo := s.thr.seqNo + 1 }

/-- A long-latency instruction issued (R171, R253, R280): its destinations become empty or pending, and it stays
outstanding with its action until it completes. -/
def State.long (s : State) (i : Instr) (addr : Word) (act : Act) (perf : Option Word) (late : Option (Nat × Nat)) (acq : Bool) : State :=
  let t := s.thr
  let p := s.pendFor i addr act perf late acq
  let s := if t.far.isSome then s else s.slotSeen t.part addr.toNat
  let s := s.setThr { t with out := t.out ++ [p], seqNo := t.seqNo + 1,
                             farWin := if t.far.isSome then t.farWin.or (some (addr.toNat / 2 ^ 40 % 2 ^ 16)) else t.farWin }
  let s := match p.dst with
    | some d => if d < 48 ∨ d = 60 ∨ d = 62 then s.setFull d false else s
    | none => s
  (strmDsts i).foldl State.markStrm ((tileDsts i).foldl State.markTile s)

/-- A register result written where it goes (R181). -/
def State.putResult (s : State) : RegWrite → State
  | .scalar r v => s.wrN r v
  | .tile t bs => s.setTileAt s.turn (s.cur / 16) t { bytes := bs, full := true, pending := false }
  | .strm q ls c l => s.setStrmAt s.turn (s.cur / 16) q { lanes := ls, code := c, lineage := l, full := true, pending := false }

/-- Outstanding instruction `i` of a thread is finished: it leaves the list (R253). -/
def State.retire (s : State) (n k i : Nat) : State :=
  s.setThrAt n k { s.thrAt n k with out := (s.thrAt n k).out.eraseIdx i }

/-- The results and flags of outstanding instruction `i` reach their destinations. -/
def State.deliver (s : State) (n k i : Nat) (ws : List RegWrite) (fl : Nat) : State :=
  let r := s.retire n k i
  let x := ws.foldl State.putResult (r.at n k)
  (x.orSt fl).back s

/-! ## Order among a thread's accesses -/

/-- A location lies in the reach of a scope for an agent of die `d` (R240): 0 domain, 1 device, 2 die, 3 cell. -/
def inReach (d : Nat) (sc : Nat) : Loc → Bool
  | .scr _ _ => true
  | .hbm a => sc ≤ 1 || (sc == 2 && a / 2 ^ 37 == d)
  | .host _ => sc ≤ 1
  | .peer _ _ _ => sc == 0

/-- The location of an outstanding access. -/
def Act.locs : Act → List Loc
  | .ret _ _ => []
  | .load l _ _ _ _ _ => [l]
  | .cons l _ _ => [l]
  | .atom l _ _ _ _ _ _ _ _ => [l]
  | .rows ls _ _ _ => ls.map (·.2)
  | .mbc _ _ => []
  | .bar l _ _ => [l]
  | .wmark _ _ => []
  | .elem l _ _ _ _ _ => [l]
  | .phase l _ => [l]
  | .msg _ _ => []
  | .mget => []
  | .append _ _ _ _ _ => []
  | .priv _ _ => []
  | .back _ => []

/-- Every earlier access of a thread in a scope's reach has performed, posted ones acknowledged (R241, R248). -/
def Thread.released (t : Thread) (d sc seq : Nat) : Bool :=
  t.posted.all (fun p => decide (seq ≤ p.seq) || !inReach d sc p.loc) &&
  t.out.all (fun p => decide (seq ≤ p.seq) || p.perf.isSome || !p.act.locs.any (inReach d sc))

/-- No earlier acquire of the thread is still to perform (R241). -/
def Thread.acquired (t : Thread) (seq : Nat) : Bool :=
  t.out.all fun p => decide (seq ≤ p.seq) || !p.acq || p.perf.isSome

/-- The line or the place of a location. -/
def Loc.line : Loc → Nat × Nat × Nat × Nat
  | .hbm a => (0, 0, 0, a / 64)
  | .scr c o => (1, c, 0, o / 64)
  | .host a => (2, 0, 0, a / 64)
  | .peer d w o => (3, d, w, o / 64)

/-- A thread holds an unacknowledged posted access to the line (R239). -/
def Thread.lineBusy (t : Thread) (l : Loc) : Bool := t.posted.any fun p => p.loc.line == l.line

/-- No earlier access of the thread to the same line is still to perform, so that its accesses to one byte perform in
program order (R239). -/
def Thread.inOrder (t : Thread) (seq : Nat) (ls : List Loc) : Bool :=
  t.posted.all (fun p => decide (seq ≤ p.seq) || p.performed || !ls.any (fun l => l.line == p.loc.line)) &&
  t.out.all (fun p => decide (seq ≤ p.seq) || p.perf.isSome || !p.act.locs.any (fun a => ls.any (fun l => l.line == a.line)))

/-- An outstanding access of a thread has come to where it executes (R185): the place at which its issue put the thread, at home or on a Dahlia
core; a page that moves under it, or a rehash, does not send the thread elsewhere (R234, R249). A departing thread's earlier accesses execute at
the site that it is leaving; the access for which it departs, the last, does not. -/
def Thread.inPlace (t : Thread) (l : Loc) (last : Bool) : Bool :=
  match l with
  | .hbm _ =>
    !t.lanes.isEmpty || (match t.site with
      | .home => true
      | .dahlia _ _ => true
      | .departing _ _ => !last
      | _ => false)
  | _ => true

/-- A posted access joins the thread's list (R244); its acknowledgement takes it off. -/
def State.post (s : State) (l : Loc) (n : Nat) (v v2 : Word) (op : Option AOp) (sync rel : Bool) (sc : Nat) (addr : Word) : State :=
  let t := s.thr
  let s := if t.far.isSome then s else s.slotSeen t.part addr.toNat
  s.setThr { t with posted := t.posted ++ [{ loc := l, n := n, val := v, val2 := v2, wide := none, op := op, sync := sync, rel := rel,
                                             sc := sc, pc := t.pc, addr := addr, performed := false, bad := 0, seq := t.seqNo }],
                    seqNo := t.seqNo + 1 }

/-- The new value of an atomic of `n` bytes (R327). -/
def AOp.new (o : AOp) (n : Nat) (old v w : Nat) : Nat :=
  let m := 2 ^ (8 * n)
  let v := v % m
  match o with
  | .add => (old + v) % m
  | .and => old &&& v
  | .or => old ||| v
  | .xor => old ^^^ v
  | .min => if sInt (8 * n) old ≤ sInt (8 * n) v then old else v
  | .max => if sInt (8 * n) old ≤ sInt (8 * n) v then v else old
  | .minu => if old ≤ v then old else v
  | .maxu => if old ≤ v then v else old
  | .swp => v
  | .cas => if old = v then w % m else old

/-- An atomic performed at a location for partition `q` (R328, R242): the old value; on a poisoned line it writes
nothing and returns zero; it logs no PWR event (DESIGN CHOICE, log 10: R34 speaks of the write that stores fewer words, R328 of an atomic that
writes nothing). -/
def State.atomic (s : State) (q : Nat) (l : Loc) (n : Nat) (o : AOp) (v w : Nat) : MemR :=
  let r := s.memRead q l n
  if r.bad ≠ 0 then { r with v := 0 }
  else if o = .cas ∧ r.v ≠ v % 2 ^ (8 * n) then r
  else { s := (r.s.memWrite q l n (o.new n r.v v w)).1, v := r.v, bad := 0 }

/-- The full/empty bit of an HBM word (R31). -/
def State.feBit (s : State) (a : Nat) : Bool := ((s.touch a).lineOf a).fe.getLsbD (a / 8 % 8)

/-- A full/empty bit set (R245). -/
def State.setFe (s : State) (a : Nat) (b : Bool) : State :=
  let s := s.touch a
  let m := s.lineOf a
  let k := 1#8 <<< (a / 8 % 8)
  s.setLine a { m with fe := if b then m.fe ||| k else m.fe &&& ~~~k }

/-- A synchronising access of a thread at its stack controller (R246): it performs if its condition holds and no earlier
waiting access of its kind waits on the word; otherwise it waits in the list of at most 1,024, or is refused. -/
def State.syncGo (s : State) (a n k seq : Nat) (store : Bool) : State × Bool :=
  let i := a / 2 ^ 36
  let x := s.stackAt i
  let me := fun (w : SyncWait) => w.cell == n && w.slot == k && w.seq == seq && w.store == store && w.pkt.isNone
  let before := x.syncs.takeWhile fun w => !me w
  if (s.feBit a != store) && !before.any (fun w => w.hpa == a && w.store == store) then
    (s.setStack i { x with syncs := x.syncs.filter fun w => !me w }, true)
  else if x.syncs.any me ∨ 1024 ≤ x.syncs.length then (s, false)
  else (s.setStack i { x with syncs := x.syncs ++ [{ cell := n, slot := k, seq := seq, store := store, hpa := a, pkt := none }] }, false)

/-- A waiting synchronising access leaves its stack's list (R246). -/
def State.dropSync (s : State) (a n k seq : Nat) (store : Bool) : State :=
  let i := a / 2 ^ 36
  let x := s.stackAt i
  s.setStack i { x with syncs := x.syncs.filter fun w => !(w.cell == n && w.slot == k && w.seq == seq && w.store == store && w.pkt.isNone) }

/-- A posted access of a context bank that is not active waits for it: to scratch, whose bytes are those of the active bank, and a
producing store, which pre-emption withdraws (R246, R263, R264). -/
def State.bankAway (s : State) (n k : Nat) (p : Posted) : Bool :=
  let scr : Bool := match p.loc with | .scr _ _ => true | _ => false
  (scr || p.sync) && (k / 16 != s.cellBank n || (p.sync && (s.partAt (s.thrAt n k).part).switching))

/-- A posted access to another device. -/
def Posted.isPeer (p : Posted) : Bool := match p.loc with | .peer _ _ _ => true | _ => false

/-- Posted access `i` of a thread performs at its memory, if nothing that it must follow is still to perform (R241,
R244 to R246). -/
def State.performPosted (s : State) (n k i : Nat) : State :=
  let t := s.thrAt n k
  match t.posted[i]? with
  | none => s
  | some p =>
    if p.performed ∨ p.isPeer ∨ !t.acquired p.seq ∨ !t.inOrder p.seq [p.loc] ∨ (p.rel ∧ !t.released (n / 64) p.sc p.seq) ∨ s.bankAway n k p then s
    else if s.locStall p.loc then s.demandLoc p.loc
    else
      let done := fun (x : State) (bad : Nat) =>
        let y := x.charge (n / 64) t.part p.addr.toNat p.n
        y.setThrAt n k { y.thrAt n k with posted := (y.thrAt n k).posted.set i { p with performed := true, bad := bad } }
      match p.op with
      | some o =>
        let r := s.atomic t.part p.loc p.n o p.val.toNat p.val2.toNat
        done r.s r.bad
      | none =>
        if p.sync then
          match p.loc with
          | .hbm a =>
            let x := s.openLine (s.keyOf t.part) a
            if x.lineBad a then
              let (y, b) := x.hbmWrite t.part a 8 p.val.toNat
              done (y.dropSync a n k p.seq true) b
            else match x.syncGo a n k p.seq true with
              | (y, false) => y
              | (y, true) =>
                let (z, b) := y.hbmWrite t.part a 8 p.val.toNat
                done (z.setFe a true) b
          | _ => s
        else
          let (y, b) := match p.wide with
            | some v => s.lineWrite t.part p.loc v
            | none => s.memWrite t.part p.loc p.n p.val.toNat
          done y b

/-- The acknowledgement of posted access `i` (R244): it leaves the list; a poisoned one traps at the boundary (R72),
or, of a stopped thread, at the first boundary after it resumes (R254). An atomic on poisoned data sets st.PZ where no trap is taken (R261,
R328). -/
def State.ackPosted (s : State) (n k i cause : Nat) : State :=
  let t := s.thrAt n k
  match t.posted[i]? with
  | none => s
  | some p =>
    let c := if cause = 0 then p.bad else cause
    let s := s.setThrAt n k { t with posted := t.posted.eraseIdx i }
    match trapOfCause (s.traps t) c with
    | none => if c = 7 ∧ p.op.isSome then s.setThrAt n k { s.thrAt n k with st := t.st ||| 0x80#8 } else s
    | some tr =>
      if t.stop.isSome then s.setThrAt n k { s.thrAt n k with owed := (s.thrAt n k).owed ++ [(tr, c, p.pc, p.addr)] }
      else s.deferredTrap n k tr c p.pc p.addr

/-- A performed read's answer: the value and the cause of a poisoned response recorded with the instruction. -/
def State.answer (s : State) (n k i : Nat) (v : Word) (bad : Nat) : State :=
  let t := s.thrAt n k
  match t.out[i]? with
  | none => s
  | some p =>
    match trapOfCause (s.traps t) bad with
    | some tr => s.lateTrap n k i tr (if bad = 9 then 0 else bad)
    | none =>
      let st := if bad = 7 then t.st ||| 0x80#8 else t.st
      s.setThrAt n k { t with st := st, out := t.out.set i { p with perf := some v } }

/-- A value read, extended to 64 bits (R325). -/
def extend (n : Nat) (sgn : Bool) (v : Nat) : Word := if sgn then BitVec.ofInt 64 (sInt (8 * n) v) else W v

/-- The bytes of the lines of a tile load. -/
def heldBytes (ls : List Nat) : List Byte := ls.flatMap fun v => (List.range 64).map fun j => BitVec.ofNat 8 (v / 256 ^ j)

/-- The lines of tile load `i` read in ascending order as far as they lie in this device (R371, R372); once every line is
there, the load has performed. -/
def State.rowsGo (s : State) (n k i : Nat) : Nat → State
  | 0 => s
  | fuel + 1 =>
    let t := s.thrAt n k
    match t.out[i]? with
    | none => s
    | some p =>
      match p.act with
      | .rows ls tile _ _ =>
        match ls[p.held.length]? with
        | none => s.setThrAt n k { t with out := t.out.set i { p with perf := some 0#64, act := .ret [.tile tile (sparse 0 (heldBytes p.held))] 0#8 } }
        | some (_, .peer _ _ _) => s
        | some (va, l) =>
          if s.locStall l then s.demandLoc l
          else
            let r := s.lineRead t.part l
            let x := r.s.charge (n / 64) t.part va 64
            match trapOfCause (s.ptrap t.part) r.bad with
            | some tr => (x.setThrAt n k { x.thrAt n k with out := (x.thrAt n k).out.set i { p with faddr := W va } }).lateTrap n k i tr r.bad
            | none =>
              let u := x.thrAt n k
              (x.setThrAt n k { u with st := if r.bad = 7 then u.st ||| 0x80#8 else u.st,
                                       out := u.out.set i { p with held := p.held ++ [r.v] } }).rowsGo n k i fuel
      | _ => s

/-- The words of a header read once each by a thread (R312, R360): the state after it, and the words, or the cause, PCAUSE and address of
the first that is poisoned or does not translate. -/
def State.headerRead (s : State) (q va : Nat) : Nat → State × Except (Nat × Nat × Nat) (List Word)
  | 0 => (s, .ok [])
  | k + 1 =>
    match s.paged q va rRD with
    | .error c => (s, .error (c, 0, va))
    | .ok l =>
      let r := s.memRead q l 8
      if r.bad ≠ 0 then (r.s, .error (cPOISON, r.bad, va))
      else match r.s.headerRead q (va + 8) k with
        | (x, .ok ws) => (x, .ok (W r.v :: ws))
        | e => e

/-- The lines of a range stall. -/
def State.rangeStall (s : State) (q a n : Nat) : Bool :=
  (List.range ((a % 64 + n + 63) / 64)).any fun i => s.engStall q (a / 64 * 64 + 64 * i)

/-- The access of outstanding instruction `i` performs at its memory, if it may (R239, R241, R245). -/
def State.performOut (s : State) (n k i : Nat) : State :=
  let t := s.thrAt n k
  match t.out[i]? with
  | none => s
  | some p =>
    if p.perf.isSome ∨ !t.acquired p.seq ∨ !t.inOrder p.seq p.act.locs then s
    else if p.act.locs.any (fun l => s.locStall l) then p.act.locs.foldl State.demandLoc s
    else if (match p.act with | .load l _ _ _ _ _ => !t.inPlace l (i + 1 == t.out.length) | .cons l _ _ => !t.inPlace l (i + 1 == t.out.length) | .atom l _ _ _ _ _ _ _ _ => !t.inPlace l (i + 1 == t.out.length) | _ => false) then s
    else match p.act with
    | .ret _ _ => s
    | .load (.peer _ _ _) _ _ _ _ _ => s
    | .load l m sg _ _ _ =>
      let r := s.memRead t.part l m
      (r.s.charge (n / 64) t.part p.addr.toNat m).answer n k i (extend m sg r.v) r.bad
    | .cons (.hbm a) _ _ =>
      let x := s.openLine (s.keyOf t.part) a
      if x.lineBad a then
        let r := (x.dropSync a n k p.seq false).hbmRead t.part a 8
        (r.s.charge (n / 64) t.part p.addr.toNat 8).answer n k i (W r.v) r.bad
      else match x.syncGo a n k p.seq false with
        | (y, false) => y
        | (y, true) =>
          let r := y.hbmRead t.part a 8
          ((r.s.setFe a false).charge (n / 64) t.part p.addr.toNat 8).answer n k i (W r.v) r.bad
    | .cons _ _ _ => s
    | .atom (.peer _ _ _) _ _ _ _ _ _ _ _ => s
    | .atom l m o v w _ _ rel sc =>
      if rel ∧ !t.released (n / 64) sc p.seq then s
      else
        let r := s.atomic t.part l m o v.toNat w.toNat
        (r.s.charge (n / 64) t.part p.addr.toNat m).answer n k i (W r.v) r.bad
    | .rows ls _ _ _ => s.rowsGo n k i (ls.length + 1)
    | .mbc tag _ => s.answer n k i (tget (fun _ => 0#64) (s.cellAt n).mbc tag) 0
    | .bar (.peer _ _ _) _ _ => s
    | .bar l _ _ =>
      let r := s.memRead t.part l 8
      (r.s.charge (n / 64) t.part p.addr.toNat 8).answer n k i (W r.v) r.bad
    | .wmark ch _ => s.answer n k i (s.reg 9 (n / 64) (0x20 + 0x40 * ch)) 0
    | .elem _ _ _ _ _ _ => s
    | .phase _ _ => s
    | .msg _ _ => s
    | .mget => s
    | .priv _ _ => s
    | .back _ => s
    | .append sc ring len _ h =>
      if !h.isEmpty ∨ !t.released (n / 64) sc p.seq ∨ s.rangeStall t.part p.addr.toNat (8 * len) then s
      else
        let x := s.chargeRange (n / 64) t.part p.addr.toNat (8 * len)
        match x.headerRead t.part p.addr.toNat len with
        | (y, .error (c, pc, a)) =>
          (y.setThrAt n k { y.thrAt n k with out := (y.thrAt n k).out.set i { p with faddr := W a } }).lateTrap n k i c pc
        | (y, .ok ws) => y.setThrAt n k { y.thrAt n k with out := (y.thrAt n k).out.set i { p with act := .append sc ring len y.cycle ws } }

/-- Outstanding instruction `i` completes (R171, R181): its results are written, its destinations become full. -/
def State.completeOut (s : State) (n k i : Nat) : State :=
  match (s.thrAt n k).out[i]? with
  | none => s
  | some p =>
    match p.late with
    | some (c, pc) =>
      let away : Bool := match (s.thrAt n k).site with | .peer _ => true | _ => false
      if away || (s.thrAt n k).stop.isSome then s else s.lateTrap n k i c pc
    | none =>
      match p.act, p.perf with
      | .ret ws fl, _ => s.deliver n k i ws fl.toNat
      | _, some v => s.deliver n k i (match p.dst with | some d => [.scalar d v] | none => []) 0
      | _, none => s

end Sys2Proof.Machine
end

