-- ==== Sys2Proof/Machine/Alu.lean ====
section
/-! DEFINITION. The integer arithmetic of the A slot (spec/14 R295 to R297), the compares (spec/13 R278, R279) and the
full/empty operations (spec/14 R301, R302). -/
namespace Sys2Proof.Machine

/-- Quotient, truncated toward zero; by zero all ones (R295). -/
def aluDiv (a b : Word) : Word := if b = 0#64 then BitVec.allOnes 64 else a.sdiv b

/-- Unsigned quotient; by zero all ones (R295). -/
def aluDivu (a b : Word) : Word := if b = 0#64 then BitVec.allOnes 64 else a / b

/-- Remainder with the sign of `a`; by zero `a` (R295). -/
def aluRem (a b : Word) : Word := if b = 0#64 then a else a.srem b

/-- Unsigned remainder; by zero `a` (R295). -/
def aluRemu (a b : Word) : Word := if b = 0#64 then a else a % b

/-- Bits [127:64] of the signed product (R295). -/
def aluMulh (a b : Word) : Word := (BitVec.ofInt 128 (a.toInt * b.toInt)).extractLsb' 64 64

/-- Bits [127:64] of the unsigned product (R295). -/
def aluMulhu (a b : Word) : Word := (BitVec.ofNat 128 (a.toNat * b.toNat)).extractLsb' 64 64

/-- A shift or rotate count: b[5:0] (R295). -/
def shCount (b : Word) : Nat := b.toNat % 64

/-- Leading zero bits (R295). -/
def aluClz (a : Word) : Word := W (64 - bitLen a.toNat)

/-- Trailing zeros among the low `n` bits. -/
def ctzGo : Nat → Nat → Nat
  | 0, _ => 0
  | n + 1, v => if v % 2 = 1 then 0 else 1 + ctzGo n (v / 2)

/-- Ones among the low `n` bits. -/
def popGo : Nat → Nat → Nat
  | 0, _ => 0
  | n + 1, v => v % 2 + popGo n (v / 2)

/-- The bytes of a word in reverse order (R295). -/
def aluBswap (a : Word) : Word :=
  a.extractLsb' 0 8 ++ a.extractLsb' 8 8 ++ a.extractLsb' 16 8 ++ a.extractLsb' 24 8 ++
  a.extractLsb' 32 8 ++ a.extractLsb' 40 8 ++ a.extractLsb' 48 8 ++ a.extractLsb' 56 8

/-- A mask of the low `w` bits, `w` up to 64. -/
def lowMask (w : Nat) : Word := W (2 ^ w - 1)

/-- bext (R295): field `w` is FN, one below the width. -/
def aluBext (a b : Word) (w : BitVec 6) : Word := (a >>> shCount b) &&& lowMask (w.toNat + 1)

/-- bins (R295). -/
def aluBins (d a b : Word) (w : BitVec 6) : Word :=
  let m := lowMask (w.toNat + 1) <<< shCount b
  (d &&& ~~~m) ||| ((a <<< shCount b) &&& m)

/-- a[n:0] sign-extended (R295). -/
def aluSext (a : Word) (n : BitVec 6) : Word := BitVec.ofInt 64 (sInt (n.toNat + 1) a.toNat)

/-- An A-slot operation of one result: sources read, the result written (R293). -/
def State.alu (s : State) (i : Instr) (d : GReg) (f : State → Word) : Host.Outcome State Fault Refusal :=
  s.run i fun s => s.wr d (f s)

/-- ADD. -/
def execAdd (d a b : GReg) (s : State) := s.alu (.add d a b) d fun s => s.rd a + s.rd b
/-- SUB. -/
def execSub (d a b : GReg) (s : State) := s.alu (.sub d a b) d fun s => s.rd a - s.rd b
/-- MUL. -/
def execMul (d a b : GReg) (s : State) := s.alu (.mul d a b) d fun s => s.rd a * s.rd b
/-- MULH. -/
def execMulh (d a b : GReg) (s : State) := s.alu (.mulh d a b) d fun s => aluMulh (s.rd a) (s.rd b)
/-- MULHU. -/
def execMulhu (d a b : GReg) (s : State) := s.alu (.mulhu d a b) d fun s => aluMulhu (s.rd a) (s.rd b)
/-- DIV. -/
def execDiv (d a b : GReg) (s : State) := s.alu (.div d a b) d fun s => aluDiv (s.rd a) (s.rd b)
/-- DIVU. -/
def execDivu (d a b : GReg) (s : State) := s.alu (.divu d a b) d fun s => aluDivu (s.rd a) (s.rd b)
/-- REM. -/
def execRem (d a b : GReg) (s : State) := s.alu (.rem d a b) d fun s => aluRem (s.rd a) (s.rd b)
/-- REMU. -/
def execRemu (d a b : GReg) (s : State) := s.alu (.remu d a b) d fun s => aluRemu (s.rd a) (s.rd b)
/-- AND. -/
def execAnd (d a b : GReg) (s : State) := s.alu (.and d a b) d fun s => s.rd a &&& s.rd b
/-- OR. -/
def execOr (d a b : GReg) (s : State) := s.alu (.or d a b) d fun s => s.rd a ||| s.rd b
/-- XOR. -/
def execXor (d a b : GReg) (s : State) := s.alu (.xor d a b) d fun s => s.rd a ^^^ s.rd b
/-- ANDN. -/
def execAndn (d a b : GReg) (s : State) := s.alu (.andn d a b) d fun s => s.rd a &&& ~~~(s.rd b)
/-- SHL. -/
def execShl (d a b : GReg) (s : State) := s.alu (.shl d a b) d fun s => s.rd a <<< shCount (s.rd b)
/-- SHR. -/
def execShr (d a b : GReg) (s : State) := s.alu (.shr d a b) d fun s => s.rd a >>> shCount (s.rd b)
/-- SRA. -/
def execSra (d a b : GReg) (s : State) := s.alu (.sra d a b) d fun s => (s.rd a).sshiftRight (shCount (s.rd b))
/-- ROL. -/
def execRol (d a b : GReg) (s : State) := s.alu (.rol d a b) d fun s => (s.rd a).rotateLeft (shCount (s.rd b))
/-- ROR. -/
def execRor (d a b : GReg) (s : State) := s.alu (.ror d a b) d fun s => (s.rd a).rotateRight (shCount (s.rd b))
/-- MIN. -/
def execMin (d a b : GReg) (s : State) := s.alu (.min d a b) d fun s => if (s.rd a).toInt ≤ (s.rd b).toInt then s.rd a else s.rd b
/-- MAX. -/
def execMax (d a b : GReg) (s : State) := s.alu (.max d a b) d fun s => if (s.rd a).toInt ≤ (s.rd b).toInt then s.rd b else s.rd a
/-- MINU. -/
def execMinu (d a b : GReg) (s : State) := s.alu (.minu d a b) d fun s => if (s.rd a).toNat ≤ (s.rd b).toNat then s.rd a else s.rd b
/-- MAXU. -/
def execMaxu (d a b : GReg) (s : State) := s.alu (.maxu d a b) d fun s => if (s.rd a).toNat ≤ (s.rd b).toNat then s.rd b else s.rd a
/-- ADDSC. -/
def execAddsc (d a b : GReg) (n : BitVec 6) (s : State) := s.alu (.addsc d a b n) d fun s => s.rd a + (s.rd b <<< n.toNat)
/-- SEL. -/
def execSel (d a b c : GReg) (s : State) := s.alu (.sel d a b c) d fun s => if s.rd c ≠ 0#64 then s.rd a else s.rd b
/-- CLZ. -/
def execClz (d a : GReg) (s : State) := s.alu (.clz d a) d fun s => aluClz (s.rd a)
/-- CTZ. -/
def execCtz (d a : GReg) (s : State) := s.alu (.ctz d a) d fun s => W (ctzGo 64 (s.rd a).toNat)
/-- POPC. -/
def execPopc (d a : GReg) (s : State) := s.alu (.popc d a) d fun s => W (popGo 64 (s.rd a).toNat)
/-- BSWAP. -/
def execBswap (d a : GReg) (s : State) := s.alu (.bswap d a) d fun s => aluBswap (s.rd a)
/-- BEXT. -/
def execBext (d a b : GReg) (w : BitVec 6) (s : State) := s.alu (.bext d a b w) d fun s => aluBext (s.rd a) (s.rd b) w
/-- BINS. -/
def execBins (d a b : GReg) (w : BitVec 6) (s : State) := s.alu (.bins d a b w) d fun s => aluBins (s.rd d) (s.rd a) (s.rd b) w
/-- SEXT. -/
def execSext (d a : GReg) (n : BitVec 6) (s : State) := s.alu (.sext d a n) d fun s => aluSext (s.rd a) n
/-- ADDI. -/
def execAddi (d a : GReg) (i : BitVec 12) (s : State) := s.alu (.addi d a i) d fun s => s.rd a + i.signExtend 64
/-- ANDI. -/
def execAndi (d a : GReg) (i : BitVec 12) (s : State) := s.alu (.andi d a i) d fun s => s.rd a &&& i.signExtend 64
/-- ORI. -/
def execOri (d a : GReg) (i : BitVec 12) (s : State) := s.alu (.ori d a i) d fun s => s.rd a ||| i.signExtend 64
/-- XORI. -/
def execXori (d a : GReg) (i : BitVec 12) (s : State) := s.alu (.xori d a i) d fun s => s.rd a ^^^ i.signExtend 64
/-- SHLI. -/
def execShli (d a : GReg) (i : BitVec 12) (s : State) := s.alu (.shli d a i) d fun s => s.rd a <<< i.toNat
/-- SHRI. -/
def execShri (d a : GReg) (i : BitVec 12) (s : State) := s.alu (.shri d a i) d fun s => s.rd a >>> i.toNat
/-- SRAI. -/
def execSrai (d a : GReg) (i : BitVec 12) (s : State) := s.alu (.srai d a i) d fun s => (s.rd a).sshiftRight i.toNat
/-- MULI. -/
def execMuli (d a : GReg) (i : BitVec 12) (s : State) := s.alu (.muli d a i) d fun s => s.rd a * i.signExtend 64
/-- NOPA (R283). -/
def execNopa (s : State) : Host.Outcome State Fault Refusal := s.run .nopa fun s => s
/-- LDI (R297). -/
def execLdi (x : GReg) (i : BitVec 32) (s : State) := s.alu (.ldi x i) x fun _ => i.signExtend 64
/-- LDIH (R297). -/
def execLdih (x : GReg) (i : BitVec 32) (s : State) := s.alu (.ldih x i) x fun s => i ++ (s.rd x).setWidth 32

/-! ## Compares -/

/-- The condition of cmp and cmpi (R278). -/
def intCond (c : Nat) (a b : Word) : Bool :=
  match c with
  | 0 => a == b
  | 1 => a != b
  | 2 => a.slt b
  | 3 => !a.slt b
  | 4 => a.ult b
  | 5 => !a.ult b
  | 6 => !b.slt a
  | 7 => b.slt a
  | 8 => !b.ult a
  | 9 => b.ult a
  | 10 => (a &&& b) != 0#64
  | _ => (a &&& b) == 0#64

/-- A compare's result and its skip (R278, R279): a gang lane annuls on itself alone. -/
def State.compared (s : State) (d : GReg) (k : Nat) (c : Bool) : State :=
  let s := s.wr d (if c then 1#64 else 0#64)
  if c ∧ k ≠ 0 then
    if s.thr.lanes.isEmpty then s.setThr { s.thr with npc := s.thr.pc + W (8 * (k + 1)) }
    else s.setThr { s.thr with skip := k }
  else s

/-- CMP. -/
def execCmp (d a b : GReg) (k : BitVec 2) (c : BitVec 4) (s : State) :=
  s.run (.cmp d a b k c) fun s => s.compared d k.toNat (intCond c.toNat (s.rd a) (s.rd b))
/-- CMPI. -/
def execCmpi (d a : GReg) (i : BitVec 6) (k : BitVec 2) (c : BitVec 4) (s : State) :=
  s.run (.cmpi d a i k c) fun s => s.compared d k.toNat (intCond c.toNat (s.rd a) (i.signExtend 64))
/-- FCMP. -/
def execFcmp (d a b : GReg) (k : BitVec 2) (c : BitVec 4) (s : State) :=
  s.run (.fcmp d a b k c) fun s => s.compared d k.toNat
    (fcond c.toNat (fdecode fp32 ((s.rd a).toNat % 2 ^ 32)) (fdecode fp32 ((s.rd b).toNat % 2 ^ 32)))
/-- FCMPD. -/
def execFcmpd (d a b : GReg) (k : BitVec 2) (c : BitVec 4) (s : State) :=
  s.run (.fcmpd d a b k c) fun s => s.compared d k.toNat
    (fcond c.toNat (fdecode fp64 (s.rd a).toNat) (fdecode fp64 (s.rd b).toNat))

/-! ## Full/empty operations -/

/-- A register emptied: the oldest fill held for it is written at once, and it is full again (R179, R302). -/
def State.emptied (s : State) (r : Nat) : State :=
  let s := s.setFull r false
  match s.cell.fills.find? (fun f => f.slot == s.cur && f.reg == r && s.thr.site == .home) with
  | none => s
  | some f => (s.setCell s.turn { s.cell with fills := s.cell.fills.erase f }).wrN r f.v

/-- Whether a register is full as the bundle sees it at issue (R281, R301). -/
def State.fullAtIssue (s : State) (r : Nat) : Bool :=
  match s.thr.latch with
  | some l => tget (fun _ => if s.isFull r then 1#64 else 0#64) l (64 + r) == 1#64
  | none => s.isFull r

/-- TAKE. -/
def execTake (d a : GReg) (s : State) := s.run (.take d a) fun s => (s.emptied a.toNat).wr d (s.rd a)
/-- MKEMPTY. -/
def execMkempty (d : GReg) (s : State) := s.run (.mkempty d) fun s => s.emptied d.toNat
/-- MKFULL. -/
def execMkfull (d : GReg) (s : State) := s.run (.mkfull d) fun s => s.setFull d.toNat true
/-- ISFULL. -/
def execIsfull (d a : GReg) (s : State) := s.run (.isfull d a) fun s => s.wr d (if s.fullAtIssue a.toNat then 1#64 else 0#64)

end Sys2Proof.Machine
end

