-- ==== Sys2Proof/Machine/Bar.lean ====
section
/-! DEFINITION. The BAR0 register space (spec/06 R115, R117; spec/00 R6; spec/01 R18): blocks and their registers' fields by
access, the refusal of a write, and the storing of a write's fields. Register tables: R17, R43, R73, R96, R119, R125,
R151, R168, R230, R270, R271, R315. -/
namespace Sys2Proof.Machine

/-- Bits [hi:lo] set. -/
def bits (hi lo : Nat) : Nat := 2 ^ (hi + 1) - 2 ^ lo

/-- The named bits of a register by access: read only, read and write, write one to clear, write only. -/
structure RegMask where
  ro : Nat
  rw : Nat
  w1c : Nat
  wo : Nat
  deriving DecidableEq, Repr

/-- A read-only register. -/
def mRO (m : Nat) : Option RegMask := some { ro := m, rw := 0, w1c := 0, wo := 0 }
/-- A register of read and write fields. -/
def mRW (m : Nat) : Option RegMask := some { ro := 0, rw := m, w1c := 0, wo := 0 }
/-- A register with fields of every access. -/
def mAll (ro rw w1c wo : Nat) : Option RegMask := some { ro := ro, rw := rw, w1c := w1c, wo := wo }
/-- All 64 bits. -/
def m64 : Nat := 2 ^ 64 - 1

/-- The service registers (R17, R18). -/
def regs1 (o : Nat) : Option RegMask :=
  if o < 0x200 then mRO (bits 16 0)
  else if o < 0x240 then mAll (bits 12 8 + 8) 0 7 0
  else if 0x400 ≤ o ∧ o < 0x480 then mRO (bits 18 0)
  else match o with
    | 0x280 => mRO (bits 23 0)
    | 0x300 => mRW 7
    | 0x308 => mRW (bits 15 0)
    | 0x310 => mRO (bits 15 0)
    | 0x318 => mAll 1 0 6 0
    | 0x500 => mAll 0 0 (bits 12 1) 0
    | 0x508 => mAll (bits 26 0) 0 (2 ^ 31) 0
    | _ => none

/-- The stack registers (R43, R44). -/
def regs2 (o : Nat) : Option RegMask :=
  let r := o % 0x1000
  if 0x10 ≤ r ∧ r ≤ 0x38 then mRW (bits 39 12)
  else if 0x100 ≤ r ∧ r < 0x200 then (if r % 16 = 0 then mRO (bits 39 6 + 7) else mRO (bits 63 32 + bits 7 0))
  else if 0x200 ≤ r ∧ r < 0x400 then mRO m64
  else match r with
    | 0 => mAll 0 0 0 3
    | 8 => mAll 0x17 0 8 0
    | 0x40 => mRO (bits 31 0)
    | 0x48 => mRO (bits 31 0)
    | 0x50 => mAll (bits 12 8) 0xF 0 0
    | _ => none

/-- The fabric registers (R73). -/
def regs3 (o : Nat) : Option RegMask :=
  if 0x1000 ≤ o ∧ o < 0x1000 + 0x20 * 96 then
    match o % 0x20 with
    | 0 => mAll 0 1 0 2
    | 8 => mAll 0x5F 0 0x20 0
    | 0x10 => mRO m64
    | _ => none
  else match o with
    | 0 => mRW (bits 23 8 + 1)
    | 8 => mRW (bits 31 16 + bits 11 0)
    | 0x10 => mRW (bits 10 0)
    | 0x18 => mRW m64
    | 0x20 => mRW m64
    | 0x28 => mAll 4 0 0 3
    | 0x30 => mRO m64
    | 0x38 => mRO m64
    | 0x40 => mRO m64
    | 0x48 => mRW (bits 56 21 + 1)
    | _ => none

/-- The join and gossip registers of a die (R96). -/
def regs4 (o : Nat) : Option RegMask :=
  if o < 0x200 then
    match o % 0x40 with
    | 0 => mRW (bits 56 12 + bits 4 0)
    | 8 => mRW (bits 56 12 + bits 4 0)
    | 0x10 => mRW (bits 15 8 + 1)
    | 0x20 => mRO m64
    | 0x28 => mRO m64
    | 0x30 => mRO m64
    | _ => none
  else if o = 0x400 then mRO m64 else none

/-- The partition controls (R119). -/
def regs5 (o : Nat) : Option RegMask :=
  if o < 0x200 then
    match o % 0x40 with
    | 0 => mAll 2 (bits 15 8 + 0x31) 0 0
    | 8 => mAll 1 0 0xE 0
    | 0x10 => mRW (bits 56 19 + 1)
    | 0x18 => mRW (2 ^ 16 + bits 13 0)
    | 0x20 => mRW (bits 56 11)
    | 0x28 => mRW (bits 56 11)
    | _ => none
  else if o = 0x400 then mRW (bits 11 0) else none

/-- The mailbox (R125). -/
def regs6 (o : Nat) : Option RegMask :=
  match o with
  | 0 => mAll 0 0 0 0xFF
  | 8 => mRW m64
  | 0x10 => mRW (bits 31 0)
  | 0x18 => mAll (bits 23 8 + 1) 0 2 0
  | _ => none

/-- The telemetry counters (R270). -/
def regs7 (o : Nat) : Option RegMask :=
  if o < 0x80000 then (if o % 0x400 ≤ 0x288 then mRO m64 else none)
  else if o = 0x80200 then mAll 0 2 0 1
  else if o < 0x80200 ∧ (o % 0x40 = 0 ∨ o % 0x40 = 8) then mRO m64 else none

/-- The scheduler registers of a die (R151). -/
def regs8 (o : Nat) : Option RegMask :=
  match o with
  | 0 => mRW m64
  | 8 => mAll 0 0 0 3
  | 0x10 => mAll (bits 63 32 + 0x10F) 0 0x200 0
  | 0x18 => mRW (bits 56 12 + bits 5 0)
  | 0x20 => mRO m64
  | 0x28 => mRO m64
  | 0x30 => mRO (bits 63 32 + bits 7 0)
  | _ => none

/-- The copy-engine registers of a die (R168). -/
def regs9 (o : Nat) : Option RegMask :=
  if o < 0x600 then
    match o % 0x40 with
    | 0 => mAll 0 (bits 11 9 + 1) 0 2
    | 8 => mRW (bits 56 8 + 1)
    | 0x10 => mRO (bits 56 8 + 1)
    | 0x18 => mAll (bits 15 8 + 0xF) 0 0x10 0
    | 0x20 => mRO (bits 56 0)
    | 0x28 => mRW (bits 56 0)
    | 0x30 => mRW (bits 56 0)
    | _ => mRO m64
  else if o = 0x800 then mRO m64 else none

/-- The translation registers (R230). -/
def regs10 (o : Nat) : Option RegMask :=
  if 0x200 ≤ o then none
  else match o % 0x40 with
    | 0 => mRW (bits 39 20 + 1)
    | 8 => mRW (bits 39 21)
    | 0x10 => mRW (bits 31 16 + 1)
    | 0x18 => mRW (bits 56 16 + 3)
    | 0x20 => mRW (bits 63 57 + bits 54 16)
    | 0x28 => mAll 0 0 0 7
    | 0x30 => mAll 0x10F 0 0x200 0
    | _ => mRO m64

/-- The trap and debug registers (R271). -/
def regs11 (o : Nat) : Option RegMask :=
  if o < 0x800 then
    let r := o % 0x100
    if 0x40 ≤ r then
      match (r - 0x40) % 0x18 with
      | 0 => mRW (bits 56 0)
      | 8 => mRW 0xFF
      | _ => mRW m64
    else match r with
      | 0 => mRW 1
      | 8 => mRW (bits 56 12 + bits 4 0)
      | 0x10 => mRO m64
      | 0x18 => mAll 0x100 0 0x200 1
      | 0x20 => mRW (bits 56 21)
      | 0x28 => mRW m64
      | 0x30 => mAll 0x101 0 0x200 0
      | _ => none
  else if 0xA00 ≤ o ∧ o < 0xC00 then
    match o % 0x40 with
    | 0 => mRW (bits 56 12 + bits 4 0)
    | 8 => mRO m64
    | 0x10 => mRO m64
    | 0x18 => mRO (2 ^ 63 + bits 39 0)
    | _ => none
  else if 0xC00 ≤ o ∧ o < 0xC00 + 8 * 48 then mRO (2 ^ 63 + bits 39 0)
  else match o with
    | 0x800 => mAll 0 1 2 0
    | 0x808 => mAll 8 0 0 7
    | 0x810 => mRW (bits 39 0)
    | 0x818 => mRW (bits 8 4 + 3)
    | 0x820 => mRW m64
    | 0x828 => mRW m64
    | _ => none

/-- The named bits of the register at an 8-byte aligned offset of a block; nothing where the offset names none. -/
def regMask (b o : Nat) : Option RegMask :=
  match b with
  | 1 => regs1 o | 2 => regs2 o | 3 => regs3 o | 4 => regs4 o | 5 => regs5 o | 6 => regs6 o | 7 => regs7 o
  | 8 => regs8 o | 9 => regs9 o | 10 => regs10 o | 11 => regs11 o
  | 12 => if o < 0x40 then mRW 3 else none
  | _ => none

/-- The block that covers a BAR0 offset: id, instance and offset in it (R115, R117). -/
def State.blockAt (s : State) (off : Nat) : Option (Nat × Nat × Nat) :=
  (s.caps.find? fun c => decide (c.base ≤ off) && decide (off < c.base + c.size)).map fun c => (c.id, c.inst, off - c.base)

/-- The BAR0 offset of a register. -/
def State.barOff (s : State) (b i o : Nat) : Nat :=
  ((s.caps.find? fun c => c.id == b && c.inst == i).map (·.base)).getD 0 + o

/-- PARTSTAT of a partition changed: vector 2 + q (R116). DEDUCED, log 61. -/
def State.raisePart (s : State) (q : Nat) : State := { s with msix := s.msix ||| (1#16 <<< (2 + q)) }

/-- A bit of PARTSTAT set; a change raises the partition's vector (R116, R119). -/
def State.partStat (s : State) (q bit : Nat) : State :=
  if s.fld 5 0 (0x40 * q + 8) bit 1 = 1 then s else (s.setFld 5 0 (0x40 * q + 8) bit 1 1).raisePart q

/-- A refused or ignored write recorded in REGERR and REGERRA (R18). -/
def State.recordRefusal (s : State) (b i o : Nat) : State :=
  (s.setFld 1 0 0x500 b 1 1).setReg 1 0 0x508 (W (2 ^ 31 + s.barOff b i o % 2 ^ 27))

/-- A reserved-bit write (R6): refused as a whole, recorded, and the block's own error bit set where its description
covers such a write. -/
def State.refuse (s : State) (b i o : Nat) : State :=
  let s1 := s.recordRefusal b i o
  if b = 2 then s1.setFld 2 0 (o / 0x1000 * 0x1000 + 8) 3 1 1
  else if b = 5 ∧ o < 0x200 ∧ o % 0x40 = 0 then s1.partStat (o / 0x40) 1
  else s1

/-- A code that a field's description calls a reserved-bit write (R17, R96, R151, R271). -/
def codeBad (b o : Nat) (v : Word) : Bool :=
  let l := bf v 0 5
  match b with
  | 1 => o == 0x300 && bf v 1 1 == 1
  | 4 => o < 0x200 && ((o % 0x40 == 0 && decide (20 < l)) || (o % 0x40 == 8 && decide (16 < l)))
  | 8 => o == 0x18 && bf v 5 1 == 1 && (decide (l < 4) || decide (20 < l))
  | 11 =>
    (o < 0x800 && o % 0x100 == 8 && (decide (l < 2) || decide (12 < l))) ||
    (o < 0x800 && decide (0x40 ≤ o % 0x100) && (o % 0x100 - 0x40) % 0x18 == 8 && (bf v 6 2 == 3 || bf v 3 1 == 1)) ||
    (decide (0xA00 ≤ o) && decide (o < 0xC00) && o % 0x40 == 0 && (decide (l < 4) || decide (24 < l)))
  | _ => false

/-- A write sets a bit that is reserved in the register, or a reserved code (R6). DEDUCED, log 66: the upper half of an 8-byte
write to a 32-bit register counts as reserved bits. DESIGN CHOICE, log 66: ones written to a read-only field that is not reserved are dropped, and
nothing is recorded; R18 does not say which it is. -/
def writeBad (b o : Nat) (v : Word) : Bool :=
  match regMask b o with
  | none => v != 0#64
  | some m => (v.toNat &&& (m.ro ||| m.rw ||| m.w1c ||| m.wo)) != v.toNat || codeBad b o v

/-- The fields of an accepted write stored: RW fields take the value, W1C fields written one clear (R6). -/
def State.storeReg (s : State) (b i o : Nat) (v : Word) : State :=
  match regMask b o with
  | none => s
  | some m =>
    let old := s.reg b i o
    let rw := W m.rw
    s.setReg b i o (((old &&& ~~~rw) ||| (v &&& rw)) &&& ~~~(v &&& W m.w1c))

end Sys2Proof.Machine
end

