-- ==== Sys2Proof/Machine/Packets.lean ====
section
/-! DEFINITION. Sending packets (spec/03 R57 to R62): the stream that numbers and keeps a packet, and the requests of a
thread's peer accesses. -/
namespace Sys2Proof.Machine

/-- A stream that has sent nothing: number 0 first (DESIGN CHOICE, log 8). -/
def TxStream.init : TxStream :=
  { opened := false, next := 0#16, base := 0#16, unacked := [], waiting := [], again := [], resends := 0 }

/-- A receiver that holds no state of a stream (R59). -/
def RxStream.init : RxStream := { nonce := none, exp := 0#16, map := 0#64 }

/-- The sending stream to a device in a class (R57). -/
def State.txOf (s : State) (dev : Nat) (user : Bool) : TxStream := tget (fun _ => TxStream.init) s.tx (2 * dev + user.toNat)

/-- The state with a sending stream set. -/
def State.setTx (s : State) (dev : Nat) (user : Bool) (x : TxStream) : State := { s with tx := tput s.tx (2 * dev + user.toNat) x }

/-- The receiving stream from a device. -/
def State.rxOf (s : State) (dev : Nat) (user : Bool) : RxStream := tget (fun _ => RxStream.init) s.rx (2 * dev + user.toNat)

/-- The state with a receiving stream set. -/
def State.setRx (s : State) (dev : Nat) (user : Bool) (x : RxStream) : State := { s with rx := tput s.rx (2 * dev + user.toNat) x }

/-- A packet of this device with no descriptor and no payload (R60). -/
def State.blank (s : State) (kind len dev : Nat) (user : Bool) : Packet :=
  { seq := 0#16, kind := BitVec.ofNat 8 kind, len := BitVec.ofNat 6 (len - 1), ddie := 0#3, sdie := 0#3,
    ddev := BitVec.ofNat 11 dev, sdev := BitVec.ofNat 11 s.devId, via := 0#11, nm := false, ph := false, budget := 0#3,
    hop := 0#3, user := user, poison := false, cause := 0#4, ks := 0#45, desc := none, pay := [] }

/-! ## Ports and routes -/

/-- A port at reset. -/
def Port.init : Port :=
  { replay := [], replayEnd := none, nextSeq := 0#12, want := 0#12, gap := false, reqs := 0, lastReq := 0#12, asked := 0,
    err0 := 0, err1 := 0, out0 := false, out1 := false, switching := false, sent := [], freed := [], reported := [], got := [],
    recredit := false, bulkQ := [], userQ := [], inbox := [], sending := none, paused := none, gossipSent := 0, bulkSent := 0, rewidening := false, pendAt := 0, wire := [] }

/-- Port `p`. -/
def State.portAt (s : State) (p : Nat) : Port := tget (fun _ => Port.init) s.ports p

/-- The state with a port set. -/
def State.setPort (s : State) (p : Nat) (x : Port) : State := { s with ports := tput s.ports p x }

/-- PSTAT.STATE of a port (R73): 0 down, 1 training, 2 up, 3 up on one lane. -/
def State.pstate (s : State) (p : Nat) : Nat := s.fld 3 0 (0x1008 + 0x20 * p) 0 2

/-- A port is up. -/
def State.portUp (s : State) (p : Nat) : Bool := decide (2 ≤ s.pstate p)

/-- Flits of a packet (R60). -/
def pktFlits (p : Packet) : Nat := p.len.toNat + 1

/-- The virtual channel that a packet occupies at the next router (R67). -/
def pktVc (p : Packet) : Nat := p.hop.toNat - 1

/-- The value of bulk virtual channel `v` in a table of counters. -/
def vcGet (t : Tab (BitVec 48)) (v : Nat) : BitVec 48 := tget (fun _ => 0#48) t v

/-- A packet taken out of the place that holds it: those for the device itself, or the receive buffer of a port, whose
slots a bulk packet frees (R54). -/
def State.takePacket (s : State) (p : Packet) : State :=
  if s.outbox.contains p then { s with outbox := s.outbox.erase p }
  else match s.ports.find? fun e => e.2.inbox.contains p with
    | none => s
    | some (n, x) =>
      let v := pktVc p
      s.setPort n { x with inbox := x.inbox.erase p,
                           freed := if p.user then x.freed else tput x.freed v (vcGet x.freed v + BitVec.ofNat 48 (pktFlits p)) }

/-- Flits queued at a port for a class at a virtual channel. -/
def Port.queued (x : Port) (user : Bool) (vc : Nat) : Nat :=
  ((if user then x.userQ else x.bulkQ).filterMap fun p => if pktVc p = vc then some (pktFlits p) else none).sum

/-- A route entry (R65). -/
def State.route (s : State) (dev : Nat) : BitVec 128 := tget (fun _ => 0#128) s.routes dev

/-- MVALID of a route entry. -/
def rtValid (e : BitVec 128) : Bool := e.getLsbD 7
/-- DIRECT. -/
def rtDirect (e : BitVec 128) : Bool := e.getLsbD 6
/-- HOP1. -/
def rtHop (e : BitVec 128) : Nat := e.toNat % 64
/-- NMCNT. -/
def rtNm (e : BitVec 128) : Nat := e.toNat / 2 ^ 8 % 16
/-- VIAk. -/
def rtVia (e : BitVec 128) (k : Nat) : Nat := e.toNat / 2 ^ (12 + 11 * k) % 2 ^ 11

/-- The up port of the pair towards neighbour `j` with fewer queued flits, the even one on a tie (R66). -/
def State.pairPort (s : State) (j : Nat) (user : Bool) (vc : Nat) : Option Nat :=
  let a := 2 * j
  let b := 2 * j + 1
  match s.portUp a, s.portUp b with
  | true, true => if (s.portAt b).queued user vc < (s.portAt a).queued user vc then some b else some a
  | true, false => some a
  | false, true => some b
  | false, false => none

/-- The load of the pair towards neighbour `j`: the lower queued-flit count at virtual channel 0 (R66). -/
def State.pairLoad (s : State) (j : Nat) (user : Bool) : Nat :=
  min ((s.portAt (2 * j)).queued user 0) ((s.portAt (2 * j + 1)).queued user 0)

/-- The usable non-minimal paths to a device: VIAk, its first hop and its cost (R65, R66). -/
def State.viaPaths (s : State) (dev : Nat) (user : Bool) : List (Nat × Nat × Nat) :=
  let e := s.route dev
  (List.range (min (rtNm e) 8)).filterMap fun k =>
    let v := rtVia e k
    let h := rtHop (s.route v)
    if v = dev ∨ v = s.devId ∨ !rtValid (s.route v) ∨ (s.pairPort h user 0).isNone then none
    else some (v, h, 4 * s.pairLoad h user)

/-- The path with the lowest cost, the first on ties. -/
def cheapest : List (Nat × Nat × Nat) → Option (Nat × Nat × Nat)
  | [] => none
  | x :: r => match cheapest r with
    | none => some x
    | some y => if y.2.2 < x.2.2 then some y else some x

/-- ROUTE_SELECT (R66): the packet with its path fields and the neighbour it leaves by; none where no path is usable. -/
def State.routeSelect (s : State) (p : Packet) : Option (Packet × Nat) :=
  let dev := p.ddev.toNat
  let e := s.route dev
  let hops := if rtDirect e then 1 else 2
  let minOk := rtValid e && (s.pairPort (rtHop e) p.user 0).isSome
  let vias := s.viaPaths dev p.user
  let best := cheapest vias
  let useMin := minOk && (s.fld 3 0 0 0 1 == 0 || match best with
    | none => true
    | some b => decide (hops * s.pairLoad (rtHop e) p.user ≤ b.2.2 + s.fld 3 0 0 16 8))
  if useMin then some ({ p with budget := BitVec.ofNat 3 (hops - 1), hop := 1#3, nm := false, ph := false, via := 0#11 }, rtHop e)
  else match best with
    | some (v, h, _) => some ({ p with budget := 3#3, hop := 1#3, nm := true, ph := false, via := BitVec.ofNat 11 v }, h)
    | none => none

/-- A packet queued at the port of the pair towards a neighbour. -/
def State.enqueue (s : State) (p : Packet) (j : Nat) : State :=
  match s.pairPort j p.user (pktVc p) with
  | none => s
  | some n =>
    let x := s.portAt n
    s.setPort n (if p.user then { x with userQ := x.userQ ++ [p] } else { x with bulkQ := x.bulkQ ++ [p] })

/-- A packet injected: to the device itself it does not enter the fabric (R65); without a usable path it is not sent, and a
bulk packet is counted in DROPCNT (R66). -/
def State.launchPkt (s : State) (p : Packet) : State :=
  if p.ddev.toNat = s.devId then { s with outbox := s.outbox ++ [p] }
  else match s.routeSelect p with
    | some (q, j) => s.enqueue q j
    | none => if p.user then s else s.bump 3 0 0x30 0 64 1

/-- A device can be reached by some path. -/
def State.reachable (s : State) (dev : Nat) (user : Bool) : Bool :=
  dev == s.devId || (s.routeSelect (s.blank 0x10 1 dev user)).isSome

/-! ## Streams -/

/-- A packet outside the stream numbering: ACK, NAK, SYN, RESYNC (R57, R59). -/
def State.emitCtl (s : State) (p : Packet) : State := s.launchPkt p

/-- A SYN with the own boot nonce and an initial number (R59). -/
def State.emitSyn (s : State) (dev : Nat) (user : Bool) (i : BitVec 16) : State :=
  s.emitCtl { s.blank 0x03 1 dev user with seq := i, pay := [s.nonce] }

/-- A packet numbered, kept until it is acknowledged, and handed to the ports; the first opens the stream with a SYN (R57 to
R59). DESIGN CHOICE, log 15. -/
def State.emitNow (s : State) (p : Packet) : State :=
  let d := p.ddev.toNat
  let x := s.txOf d p.user
  let s := if x.opened then s else s.emitSyn d p.user x.next
  let p := { p with seq := x.next }
  (s.setTx d p.user { x with opened := true, next := x.next + 1#16, unacked := x.unacked ++ [p] }).launchPkt p

/-- Bytes that the end-to-end retransmit buffer of fabric die `f` holds, for its two compute dies (R58). -/
def State.kept (s : State) (f : Nat) : Nat :=
  (s.tx.map fun e => ((e.2.unacked.filter fun p => p.sdie.toNat / 2 == f).map fun p => 64 * pktFlits p).sum).sum

/-- The stream to a device holds 64 unacknowledged packets, or packets that wait for room (R58). -/
def State.windowFull (s : State) (dev : Nat) (user : Bool) : Bool :=
  decide (64 ≤ (s.txOf dev user).unacked.length) || !(s.txOf dev user).waiting.isEmpty

/-- A packet of compute die `d` of some flits finds the stream window or the 4 MiB buffer full (R58). -/
def State.noRoom (s : State) (d dev : Nat) (user : Bool) (flits : Nat) : Bool :=
  s.windowFull dev user || decide (2 ^ 22 < s.kept (d / 2) + 64 * flits)

/-- A packet handed to its stream: sent where there is room, otherwise it waits for room in order (R58; DESIGN CHOICE, log
15). -/
def State.emit (s : State) (p : Packet) : State :=
  let x := s.txOf p.ddev.toNat p.user
  if s.noRoom p.sdie.toNat p.ddev.toNat p.user (pktFlits p) then s.setTx p.ddev.toNat p.user { x with waiting := x.waiting ++ [p] }
  else s.emitNow p

/-- Up to a number of the packets that wait on a stream sent, as far as there is room (R58). -/
def State.refill (s : State) (dev : Nat) (user : Bool) : Nat → State
  | 0 => s
  | n + 1 =>
    let x := s.txOf dev user
    match x.waiting with
    | [] => s
    | p :: r =>
      if 64 ≤ x.unacked.length ∨ 2 ^ 22 < s.kept (p.sdie.toNat / 2) + 64 * pktFlits p then s
      else ((s.setTx dev user { x with waiting := r }).emitNow p).refill dev user n

/-- Room made by an acknowledgement taken by the packets that wait: first those of its own stream, then the others' (R58). -/
def State.admitAll (s : State) (dev : Nat) (user : Bool) : State :=
  (s.tx.map (·.1)).foldl (fun s k => s.refill (k / 2) (k % 2 == 1) 64) (s.refill dev user 64)

/-- A packet that a port still has to send: queued, or begun. -/
def State.queuedPkt (s : State) (dev : Nat) (user : Bool) (n : BitVec 16) : Bool :=
  let is := fun (p : Packet) => p.ddev.toNat == dev && p.user == user && p.seq == n && decide (2 < p.kind.toNat) && p.sdev.toNat == s.devId
  s.ports.any fun e => e.2.userQ.any is || e.2.bulkQ.any is || ((e.2.sending.or e.2.paused).map fun q => is q.1).getD false || (e.2.paused.map fun q => is q.1).getD false

/-- The 16 bytes of a packet header as two words (R60). -/
def hdrWords (p : Packet) : List Word :=
  let h : Nat := p.seq.toNat * 2 ^ 112 + p.kind.toNat * 2 ^ 104 + p.len.toNat * 2 ^ 98 + p.ddie.toNat * 2 ^ 95 + p.sdie.toNat * 2 ^ 92 +
    p.ddev.toNat * 2 ^ 81 + p.sdev.toNat * 2 ^ 70 + p.via.toNat * 2 ^ 59 + p.nm.toNat * 2 ^ 58 + p.ph.toNat * 2 ^ 57 + p.budget.toNat * 2 ^ 54 +
    p.hop.toNat * 2 ^ 51 + p.user.toNat * 2 ^ 50 + p.poison.toNat * 2 ^ 49 + p.cause.toNat * 2 ^ 45 + p.ks.toNat
  [W h, W (h / 2 ^ 64)]

/-- The 24 bytes of an access descriptor as three words (R62). -/
def descWords (x : Desc) : List Word :=
  [W (x.rwin.toNat + 2 ^ 16 * x.group.toNat + 2 ^ 32 * (x.offset.toNat % 2 ^ 32)),
   W (x.offset.toNat / 2 ^ 32 + 2 ^ 8 * (x.sz.toNat + 4 * x.acq.toNat + 8 * x.rel.toNat + 16 * x.sc.toNat) + 2 ^ 16 * x.op.toNat +
      2 ^ 24 * x.slot.toNat + 2 ^ 32 * x.cid.toNat),
   x.mask]

/-- The bytes of words. -/
def wordBytes (ws : List Word) : List Byte := ws.flatMap fun w => (List.range 8).map fun i => w.extractLsb' (8 * i) 8

/-- The word of a packet at which its payload begins (R61): behind the header, behind the descriptor, or at flit 1. -/
def payAt (p : Packet) : Nat :=
  match p.kind.toNat with
  | 0x11 => 8 | 0x12 => 8 | 0x30 => 8 | 0x31 => 8 | 0x34 => 8 | 0x35 => 8
  | 0x14 => 5 | 0x15 => 5 | 0x17 => 5 | 0x20 => 5
  | _ => 2

/-- The words of a packet's flits (R60 to R62); the bytes that it leaves out are zero. -/
def pktWords (p : Packet) : List Word :=
  let l := hdrWords p ++ (match p.desc with | some x => descWords x | none => [])
  let m := l ++ List.replicate (payAt p - l.length) 0#64 ++ p.pay
  m ++ List.replicate (8 * pktFlits p - m.length) 0#64

/-- The access descriptor of an access of the issuing thread (R62). -/
def State.descOf (s : State) (rwin off n : Nat) (acq rel : Bool) (sc op mask : Nat) : Desc :=
  { rwin := BitVec.ofNat 16 rwin, group := BitVec.ofNat 16 (s.fld 3 0 8 16 16), offset := BitVec.ofNat 40 off,
    sz := BitVec.ofNat 2 (match n with | 1 => 0 | 2 => 1 | 4 => 2 | _ => 3), acq := acq, rel := rel, sc := BitVec.ofNat 2 sc,
    op := BitVec.ofNat 4 op, slot := BitVec.ofNat 4 s.cur, cid := BitVec.ofNat 6 s.turn, mask := BitVec.ofNat 64 mask,
    zeroOk := true }

/-- The byte mask of `n` bytes at an offset of a line. -/
def lineMask (off n : Nat) : Nat := (2 ^ n - 1) * 2 ^ (off % 64)

/-- A request without a usable path completes with a poisoned response of cause UNREACH (R66): the posted access, or the
outstanding one, that the thread issued last. -/
def State.unreach (s : State) (posted : Bool) : State :=
  let t := s.thr
  if posted then s.setThr { t with posted := t.posted.modify (t.posted.length - 1) fun p => { p with performed := true, bad := 8 } }
  else s.setThr { t with out := t.out.modify (t.out.length - 1) fun p => { p with late := some (cPOISON, 8) } }

/-- The die from which the issuing agent sends: its home die, for a context of another device the die where it stands. -/
def State.sendDie (s : State) : Nat :=
  if s.turn < 512 then s.dieNo
  else match s.thr.site with
    | .dahlia k _ => k / 2
    | _ => 0

/-- A peer request packet of an agent at the issuing cell (R61, R62). -/
def State.reqPkt (s : State) (kind len dev rwin off n : Nat) (acq rel : Bool) (sc op mask : Nat) (pay : List Word) : Packet :=
  { s.blank kind len dev true with
    sdie := BitVec.ofNat 3 s.sendDie, desc := some (s.descOf rwin off n acq rel sc op mask), pay := pay }

/-- A peer request of the issuing thread (R61, R62, R66). -/
def State.request (s : State) (kind len dev rwin off n : Nat) (acq rel : Bool) (sc op mask : Nat) (pay : List Word) : State :=
  if s.reachable dev true then s.emit (s.reqPkt kind len dev rwin off n acq rel sc op mask pay)
  else s.unreach (kind != 0x10 && kind != 0x15)

/-- The line payload of a WRITE of `n` bytes of `v` (R61). -/
def linePay (off v : Nat) : List Word := (List.range 8).map fun i => if i = off % 64 / 8 then W (v * 2 ^ (8 * (off % 8))) else 0#64

/-- The number of an atomic operation in a descriptor (R62). -/
def AOp.code : AOp → Nat
  | .add => 0 | .and => 1 | .or => 2 | .xor => 3 | .min => 4 | .max => 5 | .minu => 6 | .maxu => 7 | .swp => 8 | .cas => 9

/-- The operation of a number. -/
def AOp.ofCode (n : Nat) : Option AOp :=
  match n with
  | 0 => some .add | 1 => some .and | 2 => some .or | 3 => some .xor | 4 => some .min | 5 => some .max
  | 6 => some .minu | 7 => some .maxu | 8 => some .swp | 9 => some .cas | _ => none

/-! ## Receiving -/

/-- A control packet of a stream to a device: ACK 1, NAK 2 with a number (R57, R61). -/
def State.sendNum (s : State) (kind dev : Nat) (user : Bool) (n : BitVec 16) : State :=
  s.emitCtl { s.blank kind 1 dev user with seq := n }

/-- EXP advanced past every accepted number in a row (R57). -/
def advance : Nat → RxStream → RxStream
  | 0, x => x
  | n + 1, x => if x.map.getLsbD 0 then advance n { x with exp := x.exp + 1#16, map := x.map >>> 1 } else x

/-- An arriving packet of a stream (R57, R59): accepted, or discarded as a duplicate, as one too far ahead, or as one of a
stream without state; with the answer that it gets. -/
def State.accept (s0 : State) (p : Packet) : State × Bool :=
  let s := s0.takePacket p
  let dev := p.sdev.toNat
  let x := s.rxOf dev p.user
  match x.nonce with
  | none => (s.emitCtl { s.blank 0x04 1 dev p.user with pay := [s.nonce] }, false)
  | some _ =>
    let k := (p.seq - x.exp).toNat
    if 2 ^ 15 ≤ k ∨ (k < 64 ∧ x.map.getLsbD k) then ((s.bump 3 0 0x40 0 64 1).sendNum 0x01 dev p.user x.exp, false)
    else if 64 ≤ k then (s.sendNum 0x02 dev p.user x.exp, false)
    else
      let y := advance 64 { x with map := x.map ||| (1#64 <<< k) }
      ((s.setRx dev p.user y).sendNum 0x01 dev p.user y.exp, true)

/-- A held packet of a kind for this device. DEDUCED, log 49. -/
def State.heldPkt (s : State) (k : Nat) : Option Packet :=
  (s.outbox ++ s.ports.flatMap fun e => e.2.inbox).find? fun p => p.kind.toNat == k && p.ddev.toNat == s.devId

/-- What a packet of a kind does when it arrives: where one is held, its stream takes it first (R57). -/
def State.onArrival (s : State) (k : Nat) (f : State → State) : State :=
  match s.heldPkt k with
  | none => f s
  | some p => match s.accept p with
    | (s1, true) => f s1
    | (s1, false) => s1

/-- What an unnumbered packet of a kind does when it arrives (R57). -/
def State.letIn (s : State) (k : Nat) (f : State → State) : State :=
  match s.heldPkt k with
  | none => f s
  | some p => f (s.takePacket p)

end Sys2Proof.Machine
end

