-- ==== Sys2Proof/Machine/Mem.lean ====
section
/-! DEFINITION. Loads, stores, synchronising accesses, atomics, fences, pf, cinv, bmove, mailbox counters and barrier
objects (spec/15 R320 to R341): one meaning per instruction over shared operations. -/
namespace Sys2Proof.Machine

/-- The issuing thread waits at its bundle, not ready on memory or on message: the bundle has not issued (R171). -/
def State.park (s : State) (msg : Bool) : State :=
  s.setThr { s.thr with wait := .parked msg, npc := s.thr.pc }

/-- The issuing thread waits, not ready on memory, for an access to a location, whose scratch block it demands (R171, R264). -/
def State.parkAt (s : State) (l : Loc) : State := (s.demandLoc l).park false

/-- The effective address: the one captured in the entry that is reissued, otherwise as computed (R255, R258). -/
def State.eaOf (s : State) (a : Word) : Word := s.thr.ea.getD a

/-- The checks of an access at issue in the order of R320: ALIGN, then XLATE and PERM, then WATCH. -/
def State.access (s : State) (va : Word) (n need kinds : Nat) : Except Nat Loc :=
  if va.toNat % n ≠ 0 then .error cALIGN
  else match s.locate s.thr va n need with
    | .error c => .error c
    | .ok l => if s.watchHit s.thr va.toNat n kinds then .error cWATCH else .ok l

/-- A virtual address lies in a host page, whatever its rights are. -/
def State.onHost (s : State) (va : Word) : Bool :=
  match s.locate s.thr va 8 0 with
  | .ok (.host _) => true
  | _ => false

/-- The checks of a synchronising access: only HBM has full/empty bits (R245). -/
def State.accessSync (s : State) (va : Word) (need kinds : Nat) : Except Nat Loc :=
  if va.toNat % 8 ≠ 0 then .error cALIGN
  else if va.toNat / 2 ^ 48 = 0xFF ∨ s.onHost va then .error cXLATE
  else s.access va 8 need kinds

/-- A read that performs as its instruction issues; of what lies on another device, a free value (DESIGN CHOICE, log 11). -/
def State.readNow (s : State) (l : Loc) (n : Nat) : MemR :=
  match l with
  | .peer _ _ _ => { s := s.fresh.2, v := s.fresh.1.toNat % 2 ^ (8 * n), bad := 0 }
  | _ => s.memRead s.thr.part l n

/-- A reason for which an access waits before it issues: an unacknowledged posted access to its line (R239), a watermark
(R165), a page being moved (R234), a rehash (R44, R236). -/
def State.accessWaits (s : State) (va : Word) (n : Nat) (l : Loc) : Bool :=
  s.thr.lineBusy l || s.watermarkStall s.thr.part va.toNat n || s.moveStall s.thr.part va.toNat || s.locStall l

/-- A peer access waits before it is sent for room in the retransmit window (R58), for an earlier acquire to perform, and,
where it is a release, for what it orders (R241, R248). DEDUCED, log 55. -/
def State.peerHolds (s : State) (l : Loc) (rel : Bool) (sc : Nat) : Bool :=
  match l with
  | .peer d _ _ => s.noRoom s.dieNo d true 2 || !s.thr.acquired s.thr.seqNo || (rel && !s.thr.released s.dieNo sc s.thr.seqNo)
  | _ => false

/-- An access that performs at issue waits for what must perform before it (R239, R241). -/
def State.nowWaits (s : State) (ls : List Loc) : Bool := !s.thr.acquired s.thr.seqNo || !s.thr.inOrder s.thr.seqNo ls

/-- The access is performed by a remote read instead of a migration: in a gang (R175), or to peer HBM while a breakpoint
of the partition is enabled (R268). -/
def State.remote (s : State) : Loc → Bool
  | .peer _ _ _ => !s.thr.lanes.isEmpty || s.anyBreak s.thr.part
  | _ => !s.thr.lanes.isEmpty

/-- Where a returning access that has been issued takes the thread (R185). -/
def State.place (s : State) (l : Loc) : State :=
  let t := s.thr
  if s.remote l then s
  else match l, t.site with
    | .peer d _ _, _ => s.setThr { t with site := .departing (1000 + d) 0 }
    | .hbm a, .home => if a / 2 ^ 37 = s.dieNo then s else s.setThr { t with site := .departing (a / 2 ^ 36) (s.channel a / 4) }
    | .hbm a, .dahlia k j =>
      if a / 2 ^ 36 = k ∧ s.channel a / 4 = j then s
      else if a / 2 ^ 37 = s.dieNo then s.setThr { t with site := .home }
      else s.setThr { t with site := .departing (a / 2 ^ 36) (s.channel a / 4) }
    | _, .dahlia _ _ => s.setThr { t with site := .home }
    | _, _ => s

/-- The remote read or atomic of a peer access that does not migrate (R175, R268). -/
def State.remoteReq (s : State) (l : Loc) (n : Nat) (acq rel : Bool) (sc : Nat) (op : Option AOp) (v w : Word) : State :=
  match l with
  | .peer d rw off =>
    if s.remote l then
      match op with
      | none => s.request 0x10 1 d rw off n acq rel sc 0 (lineMask off n) []
      | some o => s.request 0x15 1 d rw off n acq rel sc o.code 0 [v, w]
    else s
  | _ => s

/-- The remote read of a consuming load that does not migrate (R245; DESIGN CHOICE, log 68). -/
def State.consReq (s : State) (l : Loc) (sc : Nat) : State :=
  match l with
  | .peer d rw off => if s.remote l then s.request 0x10 1 d rw off 8 true true sc 0 (lineMask off 8) [] else s
  | _ => s

/-- A load (R325): it becomes outstanding, and it performs and returns later. -/
def State.load (s : State) (i : Instr) (a : Word) (n : Nat) (sgn acq : Bool) (sc : Nat) (x : GReg) : State :=
  let va := s.eaOf a
  match s.access va n rRD 1 with
  | .error c => s.locTrap c va
  | .ok l =>
    if s.accessWaits va n l ∨ s.peerHolds l false 0 then s.parkAt l
    else ((s.long i va (.load l n sgn x.toNat acq sc) none none acq).place l).remoteReq l n acq false sc none 0#64 0#64

/-- A store (R325): posted. DESIGN CHOICE, log 16: one to the scratch window by a thread on a Dahlia core is posted from the core (R185), where R36
sends an instruction that uses scratch home. -/
def State.store (s : State) (a : Word) (n : Nat) (v : Word) (rel : Bool) (sc : Nat) : State :=
  let va := s.eaOf a
  match s.access va n rWR 2 with
  | .error c => s.locTrap c va
  | .ok l =>
    if s.accessWaits va n l ∨ s.peerHolds l rel sc then s.parkAt l
    else
      let s1 := s.post l n v 0#64 none false rel sc va
      match l with
      | .peer d rw off => s1.request 0x12 2 d rw off n false rel sc 0 (lineMask off n) (linePay off (v.toNat % 2 ^ (8 * n)))
      | _ => s1

/-- Bytes of a size code (R277). -/
def szBytes (sz : BitVec 2) : Nat := 2 ^ sz.toNat

/-- The address of format CM (R274, R320). -/
def State.eaCM (s : State) (y : GReg) (sz : BitVec 2) (off : BitVec 6) : Word := s.rd y + (off.signExtend 64 <<< sz.toNat)

/-- The address of the lone memory group (R320). -/
def State.eaLone (s : State) (y : GReg) (off : BitVec 19) : Word := s.rd y + off.signExtend 64

/-- LD. -/
def execLd (la : BitVec 4) (x y : GReg) (sz : BitVec 2) (off : BitVec 6) (s : State) :=
  s.run (.ld la x y sz off) fun s => s.load (.ld la x y sz off) (s.eaCM y sz off) (szBytes sz) false false 0 x
/-- LDS. -/
def execLds (la : BitVec 4) (x y : GReg) (sz : BitVec 2) (off : BitVec 6) (s : State) :=
  s.run (.lds la x y sz off) fun s => s.load (.lds la x y sz off) (s.eaCM y sz off) (szBytes sz) true false 0 x
/-- ST. -/
def execSt (x y : GReg) (sz : BitVec 2) (off : BitVec 6) (s : State) :=
  s.run (.st x y sz off) fun s => s.store (s.eaCM y sz off) (szBytes sz) (s.rd x) false 0
/-- LDX. -/
def execLdx (la : BitVec 4) (x y z : GReg) (sz : BitVec 2) (s : State) :=
  s.run (.ldx la x y z sz) fun s => s.load (.ldx la x y z sz) (s.rd y + s.rd z) (szBytes sz) false false 0 x
/-- LDSX. -/
def execLdsx (la : BitVec 4) (x y z : GReg) (sz : BitVec 2) (s : State) :=
  s.run (.ldsx la x y z sz) fun s => s.load (.ldsx la x y z sz) (s.rd y + s.rd z) (szBytes sz) true false 0 x
/-- STX. -/
def execStx (x y z : GReg) (sz : BitVec 2) (s : State) :=
  s.run (.stx x y z sz) fun s => s.store (s.rd y + s.rd z) (szBytes sz) (s.rd x) false 0
/-- LD_LONE. -/
def execLdLone (la : BitVec 4) (x y : GReg) (sz : BitVec 2) (acq : Bool) (sc : BitVec 2) (sgn : Bool) (off : BitVec 19) (s : State) :=
  s.run (.ldLone la x y sz acq sc sgn off) fun s =>
    s.load (.ldLone la x y sz acq sc sgn off) (s.eaLone y off) (szBytes sz) sgn acq sc.toNat x
/-- ST_LONE. -/
def execStLone (x y : GReg) (sz : BitVec 2) (rel : Bool) (sc : BitVec 2) (off : BitVec 19) (s : State) :=
  s.run (.stLone x y sz rel sc off) fun s => s.store (s.eaLone y off) (szBytes sz) (s.rd x) rel sc.toNat

/-- LDSY (R326): a consuming load. One that may not migrate consumes a peer's word by a remote read of acquire and release class (R175, R268; DESIGN
CHOICE, log 68). -/
def execLdsy (la : BitVec 4) (x y : GReg) (sc : BitVec 2) (off : BitVec 19) (s : State) :=
  s.run (.ldsy la x y sc off) fun s =>
    let va := s.eaOf (s.eaLone y off)
    match s.accessSync va (rRD + rWR) 3 with
    | .error c => s.locTrap c va
    | .ok l =>
      if s.accessWaits va 8 l ∨ s.peerHolds l false 0 then s.parkAt l
      else ((s.long (.ldsy la x y sc off) va (.cons l x.toNat sc.toNat) none none true).place l).consReq l sc.toNat

/-- STSY (R326): a producing store, posted. -/
def execStsy (x y : GReg) (sc : BitVec 2) (off : BitVec 19) (s : State) :=
  s.run (.stsy x y sc off) fun s =>
    let va := s.eaOf (s.eaLone y off)
    match s.accessSync va rWR 2 with
    | .error c => s.locTrap c va
    | .ok l =>
      if s.accessWaits va 8 l ∨ s.peerHolds l true sc.toNat then s.parkAt l
      else
        let s1 := s.post l 8 (s.rd x) 0#64 none true true sc.toNat va
        match l with
        | .peer d rw off => s1.request 0x17 1 d rw off 8 false true sc.toNat 0 0 [s.rd x]
        | _ => s1

/-- An atomic (R327, R328): posted where X is z, otherwise returning. -/
def State.amo (s : State) (i : Instr) (o : AOp) (x y : GReg) (v w : Word) (sz : BitVec 2) (acq rel : Bool) (sc : BitVec 2) (off : BitVec 19) : State :=
  let va := s.eaOf (s.eaLone y off)
  let n := szBytes sz
  match s.access va n rAT 3 with
  | .error c => s.locTrap c va
  | .ok l =>
    if s.accessWaits va n l ∨ s.peerHolds l rel sc.toNat then s.parkAt l
    else if x = 63 then
      let s1 := s.post l n v w (some o) false rel sc.toNat va
      match l with
      | .peer d rw off => s1.request 0x14 1 d rw off n false rel sc.toNat o.code 0 [v, w]
      | _ => s1
    else ((s.long i va (.atom l n o v w x.toNat acq rel sc.toNat) none none acq).place l).remoteReq l n acq rel sc.toNat (some o) v w

/-- AADD. -/
def execAadd (la : BitVec 4) (x y z : GReg) (sz : BitVec 2) (acq rel : Bool) (sc : BitVec 2) (off : BitVec 19) (s : State) :=
  s.run (.aadd la x y z sz acq rel sc off) fun s => s.amo (.aadd la x y z sz acq rel sc off) .add x y (s.rd z) 0#64 sz acq rel sc off
/-- AAND. -/
def execAand (la : BitVec 4) (x y z : GReg) (sz : BitVec 2) (acq rel : Bool) (sc : BitVec 2) (off : BitVec 19) (s : State) :=
  s.run (.aand la x y z sz acq rel sc off) fun s => s.amo (.aand la x y z sz acq rel sc off) .and x y (s.rd z) 0#64 sz acq rel sc off
/-- AOR. -/
def execAor (la : BitVec 4) (x y z : GReg) (sz : BitVec 2) (acq rel : Bool) (sc : BitVec 2) (off : BitVec 19) (s : State) :=
  s.run (.aor la x y z sz acq rel sc off) fun s => s.amo (.aor la x y z sz acq rel sc off) .or x y (s.rd z) 0#64 sz acq rel sc off
/-- AXOR. -/
def execAxor (la : BitVec 4) (x y z : GReg) (sz : BitVec 2) (acq rel : Bool) (sc : BitVec 2) (off : BitVec 19) (s : State) :=
  s.run (.axor la x y z sz acq rel sc off) fun s => s.amo (.axor la x y z sz acq rel sc off) .xor x y (s.rd z) 0#64 sz acq rel sc off
/-- AMIN. -/
def execAmin (la : BitVec 4) (x y z : GReg) (sz : BitVec 2) (acq rel : Bool) (sc : BitVec 2) (off : BitVec 19) (s : State) :=
  s.run (.amin la x y z sz acq rel sc off) fun s => s.amo (.amin la x y z sz acq rel sc off) .min x y (s.rd z) 0#64 sz acq rel sc off
/-- AMAX. -/
def execAmax (la : BitVec 4) (x y z : GReg) (sz : BitVec 2) (acq rel : Bool) (sc : BitVec 2) (off : BitVec 19) (s : State) :=
  s.run (.amax la x y z sz acq rel sc off) fun s => s.amo (.amax la x y z sz acq rel sc off) .max x y (s.rd z) 0#64 sz acq rel sc off
/-- AMINU. -/
def execAminu (la : BitVec 4) (x y z : GReg) (sz : BitVec 2) (acq rel : Bool) (sc : BitVec 2) (off : BitVec 19) (s : State) :=
  s.run (.aminu la x y z sz acq rel sc off) fun s => s.amo (.aminu la x y z sz acq rel sc off) .minu x y (s.rd z) 0#64 sz acq rel sc off
/-- AMAXU. -/
def execAmaxu (la : BitVec 4) (x y z : GReg) (sz : BitVec 2) (acq rel : Bool) (sc : BitVec 2) (off : BitVec 19) (s : State) :=
  s.run (.amaxu la x y z sz acq rel sc off) fun s => s.amo (.amaxu la x y z sz acq rel sc off) .maxu x y (s.rd z) 0#64 sz acq rel sc off
/-- ASWP. -/
def execAswp (la : BitVec 4) (x y z : GReg) (sz : BitVec 2) (acq rel : Bool) (sc : BitVec 2) (off : BitVec 19) (s : State) :=
  s.run (.aswp la x y z sz acq rel sc off) fun s => s.amo (.aswp la x y z sz acq rel sc off) .swp x y (s.rd z) 0#64 sz acq rel sc off
/-- ACAS. -/
def execAcas (la : BitVec 4) (x y z w : GReg) (sz : BitVec 2) (acq rel : Bool) (sc : BitVec 2) (off : BitVec 19) (s : State) :=
  s.run (.acas la x y z w sz acq rel sc off) fun s => s.amo (.acas la x y z w sz acq rel sc off) .cas x y (s.rd z) (s.rd w) sz acq rel sc off

/-- Every earlier load, returning atomic and ldsy of the thread has performed (R329). -/
def Thread.readsDone (t : Thread) : Bool := t.out.all fun p => p.perf.isSome || p.act.locs.isEmpty

/-- FENCE (R243, R329): 0 full, 1 acquire, 2 release; not ready until what it orders has performed. -/
def execFence (k sc : BitVec 2) (s : State) :=
  s.run (.fence k sc) fun s =>
    let t := s.thr
    let a := k == 2 || t.readsDone
    let r := k == 1 || t.released s.dieNo sc.toNat t.seqNo
    if a && r then s else s.park false

/-- PF (R330): the translation is loaded and the line's fill started, unless it stalls (R44, R234); no right is needed and nothing
traps. -/
def execPf (y : GReg) (sz : BitVec 2) (off : BitVec 6) (s : State) :=
  s.run (.pf y sz off) fun s =>
    let va := (s.eaCM y sz off).toNat
    if va / 2 ^ 57 ≠ 0 ∨ !isPaged va then s
    else match s.paged s.thr.part va 0 with
      | .ok (.hbm a) => if s.locStall (.hbm a) || s.moveStall s.thr.part va then s else s.touch a (s.keyOf s.thr.part)
      | _ => s

/-- CINV (R331): the bundles held for a range of the partition are discarded, once the thread's earlier stores to this device have
performed, so that no buffer takes up an old bundle behind it (R237; DESIGN CHOICE, log 12). -/
def execCinv (y z : GReg) (s : State) :=
  s.run (.cinv y z) fun s =>
    let b := (s.rd y).toNat
    let n := (s.rd z).toNat
    if b % 8 ≠ 0 ∨ n % 8 ≠ 0 then s.trap cALIGN (s.rd y)
    else if s.thr.posted.any fun p => !p.performed && (match p.loc with | .peer _ _ _ => false | _ => true) then s.park false
    else
      let q := s.thr.part
      { s with fetchBuf := s.fetchBuf.filter fun e =>
          !(e.1 / 2 ^ 57 == q && (decide (2 ^ 32 < n) || (decide (b ≤ e.1 % 2 ^ 57) && decide (e.1 % 2 ^ 57 < b + n)))) }

/-! ## Block move -/

/-- A posted store of the issuing thread that performs at once: it stays with the thread where its acknowledgement is poisoned (R72, R225,
R244). -/
def State.storeNow (s : State) (l : Loc) (n v : Nat) (addr : Word) : State :=
  let (s1, b) := s.memWrite s.thr.part l n v
  let s2 := s1.charge s.dieNo s.thr.part addr.toNat n
  if b = 0 then s2
  else
    let s3 := s2.post l n (W v) 0#64 none false false 0 addr
    s3.setThr { s3.thr with posted := s3.thr.posted.modify (s3.thr.posted.length - 1) fun p => { p with performed := true, bad := b } }

/-- One element of a block move from `l` to `m` (R332): read, then stored and acknowledged; the registers step on. -/
def State.moveElem (s : State) (x y z : GReg) (n v : Nat) (m : Loc) : State :=
  let s := match m with
    | .peer d rw off =>
      (s.post m n (W v) 0#64 none false false 0 (s.regOf s.turn s.thr x.toNat)).request 0x12 2 d rw off n false false 0 0 (lineMask off n) (linePay off v)
    | _ => s.storeNow m n v (s.regOf s.turn s.thr x.toNat)
  let t := s.thr
  let x' := s.regOf s.turn t x.toNat + W n
  let y' := s.regOf s.turn t y.toNat + W n
  let z' := s.regOf s.turn t z.toNat - W n
  ((s.wr x x').wr y y').wr z z'

/-- The issuing thread waits at its bundle, part of whose effect stands (R171, R332, R422). -/
def State.parkKept (s : State) (msg : Bool) : State := s.setThr { s.thr with wait := .kept msg, npc := s.thr.pc }

/-- The next element of a block move (R332, R333): a fault leaves the registers describing the remainder; the thread waits at the bundle for a
remote read, for an acknowledgement, and for the elements that follow. -/
def State.moveNext (s : State) (i : Instr) (x y z : GReg) (n : Nat) : State :=
  let t := s.thr
  let gx := s.regOf s.turn t x.toNat
  let gy := s.regOf s.turn t y.toNat
  match s.access gy n rRD 1 with
  | .error c => s.locTrap c gy
  | .ok l =>
    match s.access gx n rWR 2 with
    | .error c => s.locTrap c gx
    | .ok m =>
      if s.accessWaits gy n l ∨ s.accessWaits gx n m ∨ s.peerHolds l false 0 ∨ s.peerHolds m false 0 ∨ s.nowWaits [l, m] then
        ((s.demandLoc l).demandLoc m).parkKept false
      else match l with
      | .peer d rw off =>
        if 8 ≤ t.out.length then s.park false
        else ((s.poll i gy (.elem l m n x.toNat y.toNat z.toNat) false).request 0x10 1 d rw off n false false 0 0 (lineMask off n) []).parkKept false
      | _ =>
        let r := s.memRead t.part l n
        match trapOfCause (s.ptrap t.part) r.bad with
        | some tr => r.s.stopAt s.turn s.cur tr r.bad gy t.pc t.pc none false
        | none =>
          let s0 := r.s.charge s.dieNo t.part gy.toNat n
          let s1 := if r.bad = 7 then s0.orSt flPZ else s0
          (s1.moveElem x y z n r.v m).parkKept false

/-- BMOVE (R332, R333): one element in a turn, not ready on memory until the count is 0. DEDUCED, log 57. -/
def execBmove (x y z : GReg) (sz : BitVec 2) (acq rel : Bool) (sc : BitVec 2) (s : State) :=
  s.run (.bmove x y z sz acq rel sc) fun s =>
    let n := szBytes sz
    if (s.rd x).toNat % n ≠ 0 then s.trap cALIGN (s.rd x)
    else if (s.rd y).toNat % n ≠ 0 then s.trap cALIGN (s.rd y)
    else if (s.rd z).toNat % n ≠ 0 then s.trap cALIGN 0#64
    else if rel && !s.thr.released s.dieNo sc.toNat s.thr.seqNo then s.park false
    else if s.thr.out.any (fun p => match p.act with | .elem _ _ _ _ _ _ => true | _ => false) then s.park false
    else if s.rd z = 0#64 then s
    else s.moveNext (.bmove x y z sz acq rel sc) x y z n

/-! ## Mailbox counters -/

/-- Mailbox counter `t` of the issuing cell (R336). -/
def State.mbc (s : State) (t : Nat) : Word := tget (fun _ => 0#64) s.cell.mbc t

/-- A mailbox counter set. -/
def State.setMbc (s : State) (t : Nat) (v : Word) : State := s.setCell s.turn { s.cell with mbc := tput s.cell.mbc t v }

/-- A counter has reached a value (R337). -/
def mbReached (v n : Word) : Bool := decide ((v - n).toNat < 2 ^ 63)

/-- A thread of a lower slot of the cell waits for a counter that has reached its value: it is taken first (R337, R344). -/
def State.mbEarlier (s : State) (t : Nat) : Bool :=
  (List.range (s.cur % 16)).any fun i => match s.thr? s.turn (s.cur / 16 * 16 + i) with
    | some u => u.stop.isNone && (match u.wait with | .mbox c n => c == t && mbReached (s.mbc t) n | _ => false)
    | none => false

/-- MBWAIT (R337): waits until the counter has reached the value; .sub takes it off. -/
def execMbwait (x y z : GReg) (m : BitVec 2) (s : State) :=
  s.run (.mbwait x y z m) fun s =>
    let t := (s.rd y).toNat
    if 63 < t then s.trap cFMT 0#64
    else
      let v := s.mbc t
      if mbReached v (s.rd z) && !s.mbEarlier t then
        let s1 := if m = 1#2 then s.setMbc t (v - s.rd z) else s
        s1.wr x v
      else s.setThr { s.thr with wait := .mbox t (s.rd z), npc := s.thr.pc }

/-- MBREAD (R338). -/
def execMbread (la : BitVec 4) (x y : GReg) (s : State) :=
  s.run (.mbread la x y) fun s =>
    let t := (s.rd y).toNat
    if 63 < t then s.trap cFMT 0#64
    else s.long (.mbread la x y) 0#64 (.mbc t x.toNat) none none true

/-- MBSET (R338). -/
def execMbset (x y z : GReg) (s : State) :=
  s.run (.mbset x y z) fun s =>
    let t := (s.rd y).toNat
    if 63 < t then s.trap cFMT 0#64
    else (s.setMbc t (s.rd z)).wr x (s.mbc t)

/-! ## Barrier objects -/

/-- The checks of a barrier object named by an instruction (R339), of which it accesses `n` bytes: 16-byte aligned, in HBM or scratch. -/
def State.barObj (s : State) (va : Word) (need kinds : Nat) (n : Nat := 8) : Except Nat Loc :=
  if va.toNat % 16 ≠ 0 then .error cALIGN
  else if s.onHost va then .error cXLATE
  else s.access va n need kinds

/-- The stack that holds a location, if it is in HBM. -/
def Loc.stack? : Loc → Option Nat
  | .hbm a => some (a / 2 ^ 36)
  | _ => none

/-- A barrier wait is held at its object's memory: in the list of its stack, at most 256, refused where the list is full (R340); for an object
in scratch at its cell, numbered from 1,000. -/
def State.barWait (s : State) (l : Loc) (gp : Bool) : State :=
  match l with
  | .scr c _ => s.setThr { s.thr with wait := .barHeld (1000 + c) l gp, npc := s.thr.pc }
  | _ => match l.stack? with
  | none => s.park true
  | some k =>
    let x := s.stackAt k
    if x.bars.contains (s.turn, s.cur) then s.setThr { s.thr with wait := .barHeld k l gp, npc := s.thr.pc }
    else if x.bars.length < 256 then
      let s1 := s.setStack k { x with bars := x.bars ++ [(s.turn, s.cur)] }
      s1.setThr { s1.thr with wait := .barHeld k l gp, npc := s1.thr.pc }
    else s.setThr { s.thr with wait := .barRefused k, npc := s.thr.pc }

/-- The wait of a thread leaves its stack's list. -/
def State.barLeave (s : State) (l : Loc) : State :=
  match l.stack? with
  | none => s
  | some k => s.setStack k { s.stackAt k with bars := (s.stackAt k).bars.filter (· ≠ (s.turn, s.cur)) }

/-- The answer of the other device to a bowait that stands at its bundle, once it has come (R340). -/
def Thread.phaseRead (t : Thread) : Option Word :=
  t.out.findSome? fun p => match p.act with | .phase _ _ => p.perf | _ => none

/-- The wait of a thread has been held at the object at a location since an earlier turn. -/
def Thread.barHolds (t : Thread) (l : Loc) : Bool :=
  match t.wait with
  | .barDue m => decide (m = l)
  | _ => false

/-- BOWAIT (R340): a wait, held at the object's memory from its turn on, until PHASE differs from bit 0 of the register; a flip in the cycle in
which it arrives comes first (R344). Then word 0 is written as it stood at the flip that answered the wait, or as a later turn finds it. The word of an object on another device is
read there again and again while the thread stands at the bundle (DEDUCED, log 33). -/
def execBowait (x y z : GReg) (sc : BitVec 2) (s : State) :=
  s.run (.bowait x y z sc) fun s =>
    let va := s.eaOf (s.rd y)
    match s.thr.wait, s.thr.phaseRead with
    | .answered v, _ => (s.setThr { s.thr with wait := .none }).wr x v
    | _, some v => (s.setThr { s.thr with out := s.thr.out.filter fun p => p.replays || p.late.isSome }).wr x v
    | _, none =>
    match s.barObj va rRD 1 with
    | .error c => s.locTrap c va
    | .ok l =>
      match l with
      | .peer d rw off =>
        if s.accessWaits va 8 l ∨ s.peerHolds l false 0 ∨ 8 ≤ s.thr.out.length then s.park false
        else
          let s1 := s.poll (.bowait x y z sc) va (.phase l sc.toNat) true
          (s1.setThr { s1.thr with wait := .polling }).request 0x10 1 d rw off 8 true false sc.toNat 0 (lineMask off 8) []
      | _ =>
        if s.accessWaits va 8 l ∨ s.nowWaits [l] then s.parkAt l
        else if !s.thr.barHolds l then s.barWait l ((s.rd z).getLsbD 0)
        else
          let r := (s.charge s.dieNo s.thr.part va.toNat 8).memRead s.thr.part l 8
          match trapOfCause (s.ptrap s.thr.part) r.bad with
          | some tr => r.s.stopAt s.turn s.cur tr r.bad va s.thr.pc s.thr.pc none false
          | none =>
            if (r.v / 2 ^ 63 == 1) != (s.rd z).getLsbD 0 then ((if r.bad = 7 then r.s.orSt flPZ else r.s).barLeave l).wr x (W r.v)
            else s.barWait l ((s.rd z).getLsbD 0)

/-- BOREAD (R341). -/
def execBoread (la : BitVec 4) (x y : GReg) (sc : BitVec 2) (s : State) :=
  s.run (.boread la x y sc) fun s =>
    let va := s.eaOf (s.rd y)
    match s.barObj va rRD 1 with
    | .error c => s.locTrap c va
    | .ok l =>
      if s.accessWaits va 8 l ∨ s.peerHolds l false 0 then s.parkAt l
      else
        let s1 := s.long (.boread la x y sc) va (.bar l x.toNat sc.toNat) none none true
        match l with
        | .peer d rw off => s1.request 0x10 1 d rw off 8 true false sc.toNat 0 (lineMask off 8) []
        | _ => s1

/-- The bytes of a barrier object's line that a boinit writes: those of ACC and the whole of word 1; that of PHASE is left out (R164, R341). -/
def boMask (off : Nat) : Nat := 0xFF3F * 2 ^ (off % 64)

/-- The line payload of a boinit: ACC 0 and EXPECT (R341). -/
def boPay (off : Nat) (v : Word) : List Word := (List.range 8).map fun i => if i = off % 64 / 8 + 1 then v else 0#64

/-- BOINIT (R341): EXPECT set, ACC cleared, PHASE kept; done in one step at the object's memory, then acknowledged. For a peer object one WRITE
carries the bytes of both. DEDUCED, log 33. -/
def execBoinit (y z : GReg) (s : State) :=
  s.run (.boinit y z) fun s =>
    let va := s.eaOf (s.rd y)
    match s.barObj va rWR 2 16 with
    | .error c => s.locTrap c va
    | .ok l =>
      if (s.rd z).toNat / 2 ^ 48 ≠ 0 then s.trap cFMT 0#64
      else if s.accessWaits va 16 l ∨ s.peerHolds l false 0 ∨ s.nowWaits [l, l.plus 8] then s.parkAt l
      else match l with
      | .peer d rw off =>
        (s.post l 16 (s.rd z) 0#64 none false false 0 va).request 0x12 2 d rw off 8 false false 0 0 (boMask off) (boPay off (s.rd z))
      | _ =>
        let r := s.memRead s.thr.part l 8
        (r.s.storeNow l 8 (r.v / 2 ^ 63 * 2 ^ 63) va).storeNow (l.plus 8) 8 (s.rd z).toNat (va + 8#64)

end Sys2Proof.Machine
end

