-- ==== Sys2Proof/Machine/Engine.lean ====
section
/-! DEFINITION. What the engines of a die share: accesses in a partition's tables (R152, R224), event records (spec/07
R140, R141), barrier objects (R164), and the monitors of a partition (spec/16 R362 to R367). -/
namespace Sys2Proof.Machine

/-- A scratch byte range lies in a block allocated to a task of the partition (R224). -/
def State.scrAllocated (s : State) (q cell a n : Nat) : Bool :=
  (s.cellAt cell).slots.any fun (_, t) =>
    match t with
    | some t => t.part == q && decide (t.sb.toNat ≤ a) && decide (a + n ≤ t.sb.toNat + t.ss.toNat)
    | none => false

/-- Where an engine's access lands (R152, R224): the trap cause that its status stands for, or the location. -/
def State.engLoc (s : State) (q va n need : Nat) : Except Nat Loc :=
  if va / 2 ^ 57 ≠ 0 then .error cXLATE
  else if va / 2 ^ 56 = 1 then s.peerLoc q va n need
  else if va / 2 ^ 48 = 0xFF then
    let d := va / 2 ^ 28 % 8
    let c := 64 * d + va / 2 ^ 22 % 64
    if va / 2 ^ 31 % 2 ^ 17 ≠ 0 ∨ !s.dieIn q d then .error cXLATE
    else if s.scrAllocated q c va n then .ok (.scr c (va % 2 ^ 22)) else .error cPERM
  else s.paged q va need

/-- The value of a list of words, the first lowest. -/
def numWords (ws : List Word) : Nat := ws.foldr (fun w a => w.toNat + a * 2 ^ 64) 0

/-- An engine's read of `n` bytes of a line on another device: a RDREQ goes out, and the answer, its cause and its value, is free (R72; DESIGN
CHOICE, log 11); without a usable path it is UNREACH (R66). -/
def State.farRead (s : State) (d rw off n : Nat) : MemR :=
  if s.reachable d true then
    let x := s.emit (s.reqPkt 0x10 1 d rw off n false false 0 0 (lineMask off n) [])
    let c := x.fresh.1.toNat % 16
    let bad := if c ≤ 8 then c else 0
    let v := numWords ((List.range 8).map fun i => Config.freeWord (x.free + 1 + i)) % 2 ^ (8 * n)
    { s := { x with free := x.free + 9 }, v := if bad = 0 then v else 0, bad := bad }
  else { s := s, v := 0, bad := 8 }

/-- A read at a location by an engine. -/
def State.engReadAt (s : State) (q : Nat) (l : Loc) (n : Nat) : MemR :=
  match l with
  | .peer d rw off => s.farRead d rw off n
  | _ => s.memRead q l n

/-- An engine's read of `n` bytes, 8 at most and within a line: the cause of a failed access, or the answer. -/
def State.engRead (s : State) (q va n : Nat) : Except Nat MemR :=
  match s.engLoc q va n rRD with
  | .error c => .error c
  | .ok l => .ok ((s.slotSeen q va).engReadAt q l n)

/-- An engine's write of `n` bytes; to another device, a WRITE request. One that is answered with a poisoned response (R35, R225) fails. -/
def State.engWrite (s : State) (q va n v : Nat) : Except Nat State :=
  match s.engLoc q va n rWR with
  | .error c => .error c
  | .ok (.peer d rw off) => .ok ((s.slotSeen q va).emit (s.reqPkt 0x12 2 d rw off n false false 0 0 (lineMask off n) (linePay off (v % 2 ^ (8 * n)))))
  | .ok l => match s.memWrite q l n v with
    | (x, 0) => .ok x
    | _ => .error cPOISON

/-- An engine's write of `n` bytes within a line: a whole line takes a fresh tag (R33). -/
def State.engPutLine (s : State) (q va n v : Nat) : Except Nat State :=
  if n = 64 ∧ va % 64 = 0 then
    match s.engLoc q va n rWR with
    | .error c => .error c
    | .ok (.peer _ _ _) => s.engWrite q va n v
    | .ok l => match s.lineWrite q l (BitVec.ofNat 512 v) with
      | (x, 0) => .ok x
      | _ => .error cPOISON
  else s.engWrite q va n v

/-- A line of a range is poisoned, or would be found so (R34). -/
def State.meetsPoison (s : State) (q va n : Nat) : Bool :=
  (List.range ((va + n - 1) / 64 + 1 - va / 64)).any fun i => match s.engLoc q ((va / 64 + i) * 64) 64 0 with
    | .ok (.hbm h) => (s.lineOf h).unfilled.isNone && ((s.lineOf h).poison || s.tagBad (s.keyOf q) h)
    | _ => false

/-- `k` numbers of `n` bytes each from a virtual address, with what their reading does: the values, or the first failure, a trap cause
(POISON for a bad line), and its address. DEDUCED, log 52. -/
def State.engNums (s : State) (q va n : Nat) : Nat → State × Except (Nat × Nat) (List Nat)
  | 0 => (s, .ok [])
  | k + 1 =>
    match s.engRead q va n with
    | .error c => (s, .error (c, va))
    | .ok r =>
      if r.bad ≠ 0 then (r.s, .error (cPOISON, va))
      else match r.s.engNums q (va + n) n k with
        | (s1, .error e) => (s1, .error e)
        | (s1, .ok vs) => (s1, .ok (r.v :: vs))

/-- `k` 64-bit words so read. -/
def State.engWords (s : State) (q va k : Nat) : State × Except (Nat × Nat) (List Word) :=
  match s.engNums q va 8 k with
  | (s1, .error e) => (s1, .error e)
  | (s1, .ok vs) => (s1, .ok (vs.map W))

/-- Words written in ascending address; nothing where one fails. PCNT counts one WRITE a word (DESIGN CHOICE, log 32: R44 and R404 do not say in how
many accesses an engine writes a frame or a record). -/
def State.engPut (s : State) (q va : Nat) : List Word → Except Nat State
  | [] => .ok s
  | w :: ws =>
    match s.engWrite q va 8 w.toNat with
    | .error c => .error c
    | .ok s' => s'.engPut q (va + 8) ws

/-! ## Event records -/

/-- The event queue of a die has room (R141: 4,096 records; a producer that finds it full waits). -/
def State.evRoom (s : State) (d : Nat) : Bool := decide ((s.dieAt d).events.length < 4096)

/-- A record enters the event queue of a die (R140, R141). -/
def State.pushEvent (s : State) (d kind code data : Nat) (w1 : Word) : State :=
  s.setDie d { s.dieAt d with events := (s.dieAt d).events ++ [{ kind := BitVec.ofNat 8 kind, code := BitVec.ofNat 8 code, data := BitVec.ofNat 32 data, w1 := w1 }] }

/-- Word 1 of a device-level record (R140). -/
def State.devWord (s : State) (d : Nat) : Word := W (s.devId * 2 ^ 53 + d * 2 ^ 50)

/-- A device-level record of die `d`. -/
def State.devEvent (s : State) (d kind code data : Nat) : State := s.pushEvent d kind code data (s.devWord d)

/-! ## Barrier objects and mailboxes -/

/-- An add of `n` bytes to a barrier object (R164): word 0 after it, from words 0 and 1. -/
def barAdd (w0 w1 n : Nat) : Nat :=
  let acc := w0 % 2 ^ 48 + n
  let ex := w1 % 2 ^ 48
  let ph := w0 / 2 ^ 63
  if 0 < n ∧ ex ≤ acc then (1 - ph) * 2 ^ 63 + (acc - ex) % 2 ^ 48 else ph * 2 ^ 63 + acc % 2 ^ 48

/-- The waits held at a barrier object that its word 0 ends: each is answered with the word, and leaves its stack's list (R340). -/
def State.barFlip (s : State) (l : Loc) (w : Word) : State :=
  s.cells.foldl (fun s (n, c) => c.slots.foldl (fun s (k, t) => match t with
    | some t => match t.wait with
      | .barHeld i m gp =>
        if m = l ∧ w.getLsbD 63 ≠ gp ∧ t.stop.isNone then
          let x := s.setThrAt n k { s.thrAt n k with wait := .answered w }
          if i < 1000 then x.setStack i { x.stackAt i with bars := (x.stackAt i).bars.filter (· ≠ (n, k)) } else x
        else s
      | _ => s
    | none => s) s) s

/-- An add to the barrier object at a location (R164), and the answer to the waits that it ends. -/
def State.barAt (s : State) (q : Nat) (l : Loc) (n : Nat) : State :=
  let r0 := s.memRead q l 8
  let r1 := r0.s.memRead q (l.plus 8) 8
  let w := barAdd r0.v r1.v n
  ((r1.s.memWrite q l 8 w).1).barFlip l (W w)

/-- The add of an engine of die `d` to the barrier object at a virtual address (R163, R164). The object of another device is added to there:
the count travels as an AMO whose second operand is all ones (DESIGN CHOICE, log 69). -/
def State.engBar (s : State) (d q va n : Nat) : State :=
  match s.engLoc q va 16 rWR with
  | .error _ => s
  | .ok (.peer dev rw off) =>
    (s.slotSeen q va).emit { s.reqPkt 0x14 1 dev rw off 8 false true 0 0 0 [W n, BitVec.allOnes 64] with sdie := BitVec.ofNat 3 d }
  | .ok l => (s.charge d q va 16).barAt q l n

/-- An add to a mailbox counter of a cell (R163, R336). -/
def State.mboxAdd (s : State) (cell tag n : Nat) : State :=
  let c := s.cellAt cell
  s.setCell cell { c with mbc := tput c.mbc tag (tget (fun _ => 0#64) c.mbc tag + W n) }

/-! ## Monitors -/

/-- A channel that is off (R197). -/
def Chan.init : Chan :=
  { mode := 0, mon := 0, base := 0, limit := 0, stride := 8, off := 0, ffmt := 0, bexp := 0, acc := 0, nan := false,
    pinf := false, ninf := false, clip := false, pages := [], owner := 0#64, part := 0 }

/-- A monitor that nothing has set (R364). -/
def Mon.init : Mon :=
  { en := false, ref := 0#64, bound := 0#64, die := 0, graph := 0, bgrp := 0, count := 0#32, last := 0, lastExp := 0,
    flags := 0#4, drift := false, was := none }

/-- Monitor `m` of a partition. -/
def State.monOf (s : State) (q m : Nat) : Mon := tget (fun _ => Mon.init) (s.partAt q).monitors m

/-- A monitor set. -/
def State.setMon (s : State) (q m : Nat) (x : Mon) : State :=
  s.setPart q { s.partAt q with monitors := tput (s.partAt q).monitors m x }

/-- A channel's flags: NAN 1, PINF 2, NINF 4, CLIP 8. -/
def Chan.flags (c : Chan) : Nat := c.nan.toNat + 2 * c.pinf.toNat + 4 * c.ninf.toNat + 8 * c.clip.toNat

/-- A channel re-armed: ACC 0, flags clear (R365). -/
def Chan.rearm (c : Chan) : Chan := { c with acc := 0, nan := false, pinf := false, ninf := false, clip := false }

/-- A channel that reports to monitor `m` of partition `q`. -/
def Chan.isFor (c : Chan) (q m : Nat) : Bool := c.mode != 0 && c.mon == m && c.part == q

/-- The armed channels of a partition with MON = m, of its dies and their cells. -/
def State.monChans (s : State) (q m : Nat) : List Chan :=
  (s.cells.flatMap fun (_, c) => (c.chans.map (·.2)).filter (·.isFor q m)) ++
  (s.dies.flatMap fun (_, d) => (d.chans.map (·.2)).filter (·.isFor q m))

/-- Those channels re-armed. -/
def State.rearm (s : State) (q m : Nat) : State :=
  { s with cells := s.cells.map fun (k, c) => (k, { c with chans := watchAll c.chans (fun x => if x.isFor q m then x.rearm else x) }),
           dies := s.dies.map fun (k, d) => (k, { d with chans := watchAll d.chans (fun x => if x.isFor q m then x.rearm else x) }) }

/-- The exact sum of channels as an integer multiple of 2^e, `e` the least exponent among them (R365). -/
def sumChans (cs : List Chan) : Int × Int :=
  let e := cs.foldl (fun m c => if c.bexp < m then c.bexp else m) (match cs with | [] => 0 | c :: _ => c.bexp)
  (cs.foldl (fun t c => t + c.acc * (2 ^ (c.bexp - e).toNat : Nat)) 0, e)

/-- |v * 2^e - ref| > bound, exactly (R365); both FP64 patterns are finite. -/
def driftGt (v e : Int) (ref bound : Word) : Bool :=
  match fdecode fp64 ref.toNat, fdecode fp64 bound.toNat with
  | .fin s m x, .fin _ bm bx =>
    match (fadd2 0 (ofInt v e) (.fin (!s) m x)).1 with
    | .fin _ dm dx => dyGt dm dx bm bx
    | _ => true
  | _, _ => true

/-- The monitor has had an mref in a cycle. -/
def Mon.setIn (x : Mon) (cycle : Nat) : Bool := (x.was.map fun w => w.1 == cycle).getD false

/-- The reference, the bound and the owner as they stand. -/
def Mon.now (x : Mon) : MonRef := { en := x.en, ref := x.ref, bound := x.bound, die := x.die, graph := x.graph, bgrp := x.bgrp }

/-- The reference, the bound and the owner that a round completing in a cycle finds: those from before an mref of that cycle (R368). -/
def Mon.before (x : Mon) (cycle : Nat) : MonRef :=
  match x.was with
  | some (c, r) => if c = cycle then r else x.now
  | none => x.now

/-- The comparison of monitor `m` when a round of its group completes (R365): whether it drifts. -/
def State.compareMon (s : State) (q m : Nat) : State × Bool :=
  let x := s.monOf q m
  let cs := s.monChans q m
  let (v, e) := sumChans cs
  let fl := cs.foldl (fun f c => f ||| c.flags) 0
  let dr := fl != 0 || driftGt v e (x.before s.cycle).ref (x.before s.cycle).bound
  ((s.setMon q m { x with last := v, lastExp := e, flags := BitVec.ofNat 4 fl, count := if x.setIn s.cycle then x.count else x.count + 1, drift := dr }).rearm q m, dr)

/-- A monitor is owned by a barrier group (R364). -/
def MonRef.owned (x : MonRef) (die graph bgrp : Nat) : Bool := x.en && x.die == die && x.graph == graph && x.bgrp == bgrp

/-- Every owned monitor compared; the mask of those that drift (R365, R366). -/
def State.compareRound (s : State) (q die graph bgrp : Nat) : State × Nat :=
  (List.range 16).foldl (fun (s, mask) m =>
    if ((s.monOf q m).before s.cycle).owned die graph bgrp then
      let (s', dr) := s.compareMon q m
      (s', if dr then mask + 2 ^ m else mask)
    else (s, mask)) (s, 0)

/-- An address of the scratch window (R223). -/
def isScratch (va : Nat) : Bool := va / 2 ^ 48 == 0xFF

/-- The arm block's fields checked against their limits (R362): words 0 to 3 of the block, of a cell or of a die channel. -/
def armOk (die : Bool) (w0 base limit w3 : Word) : Bool :=
  let mode := bf w0 0 8
  let ff := bf w0 16 8
  let bexp := sInt 16 (bf w0 32 16)
  let fs := ffmtSize ff
  let stride := bf w3 0 32
  let off := bf w3 32 32
  if mode = 0 then bf w0 8 56 == 0 && base == 0#64 && limit == 0#64 && w3 == 0#64
  else mode < 3 && bf w0 8 8 < 16 && ff < 6 && bf w0 24 8 == 0 && bf w0 48 16 == 0 && decide (-1100 ≤ bexp) && decide (bexp ≤ 1100) &&
    base.toNat % fs == 0 && limit.toNat % fs == 0 && [base.toNat, limit.toNat].all (fun v => if die then isPaged v && decide (v < 2 ^ 57) else isScratch v) && 8 ≤ stride && stride ≤ 65536 && stride % fs == 0 && off + fs ≤ stride

/-- The (page, HPA) pairs of a die channel's window from page `p` on, or the cause (R362): every page translates into the die's stacks, and then every
page has RD. -/
def State.armPages (s : State) (q d p k : Nat) : Except Nat (List (Nat × Nat)) :=
  let ws := (List.range k).map fun i => (p + i, s.walk q ((p + i) * 65536))
  let at_ := fun (w : Nat × Option Leaf) => w.2.bind fun l => match l.loc (w.1 * 65536) with
    | .hbm a => if a / 2 ^ 37 = d then some (w.1, a) else none
    | _ => none
  if ws.any fun w => (at_ w).isNone then .error cXLATE
  else if ws.any fun w => !((w.2.map fun l => rightsOk l.e rRD).getD false) then .error cPERM
  else .ok (ws.filterMap at_)

/-- MARM (R362, R363): arms or disarms a channel of the cell or of the die. -/
def execMarm (y z : GReg) (s : State) :=
  s.run (.marm y z) fun s =>
    let va := s.rd y
    let sel := (s.rd z).toNat
    let t := s.thr
    if va.toNat % 8 ≠ 0 then s.trap cALIGN va
    else match s.access va 8 rRD 1, s.access (va + 8#64) 8 rRD 1, s.access (va + 16#64) 8 rRD 1, s.access (va + 24#64) 8 rRD 1 with
    | .error c, _, _, _ => s.locTrap c va
    | _, .error c, _, _ => s.locTrap c (va + 8#64)
    | _, _, .error c, _ => s.locTrap c (va + 16#64)
    | _, _, _, .error c => s.locTrap c (va + 24#64)
    | .ok l0, .ok l1, .ok l2, .ok l3 =>
      if s.accessWaits va 32 l0 ∨ s.accessWaits va 32 l3 ∨ s.nowWaits [l0, l3] then (s.demandLoc l3).parkAt l0
      else
        let r0 := (s.charge s.dieNo t.part va.toNat 32).readNow l0 8
        let r1 := r0.s.readNow l1 8
        let r2 := r1.s.readNow l2 8
        let r3 := r2.s.readNow l3 8
        let bad := ([r0.bad, r1.bad, r2.bad, r3.bad].find? (· != 0)).getD 0
        match trapOfCause (s.ptrap t.part) bad with
        | some tr => r3.s.stopAt s.turn s.cur tr bad va t.pc t.pc none false
        | none =>
          let s := if bad = 0 then r3.s else r3.s.orSt flPZ
          let w0 := W r0.v
          let base := r1.v
          let limit := r2.v
          let w3 := W r3.v
          if 8 ≤ sel ∨ !armOk (decide (4 ≤ sel)) w0 (W base) (W limit) w3 then s.trap cFMT 0#64
          else
            let c : Chan := { Chan.init with
              mode := bf w0 0 2, mon := bf w0 8 4, base := base, limit := limit, stride := bf w3 0 32, off := bf w3 32 32,
              ffmt := bf w0 16 8, bexp := sInt 16 (bf w0 32 16), owner := t.gid, part := t.part }
            if sel < 4 then
              if c.mode = 0 then s.setCell s.turn { s.cell with chans := tput s.cell.chans sel Chan.init }
              else if base < limit ∧ (base < t.sb.toNat ∨ t.sb.toNat + t.ss.toNat < limit) then s.trap cPERM (W base)
              else s.setCell s.turn { s.cell with chans := tput s.cell.chans sel { c with base := base % 2 ^ 22, limit := base % 2 ^ 22 + (limit - base) } }
            else
              let d := s.dieNo
              if c.mode = 0 then s.setDie d { s.dieAt d with chans := tput (s.dieAt d).chans (sel - 4) Chan.init }
              else match (if base < limit then s.armPages t.part d (base / 65536) ((limit - 1) / 65536 + 1 - base / 65536) else .ok []) with
                | .error e => s.trap e (W base)
                | .ok ps => s.setDie d { s.dieAt d with chans := tput (s.dieAt d).chans (sel - 4) { c with pages := ps } }

/-- An FP64 pattern that is finite. -/
def finite64 (w : Word) : Bool := bf w 52 11 != 2047

/-- MREF (R364): the reference of a monitor set, or its owner cleared. -/
def execMref (y z w : GReg) (en : Bool) (s : State) :=
  s.run (.mref y z w en) fun s =>
    let m := (s.rd y).toNat
    let t := s.thr
    if 16 ≤ m ∨ t.bgrp = 0 ∨ (en ∧ (!finite64 (s.rd z) ∨ !finite64 (s.rd w) ∨ (s.rd w).toNat > 2 ^ 63)) then s.trap cFMT 0#64
    else
      let x : Mon := { s.monOf t.part m with was := some (s.cycle, (s.monOf t.part m).before s.cycle) }
      if en then
        s.setMon t.part m { x with
          en := true, ref := s.rd z, bound := W ((s.rd w).toNat % 2 ^ 63), die := t.die, graph := t.graph, bgrp := t.bgrp, count := 0#32 }
      else s.setMon t.part m { x with en := false, die := 0, graph := 0, bgrp := 0 }

/-- MREAD (R367). -/
def execMread (la : BitVec 4) (x y : GReg) (what : BitVec 2) (s : State) :=
  s.run (.mread la x y what) fun s =>
    let g := (s.rd y).toNat
    let t := s.thr
    let i : Instr := .mread la x y what
    let ret := fun (v : Word) => s.long i 0#64 (.ret [.scalar x.toNat v] 0#8) (some v) none false
    match what.toNat with
    | 1 =>
      if 8 ≤ g then s.trap cFMT 0#64
      else
        let c := if g < 4 then tget (fun _ => Chan.init) s.cell.chans g else tget (fun _ => Chan.init) (s.dieAt s.dieNo).chans (g - 4)
        ret (W (wfxOut fp64 c.acc c.bexp c.flags).1)
    | 0 =>
      if 16 ≤ g then s.trap cFMT 0#64
      else let m := s.monOf t.part g; ret (W (wfxOut fp64 m.last m.lastExp m.flags.toNat).1)
    | _ =>
      if 16 ≤ g then s.trap cFMT 0#64
      else let m := s.monOf t.part g
        ret (W (m.flags.toNat + (if m.drift then 16 else 0) + m.count.toNat * 2 ^ 32))

end Sys2Proof.Machine
end

