-- ==== Sys2Proof/Machine/Layout.lean ====
section
/-! DEFINITION. The byte layouts of light contexts (spec/09 R184) and trap frames (spec/12 R255), and the trap queue of a
partition (R256). -/
namespace Sys2Proof.Machine

/-- The 56 words of a light context (R184). -/
def ctxWords (c : LightCtx) : List Word :=
  (List.range 48).map (fun i => c.g.getD i 0#64) ++ [c.pc] ++ (List.range 4).map (fun i => c.f.getD i 0#64) ++
  [c.gid, W (c.cls.toNat + 4 * c.eff.toNat + 16 * c.st.toNat + 2 ^ 16 * c.full.toNat), c.lk]

/-- The light context of 56 words. -/
def ctxOfWords (ws : List Word) : LightCtx :=
  let c := ws.getD 54 0#64
  { g := ws.take 48, pc := ws.getD 48 0#64, f := (ws.drop 49).take 4, gid := ws.getD 53 0#64, cls := c.extractLsb' 0 2,
    eff := c.extractLsb' 2 2, st := c.extractLsb' 4 8, full := c.extractLsb' 16 48, lk := ws.getD 55 0#64 }

/-- The eight words of a replay entry (R255). -/
def entryWords (e : REntry) : List Word :=
  [e.inst, W (1 + 2 * e.slot.toNat + 8 * e.perf.toNat + 16 * e.fault.toNat + 32 * e.action.toNat), e.pc, e.opA, e.opB,
   e.opC, e.addr, e.result]

/-- The replay entry of eight words. -/
def entryOfWords (w : List Word) : REntry :=
  let c := w.getD 1 0#64
  { inst := w.getD 0 0#64, slot := c.extractLsb' 1 2, perf := c.getLsbD 3, fault := c.getLsbD 4, action := c.getLsbD 5,
    pc := w.getD 2 0#64, opA := w.getD 3 0#64, opB := w.getD 4 0#64, opC := w.getD 5 0#64, addr := w.getD 6 0#64,
    result := w.getD 7 0#64 }

/-- CAUSEW (R255). -/
def frameCausew (f : Frame) : Word :=
  W (f.cause.toNat + 2 ^ 8 * f.entries.length + 2 ^ 12 * f.faultIdx.toNat + 2 ^ 16 * f.pcause.toNat + 2 ^ 24 * f.deferred.toNat +
     2 ^ 25 * f.dead.toNat + 2 ^ 26 * f.notify.toNat + 2 ^ 27 * f.gang.toNat + 2 ^ 28 * f.lane.toNat + 2 ^ 31 * f.glanes.toNat)

/-- The 128 words of a frame (R255). DESIGN CHOICE, log 17. -/
def frameWords (f : Frame) : List Word :=
  ctxWords f.ctx ++ [frameCausew f, f.faddr, f.fpc, f.origin, f.tb, f.token, 0#64, 0#64] ++
  (f.entries.take 8).flatMap entryWords ++ List.replicate (8 * (8 - f.entries.length)) 0#64

/-- The frame of 128 words. -/
def frameOfWords (w : List Word) : Frame :=
  let c := w.getD 56 0#64
  { ctx := ctxOfWords (w.take 56), cause := c.extractLsb' 0 8, faultIdx := c.extractLsb' 12 4, pcause := c.extractLsb' 16 8,
    deferred := c.getLsbD 24, dead := c.getLsbD 25, notify := c.getLsbD 26, gang := c.getLsbD 27, lane := c.extractLsb' 28 3,
    glanes := c.extractLsb' 31 8, faddr := w.getD 57 0#64, fpc := w.getD 58 0#64, origin := w.getD 59 0#64, tb := w.getD 60 0#64,
    token := w.getD 61 0#64,
    entries := (List.range (min (bf c 8 4) 8)).map fun i => entryOfWords ((w.drop (64 + 8 * i)).take 8) }

/-- TQBASE of a partition: base and LOG2N (R256). -/
def State.tqBase (s : State) (q : Nat) : Nat := s.fld 11 0 (0x100 * q + 8) 12 45 * 4096

/-- LOG2N of a trap queue. -/
def State.tqLog (s : State) (q : Nat) : Nat := s.fld 11 0 (0x100 * q + 8) 0 5

/-- PROD and CONS of a trap queue, if readable. -/
def State.tqHead (s : State) (q : Nat) : State × Option (Nat × Nat) :=
  match s.engNums q (s.tqBase q) 4 1 with
  | (s1, .error _) => (s1, none)
  | (s1, .ok p) => match s1.engNums q (s.tqBase q + 64) 4 1 with
    | (s2, .error _) => (s2, none)
    | (s2, .ok c) => (s2, some (p.headD 0, c.headD 0))

/-- The slot of position `i` of a trap queue (R256). -/
def State.tqSlot (s : State) (q i : Nat) : Nat := s.tqBase q + 4096 + 1024 * (i % 2 ^ s.tqLog q)

/-- The trap queue of partition `q` cannot be reached now: a stack that holds a page of it rehashes, or the page is being moved (R44, R234). -/
def State.tqStalls (s : State) (q : Nat) : Bool :=
  let a := s.tqBase q
  (List.range ((a % 65536 + 4096 + 1024 * 2 ^ min (s.tqLog q) 12 + 65535) / 65536)).any fun i =>
    s.engStall q (if i = 0 then a else a / 65536 * 65536 + 65536 * i)

/-- A frame offered to the trap queue of partition `q` (R256): accepted into slot PROD, or refused and counted. -/
def State.tqAccept (s : State) (q : Nat) (f : Frame) : State × Bool :=
  let no := fun (s : State) => (s.setReg 11 0 (0x100 * q + 0x10) (s.reg 11 0 (0x100 * q + 0x10) + 1#64), false)
  if s.tqLog q < 2 ∨ 12 < s.tqLog q then no s
  else match s.tqHead q with
    | (s1, none) => no s1
    | (s1, some (prod, cons)) =>
      if (prod + 2 ^ 32 - cons) % 2 ^ 32 = 2 ^ s.tqLog q then no s1
      else if s1.meetsPoison q (s.tqSlot q prod) 1024 then no s1
      else match s1.engPut q (s.tqSlot q prod) (frameWords f) with
        | .error _ => no s1
        | .ok s2 => match s2.engWrite q (s.tqBase q) 4 ((prod + 1) % 2 ^ 32) with
          | .error _ => no s2
          | .ok s3 => (s3, true)

/-- DEAD set in the frame of an origin and token that a trap queue holds (R145, R259): the slots are searched in
ascending position. -/
def State.frameDead (s : State) (q : Nat) (origin token : Word) : State :=
  if s.tqLog q < 2 ∨ 12 < s.tqLog q then s
  else (List.range (2 ^ s.tqLog q)).foldl (fun s i =>
    let a := s.tqSlot q i
    match s.engWords q (a + 448) 6 with
    | (s1, .error _) => s1
    | (s1, .ok ws) =>
      if ws.getD 3 0#64 = origin ∧ ws.getD 5 0#64 = token then
        match s1.engWrite q (a + 448) 8 (ws.getD 0 0#64 ||| 0x2000000#64).toNat with
        | .ok s2 => s2
        | .error _ => s1
      else s1) s

/-- A frame of partition `q` offered to the fault server that was named when it was raised, or, where none was, to the one named now
(R122, R256): without a valid server NOFS is set and the frame is kept; a server on this device takes it into a trap queue or refuses it, or is not reached while
the queue stalls (R44); otherwise it is sent as TRAPFRAME. -/
def State.offerFrame (s : State) (q : Nat) (f : Frame) (dest : Option (Nat × Nat)) : State × Bool :=
  match dest.or (s.server q) with
  | none => (s.partStat q 3, false)
  | some (dev, p) =>
    if dev = s.devId then (if s.tqStalls p then (s, false) else s.tqAccept p f)
    else (s.emit { s.blank 0x34 17 dev true with sdie := BitVec.ofNat 3 (bf f.origin 50 3), ks := BitVec.ofNat 45 p, pay := frameWords f }, true)

/-- A frame that its partition keeps, with the server that is to have it. -/
def State.keepNote (s : State) (q : Nat) (f : Frame) (dest : Option (Nat × Nat)) : State :=
  s.setPart q { s.partAt q with notes := (s.partAt q).notes ++ [(f, dest)] }

/-- A notification of a device event (R260). -/
def State.note (s : State) (d cause faddr q : Nat) : Frame × State :=
  let (tok, s) := s.fresh
  ({ ctx := ctxOfWords [], cause := BitVec.ofNat 8 cause, faultIdx := 15#4, pcause := 0#8, deferred := false, dead := false,
     notify := true, gang := false, lane := 0#3, glanes := 0#8, faddr := W faddr, fpc := 0#64,
     origin := W (s.devId * 2 ^ 53 + d * 2 ^ 50 + q * 2 ^ 37), tb := s.tb d, token := tok, entries := [] }, s)

/-- A partition notified: a refused frame is kept and offered again (R256). -/
def State.notify (s : State) (d cause faddr q : Nat) : State :=
  let (f, s) := s.note d cause faddr q
  match s.offerFrame q f (s.server q) with
  | (s1, true) => s1
  | (s1, false) => s1.keepNote q f (s.server q)

/-- The partitions that hold die `d` and run notified. -/
def State.notifyDie (s : State) (d cause faddr : Nat) : State :=
  match s.partOfDie d with
  | some q => if s.running q then s.notify d cause faddr q else s
  | none => s

/-- The notifications that a partition keeps offered again (R256). -/
def State.offerNotes (s : State) (q : Nat) : State :=
  let ns := (s.partAt q).notes
  let s0 := s.setPart q { s.partAt q with notes := [] }
  ns.foldl (fun s (f, to_) => match s.offerFrame q f to_ with
    | (s1, true) => s1
    | (s1, false) => s1.keepNote q f to_) s0

/-- The frames of a partition that no server was to have go to the server that FSRV names now (R122). -/
def State.bindFrames (s : State) (q : Nat) : State :=
  let v := s.server q
  let s1 : State := { s with cells := s.cells.map fun (n, c) => (n, { c with slots := c.slots.map fun (k, t) => (k, t.map fun t =>
    if t.part = q ∧ t.stop.isSome then { t with dest := t.dest.or v } else t) }) }
  s1.setPart q { s1.partAt q with notes := (s1.partAt q).notes.map fun (f, d) => (f, d.or v) }

end Sys2Proof.Machine
end

