-- ==== Sys2Proof/Machine/Sched.lean ====
section
/-! DEFINITION. The task scheduler (spec/07 R127 to R150): rings, admission, ready queues, placement, dispatch, the end of
tasks and graphs, cancel and kill, priority lending and ballast. -/
namespace Sys2Proof.Machine

/-! ## Graphs -/

/-- A live graph by owning die, partition and number (R127). -/
def State.graph? (s : State) (d q n : Nat) : Option Graph := s.graphs.find? fun g => g.die == d && g.part == q && g.num == n

/-- The state with a live graph replaced. -/
def State.setGraph (s : State) (g : Graph) : State :=
  { s with graphs := s.graphs.map fun x => if x.die = g.die ∧ x.part = g.part ∧ x.num = g.num then g else x }

/-- The graph with a task replaced. -/
def Graph.setTask (g : Graph) (i : Nat) (t : Task) : Graph := { g with tasks := g.tasks.set i t }

/-- The gid of task `i` of a graph of this device (R127). -/
def State.gid (s : State) (d q n i : Nat) : Word := W (s.devId * 2 ^ 53 + d * 2 ^ 50 + q * 2 ^ 47 + n * 2 ^ 32 + i)

/-- The live graph that a gid of this device names. -/
def State.graphOf (s : State) (gid : Word) : Option Graph :=
  if bf gid 53 11 = s.devId then s.graph? (bf gid 50 3) (bf gid 47 3) (bf gid 32 15) else none

/-- The class at which a task is queued and borrows: its own or the lent one (R147). -/
def Task.eff (t : Task) : Nat := max t.cls t.lent

/-- A task has ended (R145). -/
def TaskState.ended : TaskState → Bool
  | .done => true
  | .cancelled => true
  | .killed => true
  | _ => false

/-! ## Ready queues -/

/-- The ready queue of a class on a die (R132). -/
def State.ready (s : State) (d c : Nat) : List QEntry := tget (fun _ => []) (s.dieAt d).ready c

/-- The state with a ready queue set. -/
def State.setReady (s : State) (d c : Nat) (l : List QEntry) : State :=
  s.setDie d { s.dieAt d with ready := tput (s.dieAt d).ready c l }

/-- A queue entry put in its place by release order (R147). -/
def qinsert (e : QEntry) : List QEntry → List QEntry
  | [] => [e]
  | x :: r => if e.stamp < x.stamp then e :: x :: r else x :: qinsert e r

/-- The entry of a task of a graph. -/
def QEntry.isOf (e : QEntry) (g : Graph) (i : Nat) : Bool := e.die == g.die && e.part == g.part && e.num == g.num && e.task == i

/-- A task taken out of a ready queue; a new head has passed nothing yet (R132). -/
def State.unqueue (s : State) (d c : Nat) (g : Graph) (i : Nat) : State :=
  let l := s.ready d c
  let s' := s.setReady d c (l.filter fun e => !e.isOf g i)
  match l with
  | e :: _ => if e.isOf g i then s'.setDie d { s'.dieAt d with passes := tput (s'.dieAt d).passes c 0 } else s'
  | [] => s'

/-! ## Release -/

/-- The die and the data port of an affinity address (R134): none where it falls elsewhere than in the HBM of a die of
the partition. -/
def State.affinity (s : State) (q : Nat) (aff : Word) : Option (Nat × Nat) :=
  if aff = 0#64 ∨ !isPaged aff.toNat ∨ aff.toNat / 2 ^ 57 ≠ 0 then none
  else match s.walk q aff.toNat with
    | none => none
    | some l => match l.loc aff.toNat with
      | .hbm a =>
        let d := a / 2 ^ 37
        if s.dieIn q d then some (d, 64 * d + 8 * (s.channel a / 4) + (if a / 2 ^ 36 % 2 = 0 then 0 else 7)) else none
      | _ => none

/-- The die that the spread pointer of a partition on an owning die names (R133). -/
def State.spreadDie (s : State) (d q : Nat) : Nat := tget (fun _ => d) (s.dieAt d).spread q

/-- The next die of a partition in ascending order, wrapping (R133). -/
def State.nextDie (s : State) (q d : Nat) : Nat :=
  match (s.diesOf q).find? fun x => decide (d < x) with
  | some x => x
  | none => (s.diesOf q).headD d

/-- A task released into the ready queue of the die that placement chooses (R132 to R134). -/
def State.release (s : State) (g : Graph) (i : Nat) : State :=
  match (s.graph? g.die g.part g.num).bind (·.tasks[i]?) with
  | none => s
  | some t =>
    match t.state with
    | .waiting =>
      let aff := s.affinity g.part t.aff
      let d := match t.policy with
        | 0 => (aff.map (·.1)).getD g.die
        | 3 => s.spreadDie g.die g.part
        | _ => t.pin % 8
      let port := match aff with
        | some (_, p) => if t.policy ≠ 3 ∧ p / 64 = d then some p else none
        | none => none
      let s := if t.policy = 3 then s.setDie g.die { s.dieAt g.die with spread := tput (s.dieAt g.die).spread g.part (s.nextDie g.part d) } else s
      let g' := (s.graph? g.die g.part g.num).getD g
      let s := s.setGraph (g'.setTask i { t with state := .ready d t.cls, port := port })
      let s := s.setReady d t.eff (s.ready d t.eff ++ [{ die := g.die, part := g.part, num := g.num, task := i, stamp := s.stamp }])
      { s with stamp := s.stamp + 1 }
    | _ => s

/-! ## Placement -/

/-- The threads that hold slots of a cell in a context bank. -/
def State.threadsOf (s : State) (n b : Nat) : List (Nat × Thread) :=
  (s.cellAt n).slots.filterMap fun (k, t) => if k / 16 = b then t.map fun t => (k, t) else none

/-- The lowest start of `c` free 4 KiB blocks in a row, given the used byte ranges (R135, DEDUCED, log 18). -/
def firstFit (used : List (Nat × Nat)) (size : Nat) : Option Nat :=
  (((List.range 1024).map (4096 * ·)).find? fun a =>
    decide (a + size ≤ 2 ^ 22) && used.all fun (b, n) => n == 0 || decide (a + size ≤ b) || decide (b + n ≤ a))

/-- Free thread slots of a cell, counting only the threads that `keep` keeps. -/
def State.freeSlots (s : State) (n b : Nat) (keep : Thread → Bool) : List Nat :=
  (List.range 16).filter fun k => match s.thr? n (16 * b + k) with
    | some t => !keep t
    | none => true

/-- Free registers among `m`, given those used. -/
def freeRegs (m : Nat) (used : List Nat) : List Nat := (List.range m).filter fun r => !used.contains r

/-- A cell fits a task (R135), leaving free what ballast must leave (R148). -/
def State.fits (s : State) (n b : Nat) (keep : Thread → Bool) (t : Task) : Bool :=
  let ts := ((s.threadsOf n b).map (·.2)).filter keep
  let tiles := (freeRegs 32 (ts.flatMap (·.tiles))).length
  let strms := (freeRegs 16 (ts.flatMap (·.strms))).length
  let used := ts.map fun t => (t.sb.toNat % 2 ^ 22, t.ss.toNat)
  let free := 2 ^ 22 - (used.map (·.2)).sum
  let slots := (s.freeSlots n b keep).length
  decide (t.ntile ≤ tiles) && decide (t.nstrm ≤ strms) && (firstFit used t.scratch).isSome && decide (0 < slots) &&
    (t.cls != 0 || (decide (2 ≤ slots) && decide (t.ntile + 8 ≤ tiles) && decide (t.scratch + 2 ^ 20 ≤ free)))

/-- The run of `g` cells with a leader, along its row or its column (R135). -/
def runOf (lead g : Nat) (row : Bool) : Option (List Nat) :=
  if row then (if lead % 8 + g ≤ 8 then some ((List.range g).map (lead + ·)) else none)
  else (if lead % 64 / 8 + g ≤ 8 then some ((List.range g).map (lead + 8 * ·)) else none)

/-- The runs with a leader that GDIR allows (R129); a row before a column (DEDUCED, log 18). -/
def runsOf (lead g gdir : Nat) : List (List Nat) :=
  (if gdir ≠ 2 then (runOf lead g true).toList else []) ++ (if gdir ≠ 1 then (runOf lead g false).toList else [])

/-- Manhattan distance of two cells of a die (R134). -/
def meshDist (a b : Nat) : Nat :=
  let dr := (a % 64 / 8 : Int) - (b % 64 / 8 : Int)
  let dc := (a % 8 : Int) - (b % 8 : Int)
  dr.natAbs + dc.natAbs

/-- A run of fitting cells with a thread slot that is free on every cell (R135, R174). -/
def State.runFits (s : State) (b : Nat) (keep : Thread → Bool) (t : Task) (run : List Nat) : Option Nat :=
  if run.all fun n => s.fits n b keep t then
    (List.range 16).find? fun k => run.all fun n => (s.freeSlots n b keep).contains k
  else none

/-- The cells and the slot at which a task is placed on a die (R133, R135). -/
def State.placement (s : State) (d b : Nat) (keep : Thread → Bool) (t : Task) (port : Option Nat) : Option (List Nat × Nat) :=
  let leads := if t.policy = 2 then [64 * d + t.pin / 8 % 64] else (List.range 64).map (64 * d + ·)
  let cands := leads.flatMap fun n => (runsOf n t.gang t.gdir).filterMap fun r => (s.runFits b keep t r).map fun k => (r, k)
  let cost : List Nat × Nat → Nat := fun c => match port with
    | some p => meshDist p (c.1.headD 0)
    | none => 0
  cands.foldl (fun best c => match best with
    | none => some c
    | some x => if cost c < cost x then some c else some x) none

/-! ## Dispatch -/

/-- The registers of a class taken for a task: banks that are on first, then in retention, then off, each lowest number
first (R180). -/
def State.allocRegs (s : State) (n m off cnt : Nat) (used : List Nat) : List Nat :=
  let free := freeRegs m used
  let at_ := fun p => free.filter fun r => s.bankPower n (off + r / 8) == p
  let got := (at_ 0 ++ at_ 1 ++ at_ 2).take cnt
  (List.range m).filter fun r => got.contains r

/-- A power bank made on, in its state and in CBANK (R180, R182). -/
def State.bankOn (s : State) (n b : Nat) : State :=
  let c := s.cellAt n
  s.setCell n { c with power := tput c.power b 0, cbank := bset c.cbank (2 * b) 2 0, idle := tput c.idle b s.cycle }

/-- The seed of a task (R137). -/
def taskSeed (seed : Word) (i : Nat) : Word :=
  chash (seed.extractLsb' 32 32) (BitVec.ofNat 32 i) ++ chash (seed.extractLsb' 0 32) (BitVec.ofNat 32 i)

/-- The thread of lane `l` of a task on cell `n`, with its allocations (R137). -/
def State.newThread (s : State) (g : Graph) (i : Nat) (t : Task) (cells : List Nat) (l n base : Nat) (tiles strms : List Nat) : Thread :=
  { Thread.init with
    gid := s.gid g.die g.part g.num i, part := g.part, die := g.die, graph := g.num, task := i, cls := t.cls, dcls := t.cls,
    lent := t.lent, bgrp := t.bgrp, g := [(60, taskSeed g.seed i)],
    f := tofn 0 4 (fun j => let o := t.fmts.getD j 0#32; if o = 0xFFFFFFFF#32 then 0#64 else g.arg + o.zeroExtend 64),
    pc := t.entry, npc := t.entry, sb := W (0xFF * 2 ^ 48 + n / 64 * 2 ^ 28 + n % 64 * 2 ^ 22 + base), ss := W t.scratch,
    arg := g.arg, lane := l, lanes := if t.gang = 1 then [] else cells, tiles := tiles, strms := strms }

/-- One lane committed: registers and scratch allocated and zeroed, the thread put in its slot (R137, R180). -/
def State.commitLane (s : State) (g : Graph) (i : Nat) (t : Task) (cells : List Nat) (k l n : Nat) : State :=
  let b := g.bank
  let ts := (s.threadsOf n b).map (·.2)
  let base := (firstFit (ts.map fun t => (t.sb.toNat % 2 ^ 22, t.ss.toNat)) t.scratch).getD 0
  let tiles := s.allocRegs n 32 0 t.ntile (ts.flatMap (·.tiles))
  let strms := s.allocRegs n 16 4 t.nstrm (ts.flatMap (·.strms))
  let th := s.newThread g i t cells l n base tiles strms
  let s := tiles.foldl (fun s r => (s.bankOn n (r / 8)).setTileAt n b r Tile.init) s
  let s := strms.foldl (fun s r => (s.bankOn n (4 + r / 8)).setStrmAt n b r Strm.init) s
  let c := s.cellAt n
  let lo := b * 2 ^ 22 + base
  let s := s.setCell n { c with scratch := c.scratch.filter (fun e => e.1 < lo || lo + t.scratch ≤ e.1),
                                badWords := c.badWords.filter (fun w => 8 * w < lo || lo + t.scratch ≤ 8 * w) }
  (s.setThrAt n (16 * b + k) th).traceAt 2 0 n (16 * b + k) t.entry

/-- Dispatch of a task to a slot of every cell of its gang (R137). -/
def State.dispatch (s : State) (g : Graph) (i : Nat) (t : Task) (d : Nat) (cells : List Nat) (k : Nat) : State :=
  let s := (List.range cells.length).foldl (fun s l => s.commitLane g i t cells k l (cells.getD l 0)) s
  let s := { s with stamp := s.stamp + 1 }
  s.setGraph (g.setTask i { t with state := .dispatched d cells k, stamp := s.stamp })

/-- The gate of a die admits ballast (R15, R148). -/
def State.gateOpen (s : State) (d : Nat) : Bool :=
  let x := s.dieAt d
  s.fld 1 0 0x300 2 1 == 1 && x.throttle == 0 && decide ((8 * x.watts : Int) < x.setpoint)

/-- The task of a queue entry, with its graph. -/
def State.entryTask (s : State) (e : QEntry) : Option (Graph × Task) :=
  (s.graph? e.die e.part e.num).bind fun g => (g.tasks[e.task]?).map fun t => (g, t)

/-- A queued task may be dispatched now on die `d`: its bank is active, its partition runs, ballast passes the gate, and
it can be placed. -/
def State.placeable (s : State) (d : Nat) (e : QEntry) : Option (Graph × Task × List Nat × Nat) :=
  match s.entryTask e with
  | none => none
  | some (g, t) =>
    if s.bankOf g.part ≠ g.bank ∨ (s.partAt g.part).switching ∨ !s.running g.part ∨ (t.cls = 0 ∧ !s.gateOpen d) then none
    else (s.placement d g.bank (fun _ => true) t t.port).map fun (cs, k) => (g, t, cs, k)

/-- What a class would dispatch (R132): its head, or a later task that may pass it; `true` where it passes. -/
def State.servable (s : State) (d c : Nat) : Option (Bool × QEntry × Graph × Task × List Nat × Nat) :=
  match s.ready d c with
  | [] => none
  | e :: r =>
    match s.placeable d e with
    | some x => some (false, e, x)
    | none =>
      if 64 ≤ tget (fun _ => 0) (s.dieAt d).passes c then none
      else (r.findSome? fun e => (s.placeable d e).map fun x => (true, e, x))

/-- The bypass count of a class (R132). -/
def State.bypassOf (s : State) (d c : Nat) : Nat := tget (fun _ => 0) (s.dieAt d).bypass c

/-- The state with a bypass count set. -/
def State.setBypass (s : State) (d c v : Nat) : State := s.setDie d { s.dieAt d with bypass := tput (s.dieAt d).bypass c v }

/-- TASK_DISPATCH: at most one task of a die (R132). -/
def execTaskDispatch (d : Nat) (s : State) : Host.Outcome State Fault Refusal :=
  .next (
    let can := fun c => (s.servable d c).isSome
    let c? := if 16 ≤ s.bypassOf d 2 ∧ can 2 then some 2
      else if 16 ≤ s.bypassOf d 1 ∧ can 1 then some 1
      else [3, 2, 1, 0].find? can
    match c? with
    | none => s
    | some c =>
      match s.servable d c with
      | none => s
      | some (passes, e, g, t, cs, k) =>
        let s1 := s.unqueue d c g e.task
        let s1 := if passes then s1.setDie d { s1.dieAt d with passes := tput (s1.dieAt d).passes c (tget (fun _ => 0) (s1.dieAt d).passes c + 1) } else s1
        let s2 := s1.dispatch g e.task t d cs k
        let s3 := [1, 2].foldl (fun x c' => if c' < c ∧ can c' then x.setBypass d c' (x.bypassOf d c' + 1) else x) s2
        if c = 1 ∨ c = 2 then s3.setBypass d c 0 else s3)

/-- Hops between two dies over the interposer (R8, R136). -/
def dieHops (a b : Nat) : Nat :=
  let dr := (a / 4 : Int) - (b / 4 : Int)
  let dc := (a % 4 : Int) - (b % 4 : Int)
  dr.natAbs + dc.natAbs

/-- TASK_OFFER: the head of a class has waited 50 us on die `d`: an unpinned task that fits nowhere there is placed on
the first other die of the partition that fits it (R136, R150). -/
def execTaskOffer (d cls : Nat) (s : State) : Host.Outcome State Fault Refusal :=
  .next (match s.ready d cls with
    | [] => s
    | e :: _ =>
      match s.entryTask e with
      | none => s
      | some (g, t) =>
        if t.cls = 0 ∨ t.policy = 1 ∨ t.policy = 2 ∨ (s.placeable d e).isSome then s
        else
          let others := (s.diesOf g.part).filter (· ≠ d)
          let byHops := (List.range 5).flatMap fun h => others.filter fun x => dieHops d x == h
          match byHops.findSome? fun x => (s.placeable x e).map fun r => (x, r) with
          | none => s
          | some (x, g, t, cs, k) => (s.unqueue d cls g e.task).dispatch g e.task t x cs k)

/-! ## Barrier rounds and lending -/

/-- The dispatched threads of a task: cell and slot key. -/
def Graph.threads (g : Graph) (t : Task) : List (Nat × Nat) :=
  match t.state with
  | .dispatched _ cs k => cs.map fun n => (n, 16 * g.bank + k)
  | _ => []

/-- The task indices of a barrier group (R147). -/
def Graph.group (g : Graph) (b : Nat) : List (Nat × Task) :=
  (List.range g.tasks.length).filterMap fun i => (g.tasks[i]?).bind fun t => if t.bgrp = b then some (i, t) else none

/-- A thread is parked in a barrier round. -/
def Wait.round? : Wait → Option (Nat × Word)
  | .tbar r pc => .some (r, pc)
  | _ => .none

/-- The class of a task of a group changed by lending: a queued task moves by release order, the threads of a dispatched
one borrow at it (R147). -/
def State.lend (s : State) (g : Graph) (i : Nat) (c : Nat) : State :=
  match (s.graph? g.die g.part g.num).bind (·.tasks[i]?) with
  | none => s
  | some t =>
    let t' := { t with lent := c }
    let g' := (s.graph? g.die g.part g.num).getD g
    let s1 := s.setGraph (g'.setTask i t')
    match t.state with
    | .ready d _ =>
      if t.eff = t'.eff then s1
      else match (s.ready d t.eff).find? fun e => e.isOf g i with
        | none => s1
        | some e => let x := s1.unqueue d t.eff g i; x.setReady d t'.eff (qinsert e (x.ready d t'.eff))
    | .dispatched _ _ _ => (g.threads t).foldl (fun s (n, k) => s.setThrAt n k { s.thrAt n k with lent := c }) s1
    | _ => s1

/-- Lending in a barrier group as its parked threads stand (R147, R150). -/
def State.relend (s : State) (g : Graph) (b : Nat) : State :=
  let ms := g.group b
  let parked := ms.flatMap fun (_, t) => (g.threads t).filterMap fun (n, k) =>
    ((s.thrAt n k).wait.round?).map fun (r, _) => (r, (s.thrAt n k).cls)
  let r := parked.foldl (fun m x => max m x.1) 0
  let c := parked.foldl (fun m x => max m x.2) 0
  ms.foldl (fun s (i, t) => if t.cls = 0 ∨ t.state.ended then s else s.lend g i (if t.arrived < r then c else 0)) s

/-- The lending of a barrier group brought up to date (R147). -/
def State.roundLend (s : State) (d q n b : Nat) : State :=
  match s.graph? d q n with
  | none => s
  | some g => s.relend g b

/-- A barrier round completes once every task of the group has entered it or has ended (R147, R310): the monitors are
compared (R365), then the tasks proceed, or take DRIFT at the tbar (R366). -/
def State.roundCheck (s : State) (d q n b : Nat) : State :=
  match s.graph? d q n with
  | none => s
  | some g =>
    let ms := g.group b
    let parked := ms.flatMap fun (_, t) => (g.threads t).filter fun (c, k) => ((s.thrAt c k).wait.round?).isSome
    match parked with
    | [] => s.relend g b
    | (c0, k0) :: _ =>
      let r := (((s.thrAt c0 k0).wait.round?).map (·.1)).getD 0
      if ms.all fun (_, t) => t.state.ended || decide (r ≤ t.arrived) then
        let (s1, mask) := s.compareRound q d n b
        let s2 := parked.foldl (fun s (c, k) =>
          let t := s.thrAt c k
          let pc := ((t.wait.round?).map (·.2)).getD t.pc
          s.setThrAt c k { t with wait := if mask = 0 then .none else .drift (W mask) pc }) s1
        s2.relend g b
      else s.relend g b

/-- The rounds that are complete at the end of a cycle, behind every write that it has brought (R365). -/
def State.roundsAll (s : State) : State :=
  s.graphs.foldl (fun s g => (g.tasks.foldl (fun l t => if t.bgrp = 0 || l.contains t.bgrp then l else l ++ [t.bgrp]) []).foldl
    (fun s b => s.roundCheck g.die g.part g.num b) s) s

/-! ## The end of tasks -/

/-- The kind of the record of an ended task (R141). -/
def TaskState.kind : TaskState → Nat
  | .cancelled => 2
  | .killed => 3
  | _ => 1

/-- The cell channels that a task armed are disarmed (R363). -/
def State.disarm (s : State) (n : Nat) (gid : Word) : State :=
  let c := s.cellAt n
  if c.chans.isEmpty then s
  else s.setCell n { c with chans := watchAll c.chans fun x => if x.owner = gid then Chan.init else x }

/-- TASK_END: once every lane has ended and every posted access is acknowledged, the record enters the queue and the
slots, registers and scratch return to their cells (R139). -/
def State.taskEnd (s : State) (gid : Word) : State :=
  match s.graphOf gid with
  | none => s
  | some g =>
    let i := bf gid 0 32
    match g.tasks[i]? with
    | none => s
    | some t =>
      let here := s.cells.flatMap fun (n, c) => c.slots.filterMap fun (k, th) =>
        th.bind fun th => if th.gid = gid then some (n, k, th) else none
      let go := !here.isEmpty && here.all (fun (_, _, th) => th.ended && th.posted.isEmpty) && s.evRoom g.die
      let killed : Bool := decide (t.state = .killed)
      if !go then s
      else
        let s1 := here.foldl (fun s (n, k, _) => ((s.traceAt 3 0 n k (s.thrAt n k).pc).disarm n gid).setThr? n k none) s
        let st : TaskState := if killed then .killed else .done
        let s2 := s1.setGraph ({ g with ndone := if killed then g.ndone else g.ndone + 1, lostAny := g.lostAny || killed }.setTask i { t with state := st, lent := 0 })
        let s3 := s2.pushEvent g.die st.kind 0 0 gid
        if t.bgrp = 0 then s3 else s3.roundLend g.die g.part g.num t.bgrp

/-- TASK_END. -/
def execTaskEnd (gid : Word) (s : State) : Host.Outcome State Fault Refusal := .next (s.taskEnd gid)

/-- Task `i` of a graph cancelled before it is dispatched: it ends without running (R145). -/
def State.cancelTask (s : State) (g : Graph) (i : Nat) (t : Task) : State :=
  let s1 := match t.state with
    | .ready d _ => s.unqueue d t.eff g i
    | _ => s
  let s2 := s1.setGraph ({ g with lostAny := true }.setTask i { t with state := .cancelled, lent := 0 })
  let s3 := s2.pushEvent g.die 2 0 0 (s.gid g.die g.part g.num i)
  if t.bgrp = 0 then s3 else s3.roundLend g.die g.part g.num t.bgrp

/-- A register whose pending write is discarded (R183). -/
def State.dropPending (s : State) (n k : Nat) : State :=
  let t := s.thrAt n k
  let b := k / 16
  let s1 := t.tiles.foldl (fun s r => s.setTileAt n b r { s.tileAt n b r with pending := false }) s
  t.strms.foldl (fun s r => s.setStrmAt n b r { s.strmAt n b r with pending := false }) s1

/-- One thread of a killed task stops at its bundle boundary, wherever it runs: waits, outstanding instructions, pending
writes, producing stores that have not performed (R246) and a held frame are discarded; a frame at the fault server to which it was sent (R122) is
marked dead by FRAMEDEAD (R145, R259), a packet to itself where the queue of that server on this device cannot be reached now (R44). -/
def State.killThread (s : State) (n k : Nat) : State :=
  let t := s.thrAt n k
  let s1 := ((s.withdraw n k true).dropGuest n k).dropPending n k
  let s2 := match t.stop with
    | some fr =>
      if !t.sent then s1
      else
      let s1 := s1.setPart t.part { s1.partAt t.part with killed := (s1.partAt t.part).killed ++ [(fr.origin, fr.token)] }
      match t.dest.or (s1.server t.part) with
        | none => s1
        | some (dev, q) =>
          if dev = s1.devId ∧ !s1.tqStalls q then s1.frameDead q fr.origin fr.token
          else s1.emit { s1.blank 0x36 1 dev true with pay := [fr.origin, fr.token] }
    | none => s1
  s2.setThrAt n k { s2.thrAt n k with stop := none, sent := false, out := [], wait := .none, site := .home, ended := true, replay := [],
                                      posted := (s2.thrAt n k).posted.filter fun p => !p.sync || p.performed || p.isPeer }

/-- A stop of a task that is over is over with it: BUSY clears (R269). -/
def State.dstopEnd (s : State) (q : Nat) (gid : Word) : State :=
  if s.fld 11 0 (0x100 * q + 0x30) 8 1 = 1 ∧ s.reg 11 0 (0x100 * q + 0x28) = gid then s.setFld 11 0 (0x100 * q + 0x30) 8 1 0 else s

/-- Task `i` of a graph killed on every lane (R145). -/
def State.killTask (s : State) (g : Graph) (i : Nat) (t : Task) : State :=
  let s1 := ((g.threads t).foldl (fun s (n, k) => s.killThread n k) s).dstopEnd g.part (s.gid g.die g.part g.num i)
  let g' := (s1.graph? g.die g.part g.num).getD g
  let s2 := s1.setGraph (g'.setTask i { t with state := .killed, lent := 0 })
  s2.taskEnd (s.gid g.die g.part g.num i)

/-- The result of a scheduler command on die `d` (R151). -/
def State.scResult (s : State) (d r count : Nat) : State :=
  (((s.setFld 8 d 0x10 0 4 r).setFld 8 d 0x10 32 32 count).setFld 8 d 0x10 8 1 0)

/-- Every lane of a dispatched task has retired done (R146). -/
def State.allDone (s : State) (g : Graph) (t : Task) : Bool := (g.threads t).all fun (n, k) => (s.thrAt n k).ended

/-- A scheduler command (R145, R146): 1 CANCEL, 2 KILL, 3 CANCELGRAPH, carried out at the owning die; a task whose lanes have all
retired done has ended, its record still to come. A cancellation whose record finds the event queue full waits, BUSY (R141). -/
def State.scmd (s : State) (d op : Nat) : State :=
  let gid := s.reg 8 d 0
  match s.graphOf gid with
  | none => s.scResult d 3 0
  | some g =>
    let i := bf gid 0 32
    let busy := fun (s : State) (n : Nat) => (s.setFld 8 d 0x10 8 1 1).setFld 8 d 0x10 32 32 n
    let had := if s.fld 8 d 0x10 8 1 = 1 then s.fld 8 d 0x10 32 32 else 0
    if op = 3 then
      let all := (List.range g.tasks.length).filter fun j => match (g.tasks[j]?).map (·.state) with
        | some .waiting => true
        | some (.ready _ _) => true
        | _ => false
      let live := all.take (4096 - (s.dieAt g.die).events.length)
      let s1 := live.foldl (fun s j =>
        match s.graph? g.die g.part g.num with
        | none => s
        | some g' => match g'.tasks[j]? with
          | none => s
          | some t => s.cancelTask g' j t) s
      if live.length < all.length then busy s1 (had + live.length) else s1.scResult d 0 (had + live.length)
    else match g.tasks[i]? with
    | none => s.scResult d 3 0
    | some t =>
      match t.state with
      | .waiting => if s.evRoom g.die then (s.cancelTask g i t).scResult d 0 0 else busy s 0
      | .ready _ _ => if s.evRoom g.die then (s.cancelTask g i t).scResult d 0 0 else busy s 0
      | .dispatched _ _ _ =>
        if s.allDone g t then s.scResult d 2 0
        else if op = 1 then s.scResult d 1 0
        else (s.killTask g i t).scResult d 4 0
      | _ => s.scResult d 2 0

/-- CANCEL. -/
def execCancel (d : Nat) (s : State) : Host.Outcome State Fault Refusal := .next (s.scmd d 1)
/-- KILL. -/
def execKill (d : Nat) (s : State) : Host.Outcome State Fault Refusal := .next (s.scmd d 2)
/-- CANCELGRAPH. -/
def execCancelgraph (d : Nat) (s : State) : Host.Outcome State Fault Refusal := .next (s.scmd d 3)

/-- Ballast thread `th` on cell `n` of a run holds something that task `t` lacks there (R135, R149): a thread slot, registers or
scratch, or, where each cell fits, the slot that the run's cells need in common, `slot`. -/
def State.holdsNeeded (s : State) (b : Nat) (t : Task) (run : List Nat) (slot n key : Nat) (th : Thread) : Bool :=
  let ts := (s.threadsOf n b).map (·.2)
  (s.freeSlots n b fun _ => true).isEmpty ||
    (decide ((freeRegs 32 (ts.flatMap (·.tiles))).length < t.ntile) && !th.tiles.isEmpty) ||
    (decide ((freeRegs 16 (ts.flatMap (·.strms))).length < t.nstrm) && !th.strms.isEmpty) ||
    ((firstFit (ts.map fun t => (t.sb.toNat % 2 ^ 22, t.ss.toNat)) t.scratch).isNone && th.ss != 0#64) ||
    (key % 16 == slot && run.all fun n => s.fits n b (fun _ => true) t)

/-- A task is kept from a die by what its cells hold, and by nothing else (R149): its bank is active and its partition runs, but no
run fits. -/
def State.crowdedOut (s : State) (d : Nat) (g : Graph) (t : Task) : Bool :=
  s.bankOf g.part == g.bank && !(s.partAt g.part).switching && s.running g.part &&
    (s.placement d g.bank (fun _ => true) t t.port).isNone

/-- BALLAST_KILL: the head of class 1 to 3 has waited 100 us and would fit without ballast tasks: the most recently
dispatched of those on the best placed cells that hold what it lacks is killed (R149); one that has retired done on every
lane has ended (R146). -/
def execBallastKill (d cls : Nat) (s : State) : Host.Outcome State Fault Refusal :=
  .next (match s.ready d cls with
    | [] => s
    | e :: _ =>
      match s.entryTask e with
      | none => s
      | some (g, t) =>
        if t.cls = 0 ∨ !s.crowdedOut d g t then s
        else match s.placement d g.bank (fun x => x.cls != 0) t t.port with
          | none => s
          | some (run, slot) =>
            let bs := run.flatMap fun n => ((s.threadsOf n g.bank).filter fun (k, th) => th.cls == 0 && s.holdsNeeded g.bank t run slot n k th).filterMap fun (_, th) =>
              (s.graphOf th.gid).bind fun g' => (g'.tasks[th.task]?).map fun t' => (g', th.task, t')
            match bs.foldl (fun m x => match m with
                | none => some x
                | some y => if y.2.2.stamp < x.2.2.stamp then some x else some y) none with
            | none => s
            | some (g', i, t') => match t'.state with
              | .dispatched _ _ _ => if s.allDone g' t' then s else s.killTask g' i t'
              | _ => s)

/-! ## Event records -/

/-- A record appended to the event log of a die (R151): counted always, written where EN, the partition and the
translation allow. -/
def State.logRecord (s : State) (d : Nat) (r : EvRec) : State :=
  let k := (s.reg 8 d 0x20).toNat
  let e := s.reg 8 d 0x18
  let a := bf e 12 45 * 4096 + 16 * (k % 2 ^ bf e 0 5)
  let w0 : Word := W (r.kind.toNat * 2 ^ 56 + r.code.toNat * 2 ^ 48 + r.data.toNat)
  let s1 := if bf e 5 1 = 1 then
      match s.partOfDie d with
      | some q => if s.running q then (match (s.charge d q a 16).engPut q a [w0, r.w1] with | .ok x => x | .error _ => s) else s
      | none => s
    else s
  s1.setReg 8 d 0x20 (W (k + 1))

/-- The completion record of a graph: word 1, then word 0 (R143). -/
def State.writeCompl (s : State) (q : Nat) (compl gid : Word) (ndone code : Nat) : State :=
  match (s.charge (bf gid 50 3) q compl.toNat 16).engWrite q (compl.toNat + 8) 8 gid.toNat with
  | .error _ => s
  | .ok x => match x.engWrite q compl.toNat 8 (ndone * 2 ^ 32 + code) with
    | .error _ => x
    | .ok y => y

/-- EN and the owner of every monitor of a graph that ends are cleared (R364). -/
def State.disown (s : State) (q d n : Nat) : State :=
  (List.range 16).foldl (fun s m =>
    let x := s.monOf q m
    if x.en ∧ x.die = d ∧ x.graph = n then s.setMon q m { x with en := false, die := 0, graph := 0, bgrp := 0, was := none } else s) s

/-- A graph all of whose tasks have ended: its completion record, GRAPHDONE, and its number freed (R143). -/
def State.graphEnd (s : State) (g : Graph) : State :=
  if !g.tasks.all (·.recorded) then s
  else
    let gid := s.gid g.die g.part g.num 0
    let code := if g.lostAny then 2 else 0
    let s1 := s.writeCompl g.part g.compl gid g.ndone code
    let s2 := if g.event then s1.pushEvent g.die 5 code g.ndone gid else s1
    let s2 := s2.disown g.part g.die g.num
    { s2 with graphs := s2.graphs.filter fun x => !(x.die == g.die && x.part == g.part && x.num == g.num) }

/-- The record of an ended task processed: every successor's dependence count falls, and those at zero are released in
list order (R142). -/
def State.taskRecorded (s : State) (gid : Word) : State :=
  match s.graphOf gid with
  | none => s
  | some g =>
    let i := bf gid 0 32
    match g.tasks[i]? with
    | none => s
    | some t =>
      let s1 := s.setGraph (g.setTask i { t with recorded := true })
      let s2 := t.succs.foldl (fun s j =>
        match s.graph? g.die g.part g.num with
        | none => s
        | some g' => match g'.tasks[j]? with
          | none => s
          | some u =>
            let x := s.setGraph (g'.setTask j { u with left := u.left - 1 })
            if u.left - 1 = 0 then x.release g' j else x) s1
      match s2.graph? g.die g.part g.num with
      | none => s2
      | some g' => s2.graphEnd g'

/-- EVENT_RECORD_PROCESS: control core `core` of die `d` takes the first record of its graphs in the queue (R141, R142). -/
def execEventRecordProcess (d core : Nat) (s : State) : Host.Outcome State Fault Refusal :=
  .next (
    let evs := (s.dieAt d).events
    match (evs.take 4096).findIdx? fun r => bf r.w1 32 1 == core with
    | none => s
    | some j =>
      match evs[j]? with
      | none => s
      | some r =>
        let s1 := s.setDie d { s.dieAt d with events := evs.eraseIdx j }
        let k := r.kind.toNat
        let taskev : Bool := match s1.graphOf r.w1 with
          | some g => g.taskev
          | none => false
        let s2 := if k != 1 || taskev then s1.logRecord d r else s1
        if k = 1 ∨ k = 2 ∨ k = 3 then s2.taskRecorded r.w1 else s2)

/-! ## Rings -/

/-- The virtual address of ring descriptor `r` of a bank (R121). -/
def State.ringAt (s : State) (q bank r : Nat) : Nat := s.fld 5 0 (0x40 * q + 0x20 + 8 * bank) 11 46 * 2048 + 32 * r

/-- The four words of a ring descriptor, if they can be read. -/
def State.ringWords (s : State) (q bank r : Nat) : State × Option (List Word) :=
  match s.engWords q (s.ringAt q bank r) 4 with
  | (s1, .ok ws) => (s1, some ws)
  | (s1, .error _) => (s1, none)

/-- A ring descriptor within its limits (R121). -/
def ringOk (ws : List Word) : Bool :=
  let w0 := ws.getD 0 0#64
  let w1 := ws.getD 1 0#64
  (bf w0 61 2 == 1 || bf w0 61 2 == 2) && decide (4 ≤ bf w0 56 5) && decide (bf w0 56 5 ≤ 16) && bf w0 0 56 == 0 &&
    bf w1 57 7 == 0 && bf w1 0 12 == 0 && ws.getD 2 0#64 == 0#64 && ws.getD 3 0#64 == 0#64

/-- RINGERR set (R119, R121). -/
def State.ringErr (s : State) (q : Nat) : State := s.partStat q 2

/-- The die that polls ring `r` of a partition (R128). -/
def State.ringDie (s : State) (q r : Nat) : Nat :=
  let ds := s.diesOf q
  ds.headD 0 + r % (max ds.length 1)

/-- PROD and CONS of a ring at a base address, if readable. -/
def State.ringHead (s : State) (q base : Nat) : State × Option (Nat × Nat) :=
  match s.engNums q base 4 1 with
  | (s1, .error _) => (s1, none)
  | (s1, .ok p) => match s1.engNums q (base + 64) 4 1 with
    | (s2, .error _) => (s2, none)
    | (s2, .ok c) => (s2, some (p.headD 0, c.headD 0))

/-- The slot of a ring at position `p` (R121). -/
def slotVa (base log2n p : Nat) : Nat := base + 256 + 128 * (p % 2 ^ log2n)

/-! ## Admission -/

/-- The header's fields within their limits (R128, R130 code 5). DEDUCED, log 38. -/
def headerOk (h : List Word) : Bool :=
  let w0 := h.getD 0 0#64
  decide (1 ≤ bf w0 0 32) && decide (bf w0 0 32 ≤ 2 ^ 20) && bf w0 34 30 == 0 && bf (h.getD 1 0#64) 0 6 == 0 &&
    bf (h.getD 3 0#64) 0 4 == 0 && (h.drop 5).all (· == 0#64)

/-- A pinned cell from which a run of the gang lies along GDIR (R130 code 6). -/
def pinRun (cid gang gdir : Nat) : Bool := !(runsOf cid gang gdir).isEmpty

/-- The code with which descriptor words are rejected, 0 for none: codes 1 to 7 in order (R129, R130). -/
def State.taskCode (s : State) (q : Nat) (w : List Word) (before : List Task) : Nat :=
  let w1 := w.getD 1 0#64
  let gang := bf w1 0 4
  let gdir := bf w1 4 2
  let cls := bf w1 24 2
  let pol := bf w1 26 2
  let scr := bf w1 32 32
  let w7 := w.getD 7 0#64
  let pin := bf w7 0 16
  let bg := bf w7 16 8
  let fmtOk := fun (v : Nat) => v % 64 == 0 || v == 0xFFFFFFFF
  if !(gang == 1 || gang == 2 || gang == 4 || gang == 8) then 1
  else if 32 < bf w1 8 8 then 2
  else if 16 < bf w1 16 8 then 3
  else if 2 ^ 22 < scr ∨ scr % 4096 ≠ 0 then 4
  else if bf (w.getD 0 0#64) 0 3 ≠ 0 ∨ bf w1 6 2 ≠ 0 ∨ bf w1 28 4 ≠ 0 ∨ gdir = 3 ∨
      !(fmtOk (bf (w.getD 2 0#64) 0 32) && fmtOk (bf (w.getD 2 0#64) 32 32) && fmtOk (bf (w.getD 3 0#64) 0 32) && fmtOk (bf (w.getD 3 0#64) 32 32)) ∨
      2 ^ 20 < bf (w.getD 5 0#64) 0 32 ∨ 2 ^ 20 < bf (w.getD 5 0#64) 32 32 ∨ bf (w.getD 6 0#64) 0 2 ≠ 0 ∨
      pin / 512 ≠ 0 ∨ bf w7 24 40 ≠ 0 ∨ ((pol = 0 ∨ pol = 3) ∧ pin ≠ 0) ∨ (pol = 1 ∧ pin / 8 ≠ 0) then 5
  else if (pol = 1 ∨ pol = 2) ∧ !s.dieIn q (pin % 8) then 6
  else if pol = 2 ∧ !pinRun (pin / 8 % 64) gang gdir then 6
  else if bg ≠ 0 ∧ before.any (fun t => t.bgrp == bg && ((t.cls == 0) != (cls == 0))) then 7
  else 0

/-- The task of descriptor words and its successor list. -/
def mkTask (w : List Word) (succs : List Nat) : Task :=
  let w1 := w.getD 1 0#64
  let w2 := w.getD 2 0#64
  let w3 := w.getD 3 0#64
  let w5 := w.getD 5 0#64
  { entry := w.getD 0 0#64, gang := bf w1 0 4, gdir := bf w1 4 2, ntile := bf w1 8 8, nstrm := bf w1 16 8, cls := bf w1 24 2,
    policy := bf w1 26 2, scratch := bf w1 32 32,
    fmts := [w2.extractLsb' 0 32, w2.extractLsb' 32 32, w3.extractLsb' 0 32, w3.extractLsb' 32 32],
    aff := w.getD 4 0#64, deps := bf w5 0 32, left := bf w5 0 32, succs := succs, pin := bf (w.getD 7 0#64) 0 16,
    bgrp := bf (w.getD 7 0#64) 16 8, port := none, state := .waiting, recorded := false, lent := 0, arrived := 0, stamp := 0 }

/-- Every descriptor and successor list, in ascending index, or the first failure as code and index (R130, step 2). -/
def State.readTasks (s : State) (q base i : Nat) (acc : List Task) : Nat → State × Except (Nat × Nat) (List Task)
  | 0 => (s, .ok acc)
  | k + 1 =>
    match s.engWords q (base + 64 * i) 8 with
    | (s1, .error _) => (s1, .error (10, i))
    | (s1, .ok w) =>
      let c := s1.taskCode q w acc
      if c ≠ 0 then (s1, .error (c, i))
      else match s1.engNums q (w.getD 6 0#64).toNat 4 (bf (w.getD 5 0#64) 32 32) with
        | (s2, .error _) => (s2, .error (10, i))
        | (s2, .ok l) => s2.readTasks q base (i + 1) (acc ++ [mkTask w l]) k

/-- The lowest index of a failure of the edges (R130 code 8). -/
def edgeFail (ts : List Task) : Option Nat :=
  let n := ts.length
  let named := ts.flatMap (·.succs)
  (List.range n).find? fun i => match ts[i]? with
    | none => false
    | some t => t.succs.any (fun j => decide (n ≤ j) || j == i) || t.deps != (named.filter (· == i)).length

/-- The lowest graph number free on a die for a partition (R127). -/
def State.freeGraph (s : State) (d q : Nat) : Option Nat := (List.range 32768).find? fun n => (s.graph? d q n).isNone

/-- The admission checks of a header, in order (R130): the tasks, or the code and the index it names. DEDUCED, log 31. -/
def State.checkGraph (s : State) (d q : Nat) (h : List Word) : State × Except (Nat × Nat) (List Task × Nat) :=
  match s.engLoc q (h.getD 3 0#64).toNat 16 rWR with
  | .error _ => (s, .error (10, 0xFFFFFFFF))
  | .ok _ =>
    if !headerOk h then (s, .error (5, 0xFFFFFFFF))
    else match (s.chargeRange d q (h.getD 1 0#64).toNat (64 * bf (h.getD 0 0#64) 0 32)).readTasks q (h.getD 1 0#64).toNat 0 [] (bf (h.getD 0 0#64) 0 32) with
      | (s1, .error e) => (s1, .error e)
      | (s1, .ok ts) =>
        match edgeFail ts with
        | some i => (s1, .error (8, i))
        | none =>
          if !ts.any (·.deps == 0) then (s1, .error (9, 0xFFFFFFFF))
          else match s1.freeGraph d q with
            | none => (s1, .error (11, 0xFFFFFFFF))
            | some n => (s1, .ok (ts, n))

/-- The ring of a die by partition, bank and number (R144). -/
def State.ring? (s : State) (d q bank r : Nat) : Option Ring :=
  (s.dieAt d).rings.find? fun x => x.part == q && x.bank == bank && x.num == r

/-- The state with a ring's record set. -/
def State.setRing (s : State) (d : Nat) (x : Ring) : State :=
  s.setDie d { s.dieAt d with rings := (s.dieAt d).rings.filter (fun y => !(y.part == x.part && y.bank == x.bank && y.num == x.num)) ++ [x] }

/-- A rejected graph (R131): the STATUS word, the REJECT record, and the completion record where COMPL translates. -/
def State.reject (s : State) (d : Nat) (x : Ring) (h : List Word) (code tidx : Nat) : State :=
  let q := x.part
  let n := x.rejects + 1
  let s1 := s.setRing d { x with rejects := n }
  let s2 := match (s1.charge d q (x.d1.toNat + 128) 8).engWrite q (x.d1.toNat + 128) 8 (tidx * 2 ^ 32 + code * 2 ^ 24 + n.toNat) with
    | .ok y => y
    | .error _ => s1
  let gid := s2.gid d q 0 tidx
  (s2.pushEvent d 4 code tidx gid).writeCompl q (h.getD 3 0#64) gid 0 1

/-- A graph header admitted or rejected at its owning die (R130 to R132). -/
def State.admitGraph (s : State) (d : Nat) (x : Ring) (h : List Word) : State :=
  let q := x.part
  match s.checkGraph d q h with
  | (s1, .error (code, tidx)) => s1.reject d x h code tidx
  | (s1, .ok (ts, n)) =>
    let fl := bf (h.getD 0 0#64) 32 8
    let g : Graph :=
      { die := d, part := q, num := n, bank := x.bank, event := fl % 2 == 1, taskev := fl / 2 % 2 == 1, arg := h.getD 2 0#64,
        compl := h.getD 3 0#64, seed := h.getD 4 0#64, tasks := ts, ndone := 0, lostAny := false }
    let s2 := { s1 with graphs := s1.graphs ++ [g] }
    (List.range ts.length).foldl (fun s i => if ((ts[i]?).map (·.deps)).getD 1 = 0 then s.release g i else s) s2

end Sys2Proof.Machine
end

