-- ==== Sys2Proof/Machine/Control.lean ====
section
/-! DEFINITION. Control flow and task instructions of the C slot (spec/14 R303, R305 to R312). -/
namespace Sys2Proof.Machine

/-- The issuing thread's next bundle set. -/
def State.goto (s : State) (pc : Word) : State := s.setThr { s.thr with npc := pc }

/-- The pc at a signed distance in bundles (R305). -/
def relPc {n : Nat} (pc : Word) (o : BitVec n) : Word := pc + (o.signExtend 64 <<< 3)

/-- BR. -/
def execBr (o : BitVec 20) (s : State) := s.run (.br o) fun s => s.goto (relPc s.thr.pc o)

/-- CALL. -/
def execCall (o : BitVec 20) (s : State) :=
  s.run (.call o) fun s => (s.wrN 62 (s.thr.pc + 8#64)).goto (relPc s.thr.pc o)

/-- BZ: the direction is the leader's (R307). -/
def execBz (x : GReg) (o : BitVec 14) (s : State) :=
  s.run (.bz x o) fun s => s.goto (if s.rdLead x = 0#64 then relPc s.thr.pc o else s.thr.pc + 8#64)

/-- BNZ. -/
def execBnz (x : GReg) (o : BitVec 14) (s : State) :=
  s.run (.bnz x o) fun s => s.goto (if s.rdLead x = 0#64 then s.thr.pc + 8#64 else relPc s.thr.pc o)

/-- The target check of jr and jlr (R305). -/
def State.jump (s : State) (t : Word) (k : State → State) : State :=
  if bf t 0 3 ≠ 0 then s.trap cALIGN t
  else if bf t 57 7 ≠ 0 then s.trap cXLATE t
  else (k s).goto t

/-- JR. -/
def execJr (y : GReg) (s : State) := s.run (.jr y) fun s => s.jump (s.rdLead y) fun s => s

/-- JLR: the target is read before the link is written. -/
def execJlr (x y : GReg) (s : State) :=
  s.run (.jlr x y) fun s => s.jump (s.rdLead y) fun s => s.wr x (s.thr.pc + 8#64)

/-- REP (R306, R307): the direction is the leader's, each lane decrements its own count. -/
def execRep (x : GReg) (n : BitVec 12) (s : State) :=
  s.run (.rep x n) fun s =>
    let l := s.rdLead x
    let c := s.rd x
    let s1 := if c = 0#64 then s else s.wr x (c - 1#64)
    s1.goto (if l = 0#64 ∨ l = 1#64 then s.thr.pc + 8#64 else s.thr.pc - W (8 * n.toNat))

/-- YIELD (R308): not ready for the 16 cycles that follow. -/
def execYield (s : State) := s.run .yield fun s => let t := s.thr; s.setThr { t with wait := .yielding s.cycle }

/-- DONE (R309): the lane ends once nothing of the thread is outstanding. -/
def execDone (s : State) :=
  s.run .done fun s => if s.thr.out.isEmpty then s.setThr { s.thr with ended := true } else s.park false

/-- SETPRI (R311): the leader's register sets the class of every lane. -/
def execSetpri (x y : GReg) (s : State) :=
  s.run (.setpri x y) fun s =>
    let t := s.thr
    let old := t.cls
    let s1 := if old = 0 then s else s.setThr { t with cls := min (max (s.rdLead y).toNat 1) t.dcls }
    s1.wr x (W old)

/-- A task's arrival at a barrier round counted (R310); the round completes at the end of the cycle (State.roundsAll). -/
def State.arrive (s : State) (r : Nat) : State :=
  let t := s.thr
  match s.graph? t.die t.part t.graph with
  | none => s
  | some g => match g.tasks[t.task]? with
    | none => s
    | some u => (s.setGraph (g.setTask t.task { u with arrived := r })).roundLend t.die t.part t.graph t.bgrp

/-- NOPC (R283). -/
def execNopc (s : State) := s.run .nopc fun s => s

/-- TBAR (R310): the task enters its next round; a gang arrives with its last lane. Where a
monitor is owned by the group, the thread first waits as a release at device scope does (R365). -/
def execTbar (s : State) :=
  s.run .tbar fun s =>
    let t := s.thr
    if t.bgrp = 0 then s
    else if (List.range 16).any (fun m => ((s.monOf t.part m).before s.cycle).owned t.die t.graph t.bgrp) && !t.released s.dieNo 1 t.seqNo then s.park false
    else
      let s1 := s.setThr { t with rounds := t.rounds + 1, wait := .tbar (t.rounds + 1) t.pc }
      if t.lanes.isEmpty ∨ t.lane + 1 = t.lanes.length then s1.arrive (t.rounds + 1) else s1

/-- A register of another thread may be filled: the target word's checks (R303). -/
def State.fillTarget (s : State) (w : Word) : Except Nat (Nat × Nat × Nat) :=
  let d := bf w 16 3
  let n := 64 * d + bf w 10 6
  let r := bf w 0 6
  if bf w 19 45 ≠ 0 ∨ 47 < r ∨ !s.dieIn s.thr.part d then .error cXLATE
  else
    let k := 16 * s.bankOf s.thr.part + bf w 6 4
    match s.thr? n k with
    | some t => if t.part = s.thr.part then .ok (n, k, r) else .error cPERM
    | none => .error cPERM

/-- The fill of the bundle at a thread's pc has been written or held (R179). -/
def Thread.fillOver (t : Thread) : Bool :=
  match t.wait with
  | .filled pc => pc == t.pc
  | _ => false

/-- FILL (R303): the value travels; the thread is not ready on message, and its bundle waits, until it is written or held (R179). -/
def execFill (y z : GReg) (s : State) :=
  s.run (.fill y z) fun s =>
    if s.thr.fillOver then s.setThr { s.thr with wait := .none }
    else match s.fillTarget (s.rd y) with
    | .error c => s.trap c (s.rd y)
    | .ok (n, k, r) =>
      let s1 : State := { s with flights := s.flights ++ [{ cell := n, slot := k, reg := r, v := s.rd z, fromCell := s.turn, fromSlot := s.cur, landed := false }] }
      s1.setThr { s1.thr with wait := .fillSent s1.thr.pc }

/-- A header appended to a ring (R312 step 4): the position, or nothing where the ring is full or its header invalid;
an invalid header sets RINGERR (R121). -/
def State.ringAppend (s : State) (d q base log2n : Nat) (h : List Word) : State × Option Nat :=
  match (s.charge d q base 128).ringHead q base with
  | (s1, none) => (s1.ringErr q, none)
  | (s1, some (prod, cons)) =>
    if 2 ^ log2n ≤ (prod + 2 ^ 32 - cons) % 2 ^ 32 then (s1, none)
    else match (s1.charge d q (slotVa base log2n prod) 128).engPut q (slotVa base log2n prod) h with
      | .error _ => (s1.ringErr q, none)
      | .ok s2 => match s2.engWrite q base 4 ((prod + 1) % 2 ^ 32) with
        | .error _ => (s2.ringErr q, none)
        | .ok s3 => (s3, some prod)

/-- The checks of a header address in paged space, before the header is read (R312, R360): of the causes that two pages give,
XLATE before PERM (R252). -/
def State.headerCheck (s : State) (va : Word) (n : Nat) : Except Nat Unit :=
  if va.toNat % 8 ≠ 0 then .error cALIGN
  else if va.toNat / 2 ^ 57 ≠ 0 ∨ !isPaged va.toNat ∨ !isPaged (va.toNat + n - 1) then .error cXLATE
  else match s.paged s.thr.part va.toNat rRD, s.paged s.thr.part (va.toNat + n - 1) rRD with
    | .ok _, .ok _ => if s.watchHit s.thr va.toNat n 1 then .error cWATCH else .ok ()
    | .error c, .error c' => .error (if c = cXLATE ∨ c' = cXLATE then cXLATE else c)
    | .error c, _ => .error c
    | _, .error c => .error c

/-- LAUNCH (R312): the checks at issue; the release, the reading of the header and its arrival at the ring follow (State.performOut,
State.appendAll). DEDUCED, log 35. -/
def execLaunch (x y z : GReg) (s : State) :=
  s.run (.launch x y z) fun s =>
    let t := s.thr
    let q := t.part
    let va := s.eaOf (s.rd y)
    let r := (s.rd z).toNat
    if 63 < r then s.trap cXLATE 0#64
    else match s.ringWords q (s.cur / 16) r with
    | (s1, none) => s1.trap cXLATE 0#64
    | (s1, some ws) =>
      if !(ws.getD 0 0#64).getLsbD 63 || !ringOk ws then s1.trap cXLATE 0#64
      else if bf (ws.getD 0 0#64) 61 2 ≠ 2 then s1.trap cPERM 0#64
      else match s1.headerCheck va 128 with
      | .error c => s1.trap c va
      | .ok _ =>
        if 8 ≤ t.out.length then s1.park false
        else s1.long (.launch x y z) va (.append 1 r 16 0 []) none none false

/-- A header that a thread has sent is appended to its ring, if that has room (R312 step 4, R360 step 4); the thread then has its position. A
block of coll is sent with bytes 120 to 127 zero. -/
def State.appendOne (s : State) (n k seq : Nat) : State :=
  let t := s.thrAt n k
  match t.out.findIdx? fun p => p.seq == seq with
  | none => s
  | some i => match t.out[i]? with
    | none => s
    | some p => match p.act with
      | .append sc ring _ _ h =>
        match s.ringWords t.part (k / 16) ring with
        | (s1, none) => s1
        | (s1, some ws) =>
          match s1.ringAppend (s1.ringDie t.part ring) t.part (ws.getD 1 0#64).toNat (bf (ws.getD 0 0#64) 56 5) (if sc = 0 then h.take 15 ++ [0#64] else h) with
          | (s2, some v) => s2.setThrAt n k { s2.thrAt n k with out := (s2.thrAt n k).out.set i { p with perf := some (W v) } }
          | (s2, none) => s2
      | _ => s

/-- The headers on their way: the cycle in which each was sent, its thread and its place in the thread's program order. -/
def State.appends (s : State) : List (Nat × Nat × Nat × Nat) :=
  s.cells.flatMap fun (n, c) => c.slots.flatMap fun (k, t) => match t with
    | some t => t.out.filterMap fun p => match p.act with
      | .append _ _ _ at_ h => if h.isEmpty || p.perf.isSome || t.stop.isSome then none else some (at_, n, k, p.seq)
      | _ => none
    | none => []

/-- The headers on their way arrive at the end of a cycle, in the order of the cycles in which they were sent, and in one cycle in ascending
order of die, cell and slot (R312, R319); while a ring is full they wait in that order. -/
def State.appendAll (s : State) : State :=
  (sortBy (fun a b => decide (a.1 ≤ b.1)) s.appends).foldl (fun s (_, n, k, seq) => s.appendOne n k seq) s

end Sys2Proof.Machine
end

