-- ==== Sys2Proof/Machine/Num.lean ====
section
/-! DEFINITION. Narrow elements, block scales and the sum order of matrix operations (spec/10 R210 to R215, R219). -/
namespace Sys2Proof.Machine

/-- Bits `n` at bit `i` of a list of bytes, little-endian (R213). -/
def bitsAt (bs : List Byte) (i n : Nat) : Nat :=
  let k := i / 8
  let v := readLE (fun j => bs.getD (k + j) 0#8) 0 ((i % 8 + n + 7) / 8)
  (v / 2 ^ (i % 8)) % 2 ^ n

/-- An E8M0 scale as a factor (R210): none for NaN. -/
def e8m0 (c : Nat) : Option Int := if c = 255 then none else some ((c : Int) - 127)

/-- An MX element under its scale (R211). -/
def mxVal (f : Fmt) (scale code : Nat) : FVal :=
  match e8m0 scale with
  | none => .nan false
  | some x => match fdecode f code with
    | .fin s m e => .fin s m (e + x)
    | v => v

/-- The exact sum of values in order, with the flags of invalid combinations (R219, R202). -/
def exactSum : List FVal → FVal × Nat
  | [] => (.fin false 0 0, 0)
  | x :: r => r.foldl (fun (a, fl) y => let (b, f2) := fadd2 0 a y; (b, fl ||| f2)) (x, 0)

/-- The exact sum of products of a chunk, with flags (R219). -/
def chunkDot (ps : List (FVal × FVal)) : FVal × Nat :=
  let qs := ps.map fun (a, b) => fmul2 a b
  let (v, fl) := exactSum (qs.map (·.1))
  (v, qs.foldl (fun f q => f ||| q.2) fl)

/-- A chunk result rounded to FP32 and added to an FP32 accumulator (R219). -/
def accAdd (acc : Nat) (t : FVal) : Nat × Nat :=
  let (p, f1) := fencode fp32 0 0 t
  let (v, f2) := fadd2 0 (fdecode fp32 acc) (fdecode fp32 p)
  let (r, f3) := fencode fp32 0 0 v
  (r, f1 ||| f2 ||| f3)

/-- A list cut into pieces of `n`. -/
def chunks {α : Type} (n : Nat) : Nat → List α → List (List α)
  | 0, _ => []
  | _, [] => []
  | f + 1, l => l.take n :: chunks n f (l.drop n)

/-- The accumulator after all chunks of 32 products in ascending K (R219). -/
def dot32 (acc : Nat) (ps : List (FVal × FVal)) : Nat × Nat :=
  (chunks 32 ps.length ps).foldl (fun (a, fl) c =>
    let (t, f1) := chunkDot c
    let (a', f2) := accAdd a t
    (a', fl ||| f1 ||| f2)) (acc, 0)

end Sys2Proof.Machine
end

