-- ==== Sys2Proof/Machine/Thermal.lean ====
section
/-! DEFINITION. Sensors, thermal loops, ballast and refresh (spec/01 R10 to R19). Temperatures are signed, in 1/16 degree. -/
namespace Sys2Proof.Machine

/-- A temperature in whole degrees as the sensors give it. -/
def deg (c : Int) : Int := 16 * c

/-- The reading of sensor `n` of die `d`. DEDUCED, log 19. -/
def State.temp (s : State) (d n : Nat) : Int := sInt 16 (s.fld 1 0 (0x40 * d + 8 * n) 0 16)

/-- Some sensor of a die reads as `p` says. -/
def State.anyTemp (s : State) (d : Nat) (p : Int → Bool) : Bool := (List.range 8).any fun n => p (s.temp d n)

/-- Every sensor of a die reads as `p` says. -/
def State.allTemp (s : State) (d : Nat) (p : Int → Bool) : Bool := (List.range 8).all fun n => p (s.temp d n)

/-- A thermal event record (R141), which raises vector 1 (R13, R116). -/
def State.thermal (s : State) (d code n : Nat) : State :=
  let s1 := s.devEvent d 0x20 code (8 * d + n)
  { s1 with msix := s1.msix ||| 2#16 }

/-- SENSOR_CONVERSION: sensor `n` of die `d` converted (R17); the warn point (R13). -/
def execSensorConversion (d n : Nat) (temp : BitVec 16) (s : State) : Host.Outcome State Fault Refusal :=
  .next (
    let s1 := s.setReg 1 0 (0x40 * d + 8 * n) (W (2 ^ 16 + temp.toNat))
    let hot : Bool := decide (deg 100 ≤ sInt 16 temp.toNat)
    let s2 := if hot then s1.setFld 1 0 (0x200 + 8 * d) 0 1 1 else s1
    let s3 := if hot && !(s2.dieAt d).warned then (s2.setDie d { s2.dieAt d with warned := true }).thermal d 1 n else s2
    if s3.allTemp d (fun t => decide (t < deg 97)) then s3.setDie d { s3.dieAt d with warned := false } else s3)

/-- CRITICAL_HALT: the die stops issue, CRIT and HALTED are set, the throttle demand is held at 17, and the partition is
notified (R14, R260). -/
def execCriticalHalt (d : Nat) (s : State) : Host.Outcome State Fault Refusal :=
  .next (
    if !s.anyTemp d (fun t => decide (deg 118 ≤ t)) then s
    else
      let n := ((List.range 8).find? fun n => decide (deg 118 ≤ s.temp d n)).getD 0
      let s1 := (s.setFld 1 0 (0x200 + 8 * d) 2 1 1).setFld 1 0 (0x200 + 8 * d) 3 1 1
      let s2 := (s1.setDie d { s1.dieAt d with throttle := 17 }).setFld 1 0 (0x200 + 8 * d) 1 1 1
      (s2.thermal d 3 n).notifyDie d 0x20 d)

/-- The die is halted at the critical point. -/
def State.dieHalted (s : State) (d : Nat) : Bool := s.fld 1 0 (0x200 + 8 * d) 3 1 == 1

/-- CRITICAL_RESUME (R14). -/
def execCriticalResume (d : Nat) (s : State) : Host.Outcome State Fault Refusal :=
  .next (
    if s.dieHalted d && s.allTemp d (fun t => decide (t ≤ deg 100)) && s.fld 1 0 (0x200 + 8 * d) 2 1 == 0 then
      s.setFld 1 0 (0x200 + 8 * d) 3 1 0
    else s)

/-- The applied clock step of a die (DTSTAT.STEP). -/
def State.clockStep (s : State) (d : Nat) : Nat := s.fld 1 0 (0x200 + 8 * d) 8 5

/-- THROTTLE_STEP_DOWN (R12): the first step is taken from the applied step. DESIGN CHOICE, log 65: a step is a first one where the
throttle demand is 0; THROT is set by each step down. -/
def execThrottleStepDown (d : Nat) (s : State) : Host.Outcome State Fault Refusal :=
  .next (
    if !s.anyTemp d (fun t => decide (deg 108 ≤ t)) then s
    else
      let x := s.dieAt d
      let n := ((List.range 8).find? fun n => decide (deg 108 ≤ s.temp d n)).getD 0
      let v := if x.throttle = 0 then s.clockStep d + 1 else x.throttle + 1
      let s1 := (s.setDie d { x with throttle := min v 17 }).setFld 1 0 (0x200 + 8 * d) 1 1 1
      if x.throttle = 0 then s1.thermal d 2 n else s1)

/-- THROTTLE_STEP_UP (R12, R14). -/
def execThrottleStepUp (d : Nat) (s : State) : Host.Outcome State Fault Refusal :=
  .next (
    if s.allTemp d (fun t => decide (t < deg 105)) && !s.dieHalted d then
      s.setDie d { s.dieAt d with throttle := (s.dieAt d).throttle - 1 }
    else s)

/-- PMODE.MODE is Warm (R11). -/
def State.warmMode (s : State) : Bool := s.fld 1 0 0x300 0 2 == 1

/-- WARM_LOOP_EVAL (R12): in Warm mode the demand moves by one step; in other modes the loop does not run, and its demand is 0.
DESIGN CHOICE, log 65. -/
def execWarmLoopEval (d : Nat) (s : State) : Host.Outcome State Fault Refusal :=
  .next (
    let x := s.dieAt d
    if !s.warmMode then s.setDie d { x with warm := 0 }
    else if s.anyTemp d (fun t => decide (deg 105 < t)) then s.setDie d { x with warm := min (x.warm + 1) 17 }
    else if s.allTemp d (fun t => decide (t ≤ deg 103)) then s.setDie d { x with warm := x.warm - 1 }
    else s)

/-- POWER_LIMIT_EVAL (R12): the 1 ms average moves every die's demand by one step. -/
def execPowerLimitEval (watts : BitVec 16) (s : State) : Host.Outcome State Fault Refusal :=
  .next (
    let s1 := s.setReg 1 0 0x310 (watts.zeroExtend 64)
    let w := watts.toNat
    (List.range 8).foldl (fun s d =>
      let x := s.dieAt d
      if 4800 < w then s.setDie d { x with power := min (x.power + 1) 17 }
      else if w < 4656 then s.setDie d { x with power := x.power - 1 }
      else s) s1)

/-- The largest of the demands on a die (R12). -/
def State.demand (s : State) (d : Nat) : Nat :=
  let x := s.dieAt d
  max x.throttle (max (if s.warmMode then x.warm else 0) x.power)

/-- CLOCK_STEP_APPLY (R10): the demand takes effect; no other state changes. -/
def execClockStepApply (d : Nat) (s : State) : Host.Outcome State Fault Refusal :=
  .next (s.setFld 1 0 (0x200 + 8 * d) 8 5 (s.demand d))

/-- BSET.SETPOINT as it is used: at most 4,800 W (R16). -/
def State.setpoint (s : State) : Nat := min (s.fld 1 0 0x308 0 16) 4800

/-- BALLAST_SETPOINT (R15): every die's setpoint, held as eight times its value, from the setpoint and the module power
not drawn by the compute dies; and every die's measured power. -/
def execBallastSetpoint (rest : Nat) (power : List Nat) (s : State) : Host.Outcome State Fault Refusal :=
  .next ((List.range 8).foldl (fun s d =>
    s.setDie d { s.dieAt d with setpoint := (s.setpoint : Int) - rest, watts := power.getD d 0 }) s)

/-- BALLAST_WINDOW (R16, R17): the 1 ms window's average power against the band: HOLD says whether it was within, and a window
that missed it sets UNDER. -/
def execBallastWindow (avg : Nat) (s : State) : Host.Outcome State Fault Refusal :=
  .next (
    let sp := s.setpoint
    let ok : Bool := decide (50 * ((avg : Int) - sp).natAbs ≤ sp)
    let s1 := s.setFld 1 0 0x318 0 1 ok.toNat
    if ok then s1 else s1.setFld 1 0 0x318 1 1 1)

/-- The refresh regime of a temperature, given the regime in force (R19): raised at once, lowered 2 degrees below. -/
def refx (cur : Nat) (t : Int) : Nat :=
  let th := fun (r : Nat) => deg (75 + 10 * r)
  let up := if th 3 < t then 3 else if th 2 < t then 2 else if th 1 < t then 1 else 0
  let keep := if 3 ≤ cur ∧ th 3 - deg 2 < t then 3 else if 2 ≤ cur ∧ th 2 - deg 2 < t then 2
    else if 1 ≤ cur ∧ th 1 - deg 2 < t then 1 else 0
  max up keep

/-- HBM_TEMP_READING (R17, R19). -/
def execHbmTempReading (k : Nat) (temp : BitVec 16) (s : State) : Host.Outcome State Fault Refusal :=
  .next (s.setReg 1 0 (0x400 + 8 * k)
    (W (2 ^ 18 + refx (s.fld 1 0 (0x400 + 8 * k) 16 2) (sInt 16 temp.toNat) * 2 ^ 16 + temp.toNat)))

/-- CELL_RELEASE (R20): once verified firmware runs, the compute dies' firmware is loaded, and every DTSn.VALID and HBMT.VALID of the die and its stacks is 1. -/
def execCellRelease (d : Nat) (s : State) : Host.Outcome State Fault Refusal :=
  .next (
    if s.service.up && s.service.loaded.any (·.kind == 2) && (List.range 8).all (fun n => s.fld 1 0 (0x40 * d + 8 * n) 16 1 == 1) && s.fld 1 0 (0x400 + 16 * d) 18 1 == 1 &&
        s.fld 1 0 (0x408 + 16 * d) 18 1 == 1 then
      s.setDie d { s.dieAt d with released := true }
    else s)

end Sys2Proof.Machine
end

