-- ==== Sys2Proof/Machine/Stacks.lean ====
section
/-! DEFINITION. The stacks (spec/02 R35 to R45): links, rehash, counters, the error log, and bank-side multiply with the
instruction that submits it (spec/15 R342, R343). -/
namespace Sys2Proof.Machine

/-! ## Links, masks and the log -/

/-- The link of a stack declared failed: FAILED is set and the partition notified (R35, R260). -/
def State.linkDown (s : State) (k : Nat) : State := (s.setFld 2 0 (0x1000 * k + 8) 2 1 1).notifyDie (k / 2) 0x22 k

/-- The nonce of the link of stack `k` for a direction (R35): the frame counter of the session, the direction, the link index. -/
def State.linkNonce (s : State) (k : Nat) (dir : Bool) : BitVec 96 := (s.stackAt k).frames ++ BitVec.ofBool dir ++ BitVec.ofNat 31 k

/-- The tag that a frame of the link of stack `k` must carry: AES-256-GCM under the session key (R35). -/
def State.linkTag (s : State) (k : Nat) (dir : Bool) (frame : List Byte) : BitVec 128 :=
  Config.gcm (s.stackAt k).session (s.linkNonce k dir) frame

/-- LINK_FRAME_RECEIVE, `ok` where the frame's tag compares: the next frame of a direction of a link, which for the event numbered `16 + k` is
the one from the base die. A frame that arrives counts in its session; one whose tag fails, or an injected failure (R262), is dropped, logged and
replayed before those behind it; the third failure of one frame in a row fails the link (R35). DESIGN CHOICE, log 70. -/
def execLinkFrameReceive (e : Nat) (ok : Bool) (s : State) : Host.Outcome State Fault Refusal :=
  .next (
    let k := e % 16
    let dir := e / 16
    let inj : Bool := s.fld 11 0 0x808 3 1 == 1 && s.fld 11 0 0x808 0 3 == 4 && s.fld 11 0 0x810 0 4 == k
    let s1 := if inj then s.setReg 11 0 0x808 0#64 else s
    if ok && !inj then s1.setStack k { s1.stackAt k with linkFails := tput (s1.stackAt k).linkFails dir 0, frames := (s1.stackAt k).frames + 1#64 }
    else
      let s2 := s1.reportEvent k 5 0 0
      let n := tget (fun _ => 0) (s2.stackAt k).linkFails dir + 1
      let s3 := s2.setStack k { s2.stackAt k with linkFails := tput (s2.stackAt k).linkFails dir n }
      if n = 3 then s3.linkDown k else s3)

/-- The masks written in HXM of a stack (R43). -/
def State.hxm (s : State) (k i : Nat) : BitVec 40 := (s.reg 2 0 (0x1000 * k + 0x10 + 8 * i)).setWidth 40

/-- HXM differs from given masks. -/
def State.hxmStale (s : State) (k : Nat) (m : Nat → BitVec 40) : Bool := (List.range 6).any fun i => s.hxm k i != m i

/-- The active masks of a stack, by index. -/
def State.activeMask (s : State) (k i : Nat) : BitVec 40 := BitVec.ofNat 40 (s.mask k i)

/-- APPLY: a rehash to the masks as they stand starts, or is refused while one runs (R44). -/
def execApply (k : Nat) (s : State) : Host.Outcome State Fault Refusal :=
  .next (
    let o := 0x1000 * k
    if s.fld 2 0 (o + 8) 1 1 = 1 then (s.recordRefusal 2 0 o).setFld 2 0 (o + 8) 3 1 1
    else (s.setFld 2 0 (o + 8) 1 1 1).setStack k { s.stackAt k with target := some ((List.range 6).map fun i => (i, s.hxm k i)) })

/-- REHASH_COMPLETE: once the accepted bank-side commands have run and every line has moved, the masks become active
(R44); every line of the stack has been read once (PCNT). DEDUCED, log 20. -/
def execRehashComplete (k : Nat) (s : State) : Host.Outcome State Fault Refusal :=
  .next (
    let o := 0x1000 * k
    match (s.stackAt k).target with
    | none => s
    | some m =>
      if !(s.stackAt k).bsq.isEmpty then s
      else
        let s1 := (List.range 64).foldl (fun s p => s.bump 2 0 (o + 0x200 + 8 * p) 0 32 (2 ^ 24)) s
        let s2 := s1.setStack k { s1.stackAt k with active := m, target := none }
        let stale := s2.hxmStale k (tget (fun _ => 0#40) m)
        (s2.setFld 2 0 (o + 8) 1 1 0).setFld 2 0 (o + 8) 4 1 stale.toNat)

/-- CLRCNT (R43, R404). -/
def execClrcnt (k : Nat) (s : State) : Host.Outcome State Fault Refusal :=
  .next ((List.range 64).foldl (fun s p => s.setReg 2 0 (0x1000 * k + 0x200 + 8 * p) 0#64) s)

/-- HXM_WRITE (R44, R405): read back at once; STALE when it differs from the active masks. -/
def execHxmWrite (k i : Nat) (v : Word) (s : State) : Host.Outcome State Fault Refusal :=
  .next (
    let o := 0x1000 * k + 0x10 + 8 * i
    if writeBad 2 o v then s.refuse 2 0 o
    else
      let s1 := s.setReg 2 0 o v
      let st := s1.hxmStale k (s1.activeMask k)
      if s1.fld 2 0 (0x1000 * k + 8) 1 1 = 1 then (if st then s1.setFld 2 0 (0x1000 * k + 8) 4 1 1 else s1)
      else s1.setFld 2 0 (0x1000 * k + 8) 4 1 st.toNat)

/-- ELHEAD_WRITE (R44, R45). -/
def execElheadWrite (k : Nat) (v : Word) (s : State) : Host.Outcome State Fault Refusal :=
  .next (
    let o := 0x1000 * k + 0x50
    if writeBad 2 o v then s.refuse 2 0 o
    else
      let hd := s.fld 2 0 o 0 4
      let un := s.fld 2 0 o 8 5
      let r := min ((bf v 0 4 + 16 - hd) % 16) un
      (s.setFld 2 0 o 0 4 ((hd + r) % 16)).setFld 2 0 o 8 5 (un - r))

/-! ## Bank-side multiply -/

/-- Bits of a B element (R38). -/
def bsWidth (f : Nat) : Nat := match f with | 1 => 16 | 2 => 16 | 6 => 4 | _ => 8

/-- The element format of B (R38). -/
def bsFmt (f : Nat) : Fmt :=
  match f with | 1 => bf16 | 2 => fp16 | 4 => e5m2 | 6 => e2m1 | _ => e4m3

/-- B has block scales (R40). -/
def bsMx (f : Nat) : Bool := f == 5 || f == 6

/-- The fields of a command block (R38). -/
def bsB (w : List Word) : Nat := (w.getD 0 0#64).toNat
/-- A's address. -/
def bsA (w : List Word) : Nat := (w.getD 1 0#64).toNat
/-- y's address. -/
def bsY (w : List Word) : Nat := (w.getD 2 0#64).toNat
/-- K. -/
def bsK (w : List Word) : Nat := bf (w.getD 3 0#64) 0 32
/-- N. -/
def bsN (w : List Word) : Nat := bf (w.getD 3 0#64) 32 32
/-- B row pitch. -/
def bsPitch (w : List Word) : Nat := bf (w.getD 4 0#64) 0 32
/-- B format code. -/
def bsBf (w : List Word) : Nat := bf (w.getD 4 0#64) 32 8
/-- A format code. -/
def bsAf (w : List Word) : Nat := bf (w.getD 4 0#64) 40 8
/-- The accumulate flag. -/
def bsAcc (w : List Word) : Bool := (w.getD 4 0#64).getLsbD 48
/-- The completion field. -/
def bsCompl (w : List Word) : Nat := (w.getD 5 0#64).toNat
/-- The scale table's address. -/
def bsScale (w : List Word) : Nat := (w.getD 6 0#64).toNat
/-- Bytes of an A element. -/
def bsAsz (w : List Word) : Nat := if bsAf w = 1 then 2 else 4

/-- The fields of a block lie within their limits (R38, R343). -/
def bsFieldsOk (w : List Word) : Bool :=
  let f := bsBf w
  bsB w % 64 == 0 && (bsAf w == 1 || bsAf w == 7) && bsA w % bsAsz w == 0 && bsY w % 64 == 0 &&
    decide (1 ≤ bsK w) && decide (bsK w ≤ 65536) && decide (32 ≤ bsN w) && decide (bsN w ≤ 16384) && bsN w % 32 == 0 &&
    bsPitch w % 64 == 0 && decide (bsN w * bsWidth f ≤ 8 * bsPitch w) && decide (1 ≤ f) && decide (f ≤ 6) &&
    bf (w.getD 4 0#64) 49 15 == 0 && (bsCompl w == 0 || bsCompl w == 1 || bsCompl w % 16 == 0) &&
    (bsMx f || bsScale w == 0) && w.getD 7 0#64 == 0#64

/-- Every byte of a range on this device translates with a right. DEDUCED, log 32: peer space is no operand of the arrays. -/
def State.rangeOk (s : State) (q a n need : Nat) : Bool :=
  (List.range ((a % 65536 + n + 65535) / 65536)).all fun i =>
    match s.engLoc q (if i = 0 then a else a / 65536 * 65536 + 65536 * i) 1 need with
    | .ok (.peer _ _ _) => false
    | .ok _ => true
    | .error _ => false

/-- The stack of a page that a leaf with PIN maps, if it is one (R41, R342). -/
def State.pinnedStack (s : State) (q a : Nat) : Option Nat :=
  if !isPaged a then none
  else (s.walk q a).bind fun l => match l.loc a with
    | .hbm h => if l.e.getLsbD 57 then some (h / 2 ^ 36) else none
    | _ => none

/-- Every page of a range is pinned to stack `k`. -/
def State.pinnedTo (s : State) (q a n k : Nat) : Bool :=
  (List.range ((a % 65536 + n + 65535) / 65536)).all fun i => s.pinnedStack q (if i = 0 then a else a / 65536 * 65536 + 65536 * i) == some k

/-- Bytes of a B row (R40). -/
def bsRow (w : List Word) : Nat := bsN w * bsWidth (bsBf w) / 8

/-- The acceptance status of a block (R342): 3 FIELD, 2 UNPINNED, or the stack that accepts it. DEDUCED, log 32. -/
def State.bsStatus (s : State) (q : Nat) (w : List Word) : Except Nat Nat :=
  if !bsFieldsOk w || !s.rangeOk q (bsA w) (bsK w * bsAsz w) rRD || !s.rangeOk q (bsY w) (4 * bsN w) rWR then .error 3
  else match s.pinnedStack q (bsB w) with
    | none => .error 2
    | some k =>
      if (List.range (bsK w)).all (fun r => s.pinnedTo q (bsB w + r * bsPitch w) (bsRow w) k) &&
          (!bsMx (bsBf w) || s.pinnedTo q (bsScale w) ((bsK w + 31) / 32 * bsN w) k) then .ok k
      else .error 2

/-- The patterns of A, read at acceptance (R342); a poisoned one reads zero. Its stack counts one read an element (R404; DESIGN CHOICE, log 32: the
spec does not say in how many accesses an engine reads its operands). -/
def State.bsReadA (s : State) (q : Nat) (w : List Word) (i : Nat) : Nat → State × List Word
  | 0 => (s, [])
  | n + 1 =>
    let (s1, v) := match s.engRead q (bsA w + i * bsAsz w) (bsAsz w) with
      | .ok r => (r.s, r.v)
      | .error _ => (s, 0)
    let (s2, l) := s1.bsReadA q w (i + 1) n
    (s2, W v :: l)

/-- BMV (R342): the block is one line, read once; a poisoned one is a poisoned load of the thread (R261). That of another device is asked for
there, and the answer is free (log 11). -/
def execBmv (la : BitVec 4) (x y : GReg) (s : State) :=
  s.run (.bmv la x y) fun s =>
    let i : Instr := .bmv la x y
    let t := s.thr
    let va := s.eaOf (s.rd y)
    match s.access va 64 rRD 1 with
    | .error c => s.locTrap c va
    | .ok l =>
      if s.accessWaits va 64 l ∨ s.nowWaits [l] ∨ !t.released s.dieNo 1 t.seqNo then s.park false
      else
        let r := match l with
          | .peer _ _ _ => s.engReadAt t.part l 64
          | _ => s.lineRead t.part l
        match trapOfCause (s.ptrap t.part) r.bad with
        | some c => r.s.long i va (.ret [] 0#8) none (some (c, r.bad)) false
        | none =>
          let s1 := r.s.charge s.dieNo t.part va.toNat 64
          let w := wordsOf r.v 8
          let fl : BitVec 8 := if r.bad = 7 then 0x80#8 else 0#8
          match s1.bsStatus t.part w with
          | .error st => s1.long i va (.ret [.scalar x.toNat (W st)] fl) (some (W st)) none false
          | .ok k =>
            if 8 ≤ (s1.stackAt k).bsq.length then s.park true
            else if s1.rehashing (k * 2 ^ 36) ∨ s1.rangeStall t.part (bsA w) (bsK w * bsAsz w) then s.park false
            else
              let (s2, a) := (s1.chargeRange s1.dieNo t.part (bsA w) (bsK w * bsAsz w)).bsReadA t.part w 0 (bsK w)
              let s3 := s2.setStack k { s2.stackAt k with bsq := (s2.stackAt k).bsq ++ [{ block := w, a := a, part := t.part, gid := t.gid, running := false }] }
              s3.long i va (.ret [.scalar x.toNat 0#64] fl) (some 0#64) none false

/-- BANKSIDE_START: the base die starts its oldest command (R342). -/
def execBanksideStart (k : Nat) (s : State) : Host.Outcome State Fault Refusal :=
  .next (match (s.stackAt k).bsq with
    | c :: r => s.setStack k { s.stackAt k with bsq := { c with running := true } :: r }
    | [] => s)

/-- A line of B or of its scales read once: counted; a poisoned one is logged BSPOISON (R41, R44, R45). -/
def State.bsLine (s : State) (q a : Nat) : State × Bool :=
  match s.hpaOf q a with
  | none => (s, false)
  | some h =>
    let r := s.hbmRead q h 1
    if r.bad ≠ 0 then (r.s.reportEvent (h / 2 ^ 36) 6 h 0xFF, true) else (r.s, false)

/-- The lines of a range read in ascending order. -/
def State.bsLines (s : State) (q a n : Nat) : State × Bool :=
  (List.range ((a % 64 + n + 63) / 64)).foldl (fun (s, p) i =>
    let (s', b) := s.bsLine q (a / 64 * 64 + 64 * i)
    (s', p || b)) (s, false)

/-- A byte of a paged address as the bank-side arrays see it: zero on a poisoned line (R41). -/
def State.bsByte (s : State) (q a : Nat) : Byte :=
  match s.hpaOf q a with
  | some h => s.seenUnder (· == s.keyOf q) h
  | none => 0#8

/-- The line of a byte is poisoned. -/
def State.bsBad (s : State) (q a : Nat) : Bool :=
  match s.hpaOf q a with
  | some h => s.lineBad h
  | none => true

/-- Element (r, j) of B: zero where its line, or the line of its scale, is poisoned (R40, R41). DESIGN CHOICE, log
32: the element is +0, so its product with an infinity or a NaN of A is NaN; R41 does not say whether the line adds zero elements or zero products. -/
def State.bsElem (s : State) (q : Nat) (w : List Word) (r j : Nat) : FVal :=
  let f := bsBf w
  let bit := j * bsWidth f
  let a := bsB w + r * bsPitch w + bit / 8
  let v := readLE (s.bsByte q) a ((bsWidth f + 7) / 8) / 2 ^ (bit % 8) % 2 ^ bsWidth f
  if s.bsBad q a then .fin false 0 0
  else if bsMx f then
    let sa := bsScale w + r / 32 * bsN w + j
    if s.bsBad q sa then .fin false 0 0 else mxVal (bsFmt f) (s.bsByte q sa).toNat v
  else fdecode (bsFmt f) v

/-- Lines `i` on of the old y of an accumulating command, `n` of them, each read once; WR is the right that y needs (R342), and a
poisoned line reads zero. -/
def State.bsOldY (s : State) (c : BsCmd) (i : Nat) : Nat → State × List Nat
  | 0 => (s, [])
  | n + 1 =>
    let (s1, v) := match s.engLoc c.part (bsY c.block + 64 * i) 64 rWR with
      | .ok l => let r := s.lineRead c.part l; (r.s, r.v)
      | .error _ => (s, 0)
    let (s2, l) := s1.bsOldY c (i + 1) n
    (s2, v :: l)

/-- y written line by line, from line `i` on: a whole line of HBM takes a fresh tag (R33). DESIGN CHOICE, log 32. -/
def State.bsPutY (s : State) (c : BsCmd) (i : Nat) : List Line → State
  | [] => s
  | v :: r =>
    (match s.engLoc c.part (bsY c.block + 64 * i) 64 rWR with
     | .ok l => (s.lineWrite c.part l v).1
     | .error _ => s).bsPutY c (i + 1) r

/-- Line `i` of y from its elements. -/
def yLine (ys : List Nat) (i : Nat) : Line := BitVec.ofNat 512 (((ys.drop (16 * i)).take 16).foldr (fun v a => v % 2 ^ 32 + 2 ^ 32 * a) 0)

/-- The y of a command, and whether a poisoned line was met (R39 to R42). DESIGN CHOICE, log 32: every line of B is read at one
moment. -/
def State.bsCompute (s : State) (c : BsCmd) : State × List Nat × Bool :=
  let w := c.block
  let q := c.part
  let (s1, p1) := (List.range (bsK w)).foldl (fun (s, p) r =>
    let (s', b) := s.bsLines q (bsB w + r * bsPitch w) (bsRow w)
    (s', p || b)) (s, false)
  let (s2, p2) := if bsMx (bsBf w) then s1.bsLines q (bsScale w) ((bsK w + 31) / 32 * bsN w) else (s1, false)
  let (s3, old) := if bsAcc w then s2.bsOldY c 0 (bsN w / 16) else (s2, [])
  let af := if bsAf w = 1 then bf16 else fp32
  let ys := (List.range (bsN w)).map fun j =>
    let y0 := (old[j / 16]?).getD 0 / 2 ^ (32 * (j % 16)) % 2 ^ 32
    (dot32 y0 ((List.range (bsK w)).map fun r => (fdecode af (c.a.getD r 0#64).toNat, s2.bsElem q w r j))).1
  (s3, ys, p1 || p2)

/-- The writes of y, or the add to the completion object, stall: a line of them lies in a page being moved, or on another stack that rehashes; the
stack's own rehash waits for the command (R44, R234). An event record waits for room (R141). -/
def State.bsStall (s : State) (k : Nat) (c : BsCmd) : Bool :=
  let stalls := fun va => isPaged va && (s.moveStall c.part va || ((s.hpaOf c.part va).map fun h => h / 2 ^ 36 != k && s.locStall (.hbm h)).getD false)
  (List.range (bsN c.block / 16)).any (fun i => stalls (bsY c.block + 64 * i)) || (decide (2 ≤ bsCompl c.block) && stalls (bsCompl c.block)) ||
    (bsCompl c.block == 1 && !s.evRoom (bf c.gid 50 3))

/-- BANKSIDE_COMPLETE: the oldest started command finishes, unless its writes stall: y, then the completion (R41, R44, R343). -/
def execBanksideComplete (k : Nat) (s : State) : Host.Outcome State Fault Refusal :=
  .next (match (s.stackAt k).bsq with
    | [] => s
    | c :: r =>
      if !c.running || s.bsStall k c then s
      else
        let w := c.block
        let s0 := s.setStack k { s.stackAt k with bsq := r }
        let (s1, ys, p) := s0.bsCompute c
        let s2 := s1.bsPutY c 0 ((List.range (bsN w / 16)).map (yLine ys))
        if bsCompl w = 1 then s2.pushEvent (bf c.gid 50 3) 0x12 p.toNat 0 c.gid
        else if bsCompl w = 0 then s2
        else s2.engBar (k / 2) c.part (bsCompl w) (4 * bsN w))

end Sys2Proof.Machine
end

