-- ==== Sys2Proof/Machine/Dahlia.lean ====
section
/-! DEFINITION. Migration (spec/09 R184 to R187, spec/02 R36, R37) and the retries at stack controllers (spec/11 R246,
spec/15 R340). -/
namespace Sys2Proof.Machine

/-- A Dahlia core that holds nothing. -/
def Dahlia.init : Dahlia := { slots := [], queue := [], issuedAt := 0 }

/-- Dahlia core `j` of stack `k`. -/
def State.coreOf (s : State) (k j : Nat) : Dahlia := tget (fun _ => Dahlia.init) (s.stackAt k).cores j

/-- The state with a Dahlia core set. -/
def State.setCore (s : State) (k j : Nat) (c : Dahlia) : State :=
  s.setStack k { s.stackAt k with cores := tput (s.stackAt k).cores j c }

/-- The thread's last issued instruction: its index and address. -/
def Thread.lastOut (t : Thread) : Nat × Word := (t.out.length - 1, (t.out.getLast?.map (·.addr)).getD 0#64)

/-! ## Contexts of other devices -/

/-- The cell in which a context of a home device and die is kept while it stands on a core here (log 16). -/
def farCell (dev die : Nat) : Nat := 512 + 8 * dev + die

/-- A packet about a context to its home device (R37, R61, R184): MIGHOME with a cause, or MIGNAK. -/
def State.tellHome (s : State) (n k kind len cause : Nat) (ctx : LightCtx) : State :=
  s.emit { s.blank kind len ((n - 512) / 8) true with
    ddie := BitVec.ofNat 3 (n % 8), ks := BitVec.ofNat 45 k, poison := cause != 0, cause := BitVec.ofNat 4 cause,
    pay := if kind = 0x31 then ctxWords ctx else [] }

/-- A context of another device goes home (R186, R187) and leaves its core. -/
def State.farHome (s : State) (n k cause : Nat) (ctx : LightCtx) : State :=
  ((s.tellHome n k 0x31 8 cause ctx).setThr? n k none).dropGuest n k

/-- The thread that a context of another device runs as on a core of die `d` here (R184, R185), for the partition that owns its
window. -/
def farThread (ctx : LightCtx) (x : Desc) (q d k j : Nat) : Thread :=
  { Thread.init.withCtx ctx with gid := ctx.gid, part := q, die := d, cls := ctx.cls.toNat, dcls := ctx.cls.toNat, lent := ctx.eff.toNat,
                                 site := .departing k j, far := some x }

/-! ## Trace at a site -/

/-- A trace record of a thread at a Dahlia core, for the ring of its home die: of another device's, as a TRACE packet (R267). -/
def State.traceCore (s : State) (kind n key k j : Nat) (pc : Word) : State :=
  let t := s.thrAt n key
  let i := (s.coreOf k j).slots.findIdx (· == .own n key)
  if t.far.isNone then s.traceSite kind 0 n key (k / 2) (dahliaSite k j) i pc
  else if s.traced t.gid then
    let w0 := W (kind * 2 ^ 56 + s.devId * 2 ^ 37 + k / 2 * 2 ^ 34 + dahliaSite k j * 2 ^ 27 + i * 2 ^ 23)
    s.emit { s.blank 0x60 1 ((n - 512) / 8) false with ddie := BitVec.ofNat 3 (n % 8), pay := [w0, t.gid, s.tb (k / 2), pc] }
  else s

/-- DEPART recorded at the site that a thread leaves (R267). -/
def State.traceDepart (s : State) (n key : Nat) : State :=
  let pc := (s.thrAt n key).lastOut.2
  match s.coreHolding n key with
  | some (k, j, _) => s.traceCore 4 n key k j pc
  | none => s.traceAt 4 0 n key pc

/-! ## Arrival and departure -/

/-- The cause with which a stopped context of another device goes home: that of its poisoned response, or 9 for MIGNAK, which R72 has no code for
(DESIGN CHOICE, log 16). -/
def farCause (f : Frame) : Nat := if f.cause = BitVec.ofNat 8 cMIGNAK then 9 else f.pcause.toNat

/-- The contexts of other devices that a trap stopped here sent home (R186, R187), once every access that they posted is acknowledged: each with its pc
at the bundle, and the cause. A trap found at issue is taken by the home device, which executes the bundle again. -/
def State.farSweep (s : State) : State :=
  s.cells.foldl (fun s (n, c) => if n < 512 then s else c.slots.foldl (fun s (k, t) =>
    match t with
    | some t => match t.stop with
      | some f => if t.posted.isEmpty then (s.traceDepart n k).farHome n k (farCause f) { f.ctx with pc := f.fpc } else s
      | none => s
    | none => s) s) s

/-- A thread takes a slot of a Dahlia core (R37). -/
def State.enterCore (s : State) (k j n key : Nat) : State :=
  let s1 := s.dropGuest n key
  let c := s1.coreOf k j
  let s2 := s1.setCore k j { c with slots := c.slots ++ [.own n key] }
  let t := s2.thrAt n key
  (s2.setThrAt n key { t with site := .dahlia k j, refusals := 0, wait := .none }).traceCore 5 n key k j t.lastOut.2

/-- A fill held for a thread is applied once its register is empty (R179). -/
def State.applyFills (s : State) (n key : Nat) : State :=
  (s.cellAt n).fills.foldl (fun s f =>
    let t := s.thrAt n key
    if f.slot = key ∧ !t.full.getLsbD f.reg then
      let c := s.cellAt n
      (s.setCell n { c with fills := c.fills.erase f }).setThrAt n key (t.put f.reg f.v)
    else s) s

/-- A context leaves its core for its home cell (R185, R186): its waits at the site are withdrawn and held fills are applied; one of
another device is sent there. -/
def State.goHome (s : State) (n key : Nat) : State :=
  let s0 := s.traceDepart n key
  let s1 := (s0.dropGuest n key).withdraw n key
  let t := s1.thrAt n key
  if t.far.isSome then s1.farHome n key 0 (t.ctx t.pc)
  else ((s1.setThrAt n key { t with site := .home, refusals := 0, wait := .none, homeAt := s.cycle + 1 }).applyFills n key).traceAt 5 0 n key t.lastOut.2

/-- A migration or a hop refused (R37): the thread waits for the retry; the 16th refusal raises MIGNAK at the access. -/
def State.migRefused (s : State) (n key : Nat) : State :=
  let t := s.thrAt n key
  let c := t.refusals + 1
  let s1 := s.setThrAt n key { t with refusals := c, wait := .migRefused c }
  if 16 ≤ c then (s1.dropGuest n key).lateTrap n key t.lastOut.1 cMIGNAK 0 else s1

/-- A departing thread arrives at a Dahlia core of this device: it takes a slot, joins the queue, or is refused (R37).
DESIGN CHOICE, log 16: one that arrives while a slot is free takes it ahead of those still queued; the spec does not say which goes first. -/
def State.arriveCore (s : State) (k j n key : Nat) : State :=
  let c := s.coreOf k j
  if c.slots.length < 16 then s.enterCore k j n key
  else if c.queue.length < 64 then
    let s1 := s.dropGuest n key
    let c1 := s1.coreOf k j
    let s2 := s1.setCore k j { c1 with queue := c1.queue ++ [.own n key] }
    let t := s2.thrAt n key
    s2.setThrAt n key { t with site := .queued k j, refusals := 0, wait := .none }
  else s.migRefused n key

/-- A departing thread may leave its site: its posted accesses are acknowledged, and its earlier ones have performed
(R186). DEDUCED, log 39. -/
def Thread.mayLeave (t : Thread) : Bool := t.posted.isEmpty && (t.out.dropLast).all fun p => p.perf.isSome

/-- The access descriptor of a departing thread's access (R62); OP is zero. -/
def State.departDesc (s : State) (p : Pend) : Desc :=
  match p.act with
  | .load (.peer _ rw off) n _ _ acq sc => s.descOf rw off n acq false sc 0 0
  | .cons (.peer _ rw off) _ sc => s.descOf rw off 8 true false sc 0 0
  | .atom (.peer _ rw off) n _ _ _ _ acq rel sc => s.descOf rw off n acq rel sc 0 0
  | _ => s.descOf 0 0 1 false false 0 0 0

/-- The context of a departing thread: its pc is the bundle of the unexecuted access (R184, R186). -/
def Thread.departCtx (t : Thread) : LightCtx := t.ctx ((t.out.getLast?.map (·.pc)).getD t.pc)

/-- MIGRATION_DEPART (R186). Within the device the context arrives at its core; to another device it is a MIGRATE packet, and a
hop keeps its slot here until the context comes home (R37; DESIGN CHOICE, log 16); without a usable path the access ends with UNREACH
(R66). -/
def State.depart (s : State) (n key : Nat) : State :=
  let t := s.thrAt n key
  match t.site, t.wait with
  | .departing k j, .none =>
    if !t.mayLeave then s
    else if k < 1000 then (if t.refusals = 0 then s.traceDepart n key else s).arriveCore k j n key
    else match t.out.getLast? with
      | none => s
      | some p =>
          if s.noRoom (n / 64) (k - 1000) true 8 then s
          else if !s.reachable (k - 1000) true then
            ((s.dropGuest n key).setThrAt n key { t with site := .home, refusals := 0 }).answer n key t.lastOut.1 0#64 8
          else
            let x := (if t.refusals = 0 then s.traceDepart n key else s).at n key
            let pk := { x.blank 0x30 8 (k - 1000) true with
              sdie := BitVec.ofNat 3 (n / 64), ks := BitVec.ofNat 45 (n % 64 * 16 + key % 16), desc := some (x.departDesc p),
              pay := ctxWords t.departCtx }
            let y := (x.emit pk).back s
            y.setThrAt n key { y.thrAt n key with site := .peer (k - 1000) }
  | _, _ => s

/-- MIGRATION_DEPART. -/
def execMigrationDepart (cell slot : Nat) (s : State) : Host.Outcome State Fault Refusal := .next (s.depart cell slot)

/-- MIGRATION_RETRY: the refused migration or hop is tried again (R37). -/
def execMigrationRetry (cell slot : Nat) (s : State) : Host.Outcome State Fault Refusal :=
  .next (
    let t := s.thrAt cell slot
    match t.wait with
    | .migRefused _ => (s.setThrAt cell slot { t with wait := .none }).depart cell slot
    | _ => s)

/-- LINGER_RETURN: a thread that has lingered 64 us on a core whose queue holds a context goes home (R185). -/
def execLingerReturn (cell slot : Nat) (s : State) : Host.Outcome State Fault Refusal :=
  .next (
    let t := s.thrAt cell slot
    match t.site with
    | .dahlia k j =>
      if (s.coreOf k j).queue.isEmpty ∨ !t.posted.isEmpty ∨ !t.out.all (fun p => p.perf.isSome) then s
      else s.goHome cell slot
    | _ => s)

/-- DAHLIA_ADMIT: the context that has queued longest takes a free slot (R37). -/
def execDahliaAdmit (k j : Nat) (s : State) : Host.Outcome State Fault Refusal :=
  .next (
    let c := s.coreOf k j
    if 16 ≤ c.slots.length then s
    else match c.queue with
      | [] => s
      | .own n key :: r => (s.setCore k j { c with queue := r }).enterCore k j n key)

/-- The lanes of the dispatched task that a gid names: cell and slot key (R269). -/
def State.lanesOf (s : State) (gid : Word) : List (Nat × Nat) :=
  match s.graphOf gid with
  | none => []
  | some g => match g.tasks[bf gid 0 32]? with
    | none => []
    | some t => g.threads t

/-- A thread that a stop takes at its bundle boundary: one that no trap takes there and that is on this device (R259,
R269). -/
def Thread.stoppable (t : Thread) : Bool :=
  t.stop.isNone && !t.ended && t.owed.isEmpty && (match t.wait with | .drift _ _ => false | _ => true) &&
    (match t.site with | .peer _ => false | _ => true)

/-- A stop of the task in DSTOP of partition `q` carried on (R269): every lane stops with BREAK at its boundary; the stop
lasts while a lane is away on another device. -/
def State.dstopGo (s : State) (q : Nat) : State :=
  let o := 0x100 * q
  let ls := s.lanesOf (s.reg 11 0 (o + 0x28))
  let go := ls.filter fun (n, k) => (s.thrAt n k).stoppable
  let mask := go.foldl (fun m (n, k) => m + 2 ^ (s.thrAt n k).lane) 0
  let s1 := go.foldl (fun s (n, k) =>
    let pc := (s.thrAt n k).pc
    let x := (s.stopAt n k cBREAK 0 0#64 pc pc none false).dropGuest n k
    let t := x.thrAt n k
    x.setThrAt n k { t with stop := t.stop.map fun f => if f.gang then { f with glanes := BitVec.ofNat 8 mask } else f }) s
  let away := ls.any fun (n, k) => match (s1.thrAt n k).site with
    | .peer _ => true
    | _ => false
  s1.setReg 11 0 (o + 0x30) (bset (s1.reg 11 0 (o + 0x30)) 8 1 away.toNat)

/-- A stop that waits for a lane goes on when one comes home (R269). -/
def State.dstopOn (s : State) (q : Nat) : State := if s.fld 11 0 (0x100 * q + 0x30) 8 1 = 1 then s.dstopGo q else s

/-- MIGNAK: a migration to another device is refused (R37). -/
def execMignak (cell slot : Nat) (s : State) : Host.Outcome State Fault Refusal :=
  .next (s.onArrival 0x32 fun s => 
    let t := s.thrAt cell slot
    match t.site with
    | .peer d => ((s.setThrAt cell slot { t with site := .departing (1000 + d) 0 }).migRefused cell slot).dstopOn t.part
    | _ => s)

/-! ## Retries at stack controllers -/

/-- The index of an outstanding instruction of a thread by its place in program order. -/
def Thread.outIdx (t : Thread) (seq : Nat) : Option Nat := t.out.findIdx? fun p => p.seq == seq

/-- The index of a posted access by its place in program order. -/
def Thread.postIdx (t : Thread) (seq : Nat) : Option Nat := t.posted.findIdx? fun p => p.seq == seq

/-- The producing store of another device performed, and answered; on a line that is poisoned by then it is a plain store (R245, R246). -/
def State.syncPkt (s : State) (k : Nat) (w : SyncWait) (p : Packet) : State :=
  let x := s.stackAt k
  let s1 := (s.setStack k { x with syncs := x.syncs.erase w }).openLine (s.keyOf w.slot) w.hpa
  let (s2, _) := s1.hbmWrite w.slot w.hpa 8 ((p.pay.getD 0 0#64).toNat)
  (if s1.lineBad w.hpa then s2 else s2.setFe w.hpa true).emit { s2.blank 0x13 1 p.sdev.toNat true with ks := BitVec.ofNat 45 p.seq.toNat, ddie := p.sdie }

/-- The consuming read of another device performed, and answered: the word, which becomes empty; on a poisoned line it fails (R245, R246, R326). -/
def State.consPkt (s : State) (k : Nat) (w : SyncWait) (p : Packet) : State :=
  let x := s.stackAt k
  let r := (s.setStack k { x with syncs := x.syncs.erase w }).hbmRead w.slot w.hpa 8
  let y := if r.bad ≠ 0 then r.s else r.s.setFe w.hpa false
  y.emit { y.blank 0x11 (if r.bad = 0 then 2 else 1) p.sdev.toNat true with
    ks := BitVec.ofNat 45 p.seq.toNat, ddie := p.sdie, sdie := p.ddie, poison := r.bad != 0, cause := BitVec.ofNat 4 r.bad,
    pay := if r.bad = 0 then linePay w.hpa r.v else [] }

/-- SYNC_ACCESS_PERFORM: the earliest waiting access whose condition holds performs (R246). -/
def execSyncAccessPerform (k : Nat) (s : State) : Host.Outcome State Fault Refusal :=
  .next (match (s.stackAt k).syncs.find? fun w => s.lineBad w.hpa || s.feBit w.hpa != w.store with
    | none => s
    | some w => match w.pkt with
      | some p => if s.locStall (.hbm w.hpa) then s else if w.store then s.syncPkt k w p else s.consPkt k w p
      | none =>
        let t := s.thrAt w.cell w.slot
        if w.store then (match t.postIdx w.seq with | some i => s.performPosted w.cell w.slot i | none => s)
        else (match t.outIdx w.seq with | some i => s.performOut w.cell w.slot i | none => s))

/-- Every synchronising access of a thread that a full list refused is tried again. -/
def State.syncRetry (s : State) (n k : Nat) : State :=
  let t := s.thrAt n k
  let s1 := (List.range t.out.length).foldl (fun s i =>
    match ((s.thrAt n k).out[i]?).map (·.act) with
    | some (.cons _ _ _) => s.performOut n k i
    | _ => s) s
  (List.range t.posted.length).foldl (fun s i =>
    match ((s.thrAt n k).posted[i]?).map (·.sync) with
    | some true => s.performPosted n k i
    | _ => s) s1

/-- SYNC_RETRY (R246). -/
def execSyncRetry (cell slot : Nat) (s : State) : Host.Outcome State Fault Refusal := .next (s.syncRetry cell slot)

/-- BARRIER_WAIT_RETRY: a refused barrier wait is tried again: the thread issues its bowait anew (R340). -/
def execBarrierWaitRetry (cell slot : Nat) (s : State) : Host.Outcome State Fault Refusal :=
  .next (
    let t := s.thrAt cell slot
    match t.wait with
    | .barRefused _ => s.setThrAt cell slot { t with wait := .none }
    | _ => s)

end Sys2Proof.Machine
end

