-- ==== Sys2Proof/Machine/Issue.lean ====
section
/-! DEFINITION. Issue: the fetch of a bundle (spec/11 R237), readiness and the choice of the issuing thread (spec/09 R170 to
R173), pairs (spec/13 R281), gangs (R175), threads on Dahlia cores (R185, R294, R321), and the reissue of replay
entries (spec/12 R258). The meanings of the instructions are a parameter: Machine/Step.lean gives `exec`. -/
namespace Sys2Proof.Machine

/-- The meanings of the instructions. -/
abbrev Exec := Instr → State → Host.Outcome State Fault Refusal

/-! ## Fetch -/

/-- What a fetch gives: a trap with its cause and PCAUSE, a wait, or the state after it and the bundle's 64 bits. -/
inductive Fetched where
  | trap (s : State) (cause pcause : Nat)
  | wait
  | word (s : State) (w : BitVec 64)

/-- The bundle that a fetch buffer holds for an address, or the memory's, kept from then on (R237): where the two differ,
which one the fetch gives is a free choice (DESIGN CHOICE, log 12). -/
def State.buffered (s : State) (key : Nat) (w : Word) : State × Word :=
  match s.fetchBuf.find? fun e => e.1 == key with
  | none => ({ s with fetchBuf := tput s.fetchBuf key w }, w)
  | some (_, o) =>
    if o = w then (s, w)
    else if Config.fetchOld s.free then ({ s with free := s.free + 1 }, o)
    else ({ s with free := s.free + 1, fetchBuf := tput s.fetchBuf key w }, w)

/-- A paged address lies in a host page, whatever its rights are. -/
def State.hostPage (s : State) (q va : Nat) : Bool :=
  match s.paged q va 0 with
  | .ok (.host _) => true
  | _ => false

/-- The fetch of the issuing thread's bundle (R237). The code of another device's thread lies in its own device, outside this
model: its bundle is a free value, the same at each fetch of an address (DESIGN CHOICE, log 16). -/
def State.fetch (s : State) : Fetched :=
  let t := s.thr
  let va := t.pc.toNat
  if t.far.isSome then
    let key := (2 ^ 64 + t.gid.toNat) * 2 ^ 57 + va % 2 ^ 57
    match s.fetchBuf.find? fun e => e.1 == key with
    | some (_, w) => .word s w
    | none =>
      let (w, s1) := s.fresh
      .word { s1 with fetchBuf := tput s1.fetchBuf key w } w
  else if va / 2 ^ 57 ≠ 0 ∨ !isPaged va then .trap s cXLATE 0
  else match s.paged t.part va (if s.hostPage t.part va then 0 else rEX) with
  | .error c => .trap s c 0
  | .ok (.hbm a) =>
    if s.locStall (.hbm a) ∨ s.moveStall t.part va then .wait
    else
      let s1 := s.openLine (s.keyOf t.part) a
      if s1.lineBad a then .trap s1 cPOISON 7
      else
        let (s2, w) := s1.buffered (t.part * 2 ^ 57 + va) (W (readLE s1.hbmByte a 8))
        .word s2 w
  | .ok _ => .trap s cXLATE 0

/-! ## Readiness -/

/-- The instructions of a bundle. -/
def instrsOf : Bundle → List Instr
  | .lone i => [i]
  | .pair c a => [c, a]

/-- A scalar register that a thread writes or reads as a destination of an outstanding instruction (R280). -/
def Thread.pends (t : Thread) (r : Nat) : Bool := t.out.any fun p => p.dst == some r

/-- The scalar destination of an instruction, if it is one that can be empty. -/
def dstNo (i : Instr) : Option Nat := (scalarDst i).map (·.toNat)

/-- A destination port whose FIFO holds four messages or has them on their way (R178). -/
def State.portFull (s : State) (r : Nat) : Bool :=
  if 48 ≤ r ∧ r < 52 then
    match meshNeighbour s.turn (r - 48) with
    | some m =>
      let p := (r - 48 + 2) % 4
      decide (4 ≤ (s.fifo m p).length + (s.flights.filter fun f => f.cell == m && f.reg == 64 + p).length)
    | none => false
  else false

/-- A tile or stream register with a write pending that an instruction names (R181), or one that it writes and that a queued matrix command
or an outstanding instruction of the thread has as its source (R347, R370, R399). -/
def State.pendingReg (s : State) (i : Instr) : Bool :=
  (tileDsts i).any (fun t => decide (t < s.thr.tiles.length) && s.thr.out.any (fun p => p.keeps.contains (s.tphys t))) ||
  (strmDsts i).any (fun q => decide (q < s.thr.strms.length) && s.thr.out.any (fun p => p.keeps.contains (32 + s.sphys q))) ||
  (tileDsts i).any (fun t => decide (t < s.thr.tiles.length) && s.cell.mq.any (fun m => m.hold.contains (32 * (s.cur / 16) + s.tphys t))) ||
  (tileSrcs i ++ tileDsts i).any (fun t => decide (t < s.thr.tiles.length) && (s.tile t).pending) ||
  (strmSrcs i ++ strmDsts i).any (fun q => decide (q < s.thr.strms.length) && (s.strm q).pending)

/-- A bank in retention that an instruction names (R182): tile banks 0 to 3, stream banks 4 and 5. -/
def State.sleeping (s : State) (i : Instr) : Option Nat :=
  (((tileSrcs i ++ tileDsts i).filter fun t => decide (t < s.thr.tiles.length)).map fun t => s.tphys t / 8).find?
    (fun b => s.bankPower s.turn b == 1) |>.or
  ((((strmSrcs i ++ strmDsts i).filter fun q => decide (q < s.thr.strms.length)).map fun q => 4 + s.sphys q / 8).find?
    (fun b => s.bankPower s.turn b == 1))

/-- A port without a neighbour at the mesh edge (R178). -/
def State.offEdge (s : State) (r : Nat) : Bool := decide (48 ≤ r) && decide (r < 52) && (meshNeighbour s.turn (r - 48)).isNone

/-- An instruction that sets flags in st as it issues (R206, R298 to R300). -/
def flagsSt (i : Instr) : Bool :=
  match i with
  | .fadd _ _ _ _ _ => true | .fsub _ _ _ _ _ => true | .fmul _ _ _ _ _ => true | .fdiv _ _ _ _ _ => true | .fsqrt _ _ _ _ => true
  | .fma _ _ _ _ _ => true | .fcvt _ _ _ _ _ => true | .fcvti _ _ _ _ _ => true | .icvtf _ _ _ _ _ => true | .fexp2 _ _ _ _ => true
  | _ => false

/-- Why a thread is not ready to issue a bundle of instructions, if it is not: `true` on message, `false` on memory
(R171, R178, R181, R253, R280). A port off the edge keeps no bundle back, which then raises ILLEGAL; st, which has no full/empty bit, is not
there while an outstanding instruction has it as its destination, neither to read nor to set flags in. DEDUCED, log 58. -/
def State.unready (s : State) (is : List Instr) : Option Bool :=
  let t := s.thr
  let rs := (is.flatMap s.readsOf).filter fun r => (!s.isFull r && !s.offEdge r) || (r == 61 && t.pends r)
  if rs.any fun r => t.pends r then some false
  else if !rs.isEmpty then some true
  else if is.any fun i => ((dstNo i).map t.pends).getD false || (flagsSt i && t.pends 61) then some false
  else if is.any fun i => ((dstNo i).map s.portFull).getD false then some true
  else if is.any s.pendingReg then some false
  else if decide (8 ≤ t.out.length) && is.any (fun i => (laOf i).isSome) then some false
  else none

/-! ## One bundle -/

/-- The first unit of the active bank, still to be loaded, of a tile or stream register that an instruction names (R264). -/
def State.unloaded (s : State) (i : Instr) : Option Nat :=
  let ts := ((tileSrcs i ++ tileDsts i).filter fun t => decide (t < s.thr.tiles.length)).map s.tphys
  let qs := ((strmSrcs i ++ strmDsts i).filter fun q => decide (q < s.thr.strms.length)).map fun q => 32 + s.sphys q
  (ts ++ qs).find? s.cell.swap.contains

/-- The operands of a bundle captured at issue (R281): every register it reads, and the full/empty bit of a register
that isfull names. DESIGN CHOICE, log 1. -/
def State.capture (s : State) (is : List Instr) : State :=
  let vs := (is.flatMap reads).foldl (fun l r => tput l r (s.regOf s.turn s.thr r)) ([] : Tab Word)
  let fs := is.foldl (fun l i => match i with
    | .isfull _ a => tput l (64 + a.toNat) (if s.isFull a.toNat then 1#64 else 0#64)
    | _ => l) vs
  s.setThr { s.thr with latch := some fs }

/-- The priority of a trap cause (R252). -/
def causePrio (c : Nat) : Nat :=
  match c with
  | 1 => 2 | 2 => 5 | 3 => 6 | 5 => 4 | 6 => 3 | 7 => 10 | 8 => 8 | 9 => 11 | 10 => 9 | 12 => 1 | 13 => 7 | 14 => 12
  | _ => 99

/-- A thread has stopped with a trap. -/
def State.stopped (s : State) : Bool := s.thr.stop.isSome

/-- The cause with which it stopped. -/
def State.stopCause (s : State) : Nat := (s.thr.stop.map (·.cause.toNat)).getD 0

/-- A bundle executed from captured operands (R281, R252): of two traps the one with the lower priority number, the C
slot's first on a tie; of a trap and a wait the wait, since a pair issues only when both of its slots are ready;
otherwise both slots' effects. -/
def bundleRun (exec : Exec) (b : Bundle) (s : State) : Host.Outcome State Fault Refusal :=
  match b with
  | .lone i => exec i s
  | .pair c a =>
    match exec c s with
    | .next x =>
      match exec a s with
      | .next y =>
        if x.thr.wait.holds then .next x
        else if y.thr.wait.holds then .next y
        else if x.stopped && (!y.stopped || decide (causePrio x.stopCause ≤ causePrio y.stopCause)) then .next x
        else if y.stopped then .next y
        else exec a x
      | o => o
    | o => o

/-- The ports that a bundle reads popped, once each (R178). -/
def State.popBundle (s : State) (is : List Instr) : State := s.popPorts (is.flatMap s.srcsOf)

/-- The register banks that a bundle names, marked as named in this cycle (R182). -/
def State.nameBanks (s : State) (is : List Instr) : State :=
  let bs := is.flatMap fun i => (tileSrcs i ++ tileDsts i).map (fun t => s.tphys t / 8) ++ (strmSrcs i ++ strmDsts i).map (fun q => 4 + s.sphys q / 8)
  if bs.isEmpty then s
  else s.setCell s.turn { s.cell with idle := bs.foldl (fun l b => tput l b s.cycle) s.cell.idle }

/-- A bundle is over for its thread (R280, R281): captured operands are dropped, the windows of the instructions that
were outstanding before move on, and the thread goes to its next bundle behind the annulled ones (R279). -/
def State.commit (s : State) (seq : Nat) : State :=
  let t := s.thr
  let pc := t.npc + W (8 * t.skip)
  s.setThr { t with
    pc := pc, npc := pc, skip := 0, latch := none, noBreak := false, issued := false, wait := t.wait.behind,
    out := t.out.map fun p => if p.seq < seq then { p with since := p.since + 1 } else p }

/-- What an attempt to issue a thread gives: nothing to issue, a lane of a gang that is ready and held back (R175), a wait on message or on
memory with the state that the wait leaves, or the outcome of the bundle. -/
inductive Attempt where
  | vacant
  | held
  | wait (msg : Bool) (s : State)
  | issue (o : Host.Outcome State Fault Refusal)

/-- A trap that the fetch or the decoding of a bundle raises (R237, R282, R268). -/
def State.fetchTrap (s : State) (cause pcause : Nat) (faddr : Word) : State :=
  s.stopAt s.turn s.cur cause pcause faddr s.thr.pc s.thr.pc none false

/-- A thread back at its bundle, which waits, with what its attempt has done (R171). -/
def State.atBundle (s0 s : State) : State := s.setThr { s.thr with latch := none, pc := s0.thr.pc, npc := s0.thr.pc, skip := s0.thr.skip }

/-- What is left of an attempt whose bundle waits: a barrier wait keeps its place, a wait for a counter is known to it (R337), what a bmove
has moved, a fill that has been sent and a group that a contribution has sealed stand (R333, R422), other waits leave no effect. -/
def State.afterWait (s0 s : State) : Attempt :=
  match s0.thr.wait, s.thr.wait with
  | .barHeld _ _ _, .barHeld _ _ _ => .wait true s0
  | _, .barHeld _ _ _ => .wait true (s0.atBundle s)
  | _, .barRefused _ => .wait true (s0.atBundle s)
  | _, .polling => .wait true (s0.atBundle s)
  | _, .kept m => .wait m (s0.atBundle s)
  | _, .fillSent _ => .wait true (s0.atBundle s)
  | _, .mbox t v => .wait true (s0.setThr { s0.thr with wait := .mbox t v })
  | _, .parked m =>
    .wait m (if (s.cellAt s0.turn).swap = s0.cell.swap then s0 else s0.setCell s0.turn { s0.cell with swap := (s.cellAt s0.turn).swap })
  | _, _ => .wait false s0

/-- A thread's next bundle, decoded, attempted (R171, R281): `s0` before the fetch, `s` after it. -/
def attemptBundle (exec : Exec) (s0 s : State) (b : Bundle) : Attempt :=
  let is := (instrsOf b)
  match s.unready is with
  | some m => .wait m s0
  | none =>
    match is.findSome? s.sleeping with
    | some k => .wait false (s0.setThr { s0.thr with wait := .wake k })
    | none =>
    match is.findSome? s.unloaded with
    | some u => .wait false (s0.demandUnit s0.turn u)
    | none =>
      let t := s.thr
      let s1 := (s.setThr { t with npc := t.pc + 8#64, skip := 0, wait := t.wait.atBundle }).capture is
      match bundleRun exec b s1 with
      | .next x =>
        if (x.thr? x.turn x.cur).isNone then .issue (.next x)
        else if x.stopped then .issue (.next x)
        else if x.thr.wait.holds then s0.afterWait x
        else .issue (.next (((x.popBundle is).nameBanks is).commit t.seqNo))
      | o => .issue o

/-- A replay entry as an unfinished instruction that no action completes. -/
def pendOf (e : REntry) (seq : Nat) (late : Option (Nat × Nat)) : Pend :=
  { inst := e.inst, slot := e.slot, pc := e.pc, la := 0, since := 0, opA := e.opA, opB := e.opB, opC := e.opC, addr := e.addr,
    act := .ret [] 0#8, perf := none, dst := none, tiles := [], strms := [], held := [], late := late, faddr := e.addr, seq := seq, acq := false, keeps := [] }

/-- The operands of a replay entry as captured ones (R255): the sources in order, and g60 for a draw. DESIGN CHOICE, log 27. -/
def latchOf (e : REntry) (i : Instr) : Tab Word :=
  let l := ((srcs i).zip [e.opA, e.opB, e.opC]).foldl (fun l (r, v) => tput l r.toNat v) ([] : Tab Word)
  if draws i then tput l 60 e.opC else l

/-- The next replay entry reissued (R258): an entry that faults forms a new frame, itself marked FAULT; one that names a bank in retention
or a register still to be swapped waits for it (R182, R264). -/
def attemptReplay (exec : Exec) (s : State) (e : REntry) (rest : List REntry) : Attempt :=
  let t := s.thr
  let fail := fun (x : State) (c pc : Nat) (fa : Word) =>
    let y := x.setThr { t with out := t.out ++ [pendOf e t.seqNo (some (c, pc))], replay := rest }
    y.stopAt s.turn s.cur c pc fa e.pc t.pc (some t.out.length) false
  match instrOf e.slot e.inst with
  | none => .issue (.next (fail s cILLEGAL 0 0#64))
  | some i =>
    match s.sleeping i, s.unloaded i with
    | some k, _ => .wait false (s.setThr { t with wait := .wake k })
    | none, some u => .wait false (s.demandUnit s.turn u)
    | none, none =>
    let s1 := s.setThr { t with pc := e.pc, npc := t.npc, latch := some (latchOf e i), ea := some e.addr, wait := .none }
    match exec i s1 with
    | .next x =>
      match x.thr.stop with
      | some f => .issue (.next (fail s f.cause.toNat f.pcause.toNat f.faddr))
      | none =>
        if x.thr.wait.holds then s.afterWait x
        else .issue (.next (x.setThr { x.thr with pc := t.pc, npc := t.npc, skip := t.skip, latch := none, ea := none, replay := rest }))
    | o => .issue o

/-- An instruction whose thread waits for it on message (R171): one sent to a matrix unit and the tile that a get brings back (R388), a header on its way to a ring (R312,
R360), a barrier object's phase (R340), the answer to a tret (R314). -/
def Pend.onMessage (p : Pend) : Bool :=
  match p.act with
  | .msg _ _ => true
  | .mget => true
  | .append _ _ _ _ h => !h.isEmpty
  | .back _ => true
  | .phase _ _ => true
  | .bar _ _ _ => match instrOf p.slot p.inst with
    | some (.tret _ _) => true
    | _ => false
  | _ => false

/-- The thread's next bundle waits for an outstanding instruction: its window is over (R280), its header has not reached its ring (R312,
R360), or the bowait that the thread stands at has no answer (R340). -/
def Pend.due (p : Pend) : Bool :=
  match p.act with
  | .phase _ _ => p.perf.isNone
  | .append _ _ _ _ _ => decide (p.la ≤ p.since) || p.perf.isNone
  | .back _ => true
  | _ => decide (p.la ≤ p.since)

/-- What keeps a thread from issuing whatever its bundle is, if anything (R141, R148, R171, R263; R14, R20); one that came home in this cycle
issues from the next on, behind the fills that arrive for it (R199). DEDUCED, log 40. DESIGN CHOICE, log 40: a die that has halted issues nothing
for its threads that stand on a Dahlia core either; R14 names the cells only. -/
def State.blocked (s : State) (n k : Nat) (t : Thread) : Option Attempt :=
  let lanesStopped := t.lanes.any fun c => ((s.thrAt c k).stop).isSome
  if t.far.isNone ∧ (t.stop.isSome ∨ lanesStopped) then some (.wait true s)
  else if t.homeAt = s.cycle + 1 then some (.wait false s)
  else if t.far.isNone ∧ (t.ended ∨ !(s.dieAt (n / 64)).released ∨ s.dieHalted (n / 64) ∨ (s.cellAt n).stopped ∨
      (s.partAt t.part).switching ∨ !s.running t.part ∨ k / 16 ≠ s.bankOf t.part ∨
      (t.cls = 0 ∧ !s.gateOpen (n / 64))) then
    some (.wait false s)
  else
    let due := t.out.filter Pend.due
    let window : Option Attempt := if due.isEmpty then none else some (.wait (due.any Pend.onMessage) s)
    match t.wait with
    | .yielding c => if s.cycle ≤ c + 16 then some .vacant else window
    | .tbar _ _ => some (.wait true s)
    | .drift _ _ => some (.wait true s)
    | .barRefused _ => some (.wait true s)
    | .fillRefused _ => some (.wait true s)
    | .fillSent _ => some (.wait true s)
    | .wake b => if s.bankPower n b = 0 then window else some (.wait false s)
    | .migRefused _ => some (.wait false s)
    | .switched => some (.wait false s)
    | .halted => some (.wait false s)
    | _ => window

/-- An attempt to issue the thread of slot key `k` of cell `n` where it stands (R171, R237, R268). DEDUCED, log 63. -/
def attempt (exec : Exec) (s : State) (n k : Nat) : Attempt :=
  match s.thr? n k with
  | none => .vacant
  | some t =>
    match s.blocked n k t with
    | some a => a
    | none =>
      let x := s.at n k
      match t.owed with
      | (c, pc, fpc, fa) :: r => .issue (.next ((x.setThr { t with owed := r }).deferredTrap n k c pc fpc fa))
      | [] =>
      match t.replay with
      | e :: r => attemptReplay exec x e r
      | [] =>
        let brk := !t.noBreak && x.breakHit t
        match x.fetch with
        | .wait => .wait false s
        | .trap y c pc => .issue (.next (if brk ∧ c ≠ cPOISON then y.fetchTrap cBREAK 0 t.pc else y.fetchTrap c pc t.pc))
        | .word y w =>
          if brk then .issue (.next (y.fetchTrap cBREAK 0 t.pc))
          else match decodeBundle w with
          | .error _ => .issue (.next (y.fetchTrap cILLEGAL 0 0#64))
          | .ok b => attemptBundle exec x y b

/-! ## Gangs -/

/-- The threads of a gang resume together with their captured operands dropped. -/
def State.unlatch (s : State) (k : Nat) (lanes : List Nat) : State :=
  lanes.foldl (fun s c => s.setThrAt c k { s.thrAt c k with latch := none, issued := false }) s

/-- The lane has carried out its share of the bundle at its pc (R334). -/
def Thread.shared (t : Thread) : Bool :=
  match t.wait with
  | .shared pc => pc == t.pc
  | _ => false

/-- What one lane's share of a bundle gives from captured operands: trap, wait, or neither; a share that has been carried out gives
nothing more. DEDUCED, log 41. -/
def laneRun (exec : Exec) (b : Bundle) (s : State) (c k : Nat) : Host.Outcome State Fault Refusal :=
  if (s.thrAt c k).shared then .next (s.at c k) else bundleRun exec b (s.at c k)

/-- A bundle whose lanes act each for itself, so that one whose share is over does not wait for the others with it (R334). -/
def sharesKept (b : Bundle) : Bool :=
  (instrsOf b).any fun i => match i with
    | .cpsub _ _ _ _ _ => true
    | _ => false

/-- What is left of a range of `k` annulled bundles from an address, for a gang that goes on at `pc` (R279): those of the range from there on. -/
def annulledFrom (lo : Word) (k : Nat) (pc : Word) : Nat :=
  let d := (pc - lo).toNat
  if d % 8 = 0 ∧ d < 8 * k then k - d / 8 else 0

/-- Every lane's share carried out in ascending order; the first outcome that is no next state ends it. -/
def lanesRun (exec : Exec) (b : Bundle) (k : Nat) (s : State) : List Nat → Host.Outcome State Fault Refusal
  | [] => .next s
  | c :: r => match laneRun exec b s c k with
    | .next x => lanesRun exec b k x r
    | o => o

/-- The lanes that trap on a bundle (R257). -/
def lanesTrap (exec : Exec) (b : Bundle) (k : Nat) (s : State) (lanes : List Nat) : List Nat :=
  lanes.filter fun c => match laneRun exec b s c k with
    | .next x => x.stopped
    | _ => false

/-- A bundle committed on a gang (R175, R257): a trap of any lane stops every lane before it, each raising lane with its
own frame and the mask of them all; otherwise it takes effect on every lane that does not annul it, and the gang goes
where its leader goes, past the bundles that every lane annuls. -/
def gangCommit (exec : Exec) (s0 : State) (b : Bundle) (k : Nat) (lanes : List Nat) : Host.Outcome State Fault Refusal :=
  let live := lanes.filter fun c => (s0.thrAt c k).skip = 0
  let lead := lanes.headD 0
  let pc := (s0.thrAt lead k).pc
  let s1 := live.foldl (fun s c =>
    let x := s.at c k
    (x.setThr { x.thr with npc := pc + 8#64, wait := x.thr.wait.atBundle }).capture (instrsOf b)) s0
  let bad := lanesTrap exec b k s1 live
  if !bad.isEmpty then
    let mask := bad.foldl (fun m c => m + 2 ^ (s0.thrAt c k).lane) 0
    match lanesRun exec b k s1 bad with
    | .next x =>
      let y := bad.foldl (fun s c =>
        let t := s.thrAt c k
        s.setThrAt c k { t with stop := t.stop.map fun f => { f with glanes := BitVec.ofNat 8 mask } }) x
      .next (y.unlatch k lanes)
    | o => o
  else match lanesRun exec b k s1 live with
  | .next x =>
    if live.any fun c => (x.thrAt c k).wait.holds then
      if sharesKept b then
        .next (live.foldl (fun s c =>
          let t := s.thrAt c k
          if t.wait.holds then s.setThrAt c k { s0.thrAt c k with issued := false }
          else s.setThrAt c k { t with pc := pc, npc := pc, latch := none, wait := .shared pc }) (x.back s0))
      else .next (s0.setThrAt (live.headD 0) k { s0.thrAt (live.headD 0) k with issued := false })
    else
      let npc := if live.contains lead then (x.thrAt lead k).npc else pc + 8#64
      let left := fun c => if live.contains c then annulledFrom (pc + 8#64) (x.thrAt c k).skip npc else annulledFrom pc (x.thrAt c k).skip npc
      let skips := lanes.map left
      let m := skips.foldl Nat.min (skips.headD 0)
      .next (lanes.foldl (fun s c =>
        let y := s.at c k
        let z := if live.contains c then (y.popBundle (instrsOf b)).nameBanks (instrsOf b) else y
        let sk := left c
        let q := { z.thr with skip := 0, npc := npc + W (8 * m) }
        let w := (z.setThr q).commit (if live.contains c then (s0.thrAt c k).seqNo else 0)
        w.setThr { w.thr with skip := sk - m, noBreak := !live.contains c && z.thr.noBreak }) x)
  | o => o

/-- Lanes of a gang that raise causes before the bundle executes (R257): each sends its own frame with the mask of them all, and every lane
stops before the bundle. `f` gives each lane's cause, PCAUSE and FADDR. -/
def State.gangTrap (s : State) (k : Nat) (raise all : List Nat) (f : Nat → Nat × Nat × Word) : State :=
  let mask := raise.foldl (fun m c => m + 2 ^ (s.thrAt c k).lane) 0
  let y := raise.foldl (fun s c =>
    let pc := (s.thrAt c k).pc
    let x := s.stopAt c k (f c).1 (f c).2.1 (f c).2.2 pc pc none false
    let t := x.thrAt c k
    x.setThrAt c k { t with stop := t.stop.map fun g => { g with glanes := BitVec.ofNat 8 mask } }) s
  y.unlatch k all

/-- The bundle of a gang on one lane of those that execute it, `live` (R175, R257): it is fetched for them all, every lane raises what its
fetch, its decoding or a breakpoint raises, and the last lane to issue it commits it. -/
def laneBundle (exec : Exec) (s : State) (n k : Nat) (t : Thread) (live : List Nat) : Attempt :=
  let x := s.at n k
  let pc := t.pc
  let brk := live.filter fun c => !(s.thrAt c k).noBreak && (s.at c k).breakHit (s.thrAt c k)
  match x.fetch with
  | .wait => .wait false s
  | .trap y c pcause => .issue (.next (y.gangTrap k live t.lanes fun l => if c ≠ cPOISON ∧ brk.contains l then (cBREAK, 0, pc) else (c, pcause, pc)))
  | .word y w =>
    match decodeBundle w with
    | .error _ => .issue (.next (y.gangTrap k live t.lanes fun l => if brk.contains l then (cBREAK, 0, pc) else (cILLEGAL, 0, 0#64)))
    | .ok b =>
      if !brk.isEmpty then .issue (.next (y.gangTrap k brk t.lanes fun _ => (cBREAK, 0, pc)))
      else match (if t.shared then Attempt.issue (.next y) else attemptBundle exec x y b) with
        | .issue (.next _) =>
          let s1 := y.setThrAt n k { y.thrAt n k with issued := true }
          .issue (if live.all fun c => (s1.thrAt c k).issued then gangCommit exec s1 b k t.lanes else .next s1)
        | a => a

/-- The turn of one lane of a gang (R175, R279): a lane that annuls the bundle neither fetches nor issues it; the first of the others issues
it before they do. -/
def attemptLane (exec : Exec) (s : State) (n k : Nat) (t : Thread) : Attempt :=
  let live := t.lanes.filter fun c => (s.thrAt c k).skip == 0
  match s.blocked n k t with
  | some a => a
  | none =>
    match t.owed with
    | (c, pc, fpc, fa) :: r =>
      .issue (.next ((((s.at n k).setThr { t with owed := r }).deferredTrap n k c pc fpc fa).unlatch k t.lanes))
    | [] =>
    match t.replay with
    | e :: r => attemptReplay exec (s.at n k) e r
    | [] =>
      if t.issued ∨ t.skip ≠ 0 then .held
      else match laneBundle exec s n k t live with
        | .issue o => if n ≠ live.headD n ∧ !(s.thrAt (live.headD n) k).issued then .held else .issue o
        | a => a

/-- An attempt to issue a thread at its home cell. -/
def attemptHome (exec : Exec) (s : State) (n k : Nat) : Attempt :=
  match s.thr? n k with
  | none => .vacant
  | some t =>
    if t.site ≠ .home then .wait false s
    else if t.lanes.isEmpty then attempt exec s n k else attemptLane exec s n k t

/-! ## The rotation -/

/-- An attempt issues. -/
def Attempt.ready : Attempt → Bool
  | .issue _ => true
  | _ => false

/-- The thread of a slot is a single thread of class 1 to 3. -/
def State.lendable (s : State) (n k : Nat) : Bool :=
  match s.thr? n k with
  | some t => t.lanes.isEmpty && t.cls != 0
  | none => false

/-- The effective class of a slot's thread (R147). -/
def State.effCls (s : State) (n k : Nat) : Nat := max (s.thrAt n k).cls (s.thrAt n k).lent

/-- The slot that issues, of those of a barrel in the order of the rotation (R172): the owner of the rotation slot, if it is ready
and not of class 0; else the ready single thread of the highest effective class; else one of class 0. -/
def pickSlot (order : List Nat) (ready lend zero : Nat → Bool) (eff : Nat → Nat) : Option Nat :=
  if (order.head?.map fun j => ready j && !zero j).getD false then order.head?
  else
    let c := (order.filter fun j => lend j && ready j).foldl (fun m j =>
      match m with
      | none => some j
      | some i => if eff i < eff j then some j else some i) none
    match c with
    | some j => some j
    | none => order.find? fun j => ready j && zero j

/-- The slot key that issues in rotation slot `k` of a cell, given the attempts of its bank's slots (R172, R175): a gang's lane
issues in its own rotation slot only. -/
def State.choose (s : State) (n b k : Nat) (att : Nat → Attempt) : Option Nat :=
  let order := (List.range 16).map fun i => 16 * b + (k + i) % 16
  pickSlot order (fun j => (att j).ready && ((s.thrAt n j).lanes.isEmpty || (s.thrAt n j).cls != 0 || j == 16 * b + k)) (s.lendable n)
    (fun j => (s.thrAt n j).cls == 0) (s.effCls n)

/-- The counters of one rotation slot (R173, R270), unless they are frozen: the class of the owner's slot, the ready
threads, and a borrowed slot. -/
def State.countSlot (s : State) (n k m ready : Nat) (borrowed : Bool) : State :=
  if s.fld 7 0 0x80200 1 1 = 1 then s
  else
    let s1 := (s.bump 7 0 (0x400 * n + 0x20 * k + 8 * m) 0 64 1).bump 7 0 (0x400 * n + 0x200 + 8 * ready) 0 64 1
    if borrowed then s1.bump 7 0 (0x400 * n + 0x288) 0 64 1 else s1

/-- DRIFT taken at the boundary behind the barrier by the threads of a cell that a round released with it (R366), before the bundle that
follows it (R279): in a gang by lane 0. -/
def State.takeDrift (s : State) (n : Nat) : State :=
  (s.cellAt n).slots.foldl (fun s (k, t) =>
    match t with
    | some t =>
      match t.wait with
      | .drift m pc =>
        if t.stop.isSome then s
        else
          let s1 := s.setThrAt n k { t with wait := .none }
          if t.lane = 0 then s1.stopAt n k cDRIFT 0 m pc t.pc none false else s1
      | _ => s
    | none => s) s

/-- The state that an attempt's wait leaves, for the slots of a bank that hold a thread. -/
def State.keepWaits (s : State) (b : Nat) (att : State → Nat → Attempt) : State :=
  (List.range 16).foldl (fun s i => match att s (16 * b + i) with
    | .wait _ x => x.at s.turn s.cur
    | _ => s) s

/-- The rotation slot of a cell in the present cycle (R170). -/
def State.rotation (s : State) (n : Nat) : Nat := (s.cycle + 32 - n % 64 / 8 - n % 8) % 16

/-- The turn of a cell in the present cycle is over: it has had it (R170), or a cell of its die with a greater cid has, behind which it
would come too late (R358, R368: what threads of a die do in one cycle is done in ascending cid). -/
def State.turnOver (s : State) (n : Nat) : Bool :=
  s.cells.any fun (m, c) => decide (n ≤ m) && m / 64 == n / 64 && decide (m < 512) && c.issuedAt == s.cycle + 1

/-- The class of the rotation slot of a cell, 0 to 3 (R173), where the slot chosen issues, and the number of its ready threads. -/
def State.classify (exec : Exec) (s : State) (n : Nat) (pick : Option Nat) : Nat × Nat :=
  let b := s.cellBank n
  let own := 16 * b + s.rotation n
  let ready := (((List.range 16).map (16 * b + ·)).filter fun j => match attemptHome exec s n j with
    | .issue _ => true
    | .held => true
    | _ => false).length
  (match attemptHome exec s n own with
   | .issue _ => if pick = some own then 0 else 3
   | .wait m _ => if m then 2 else 1
   | _ => 3, ready)

/-- One turn of a cell (R170 to R173): the rotation slot of the cycle, the thread chosen, its bundle. A cell has one turn in a cycle. -/
def issueCell (exec : Exec) (n : Nat) (s : State) : Host.Outcome State Fault Refusal :=
  if s.turnOver n then .next s
  else
  let b := s.cellBank n
  let k := s.rotation n
  let s0 := (s.setCell n { s.cellAt n with issuedAt := s.cycle + 1 }).takeDrift n
  let s1 := s0.keepWaits b (fun x j => attemptHome exec x n j)
  let att := fun j => attemptHome exec s1 n j
  let pick := s1.choose n b k att
  let c := s1.classify exec n pick
  match pick with
  | none => .next (s1.countSlot n k c.1 c.2 false)
  | some j =>
    match att j with
    | .issue (.next x) => .next (x.countSlot n k c.1 c.2 (j != 16 * b + k))
    | .issue o => o
    | _ => .next s1

/-! ## Threads on Dahlia cores -/

/-- An instruction that a Dahlia core does not execute (R185, R294, R321, R347). -/
def homeOnly (i : Instr) : Bool :=
  match i with
  | .done => true | .tbar => true | .setpri _ _ => true | .launch _ _ _ => true | .fill _ _ => true | .cinv _ _ => true
  | .mbwait _ _ _ _ => true | .mbread _ _ _ => true | .bowait _ _ _ _ => true | .boread _ _ _ _ => true | .wmread _ _ _ => true
  | .fadd _ _ _ _ f => f == 1 | .fsub _ _ _ _ f => f == 1 | .fmul _ _ _ _ f => f == 1 | .fdiv _ _ _ _ f => f == 1
  | .fsqrt _ _ _ f => f == 1 | .fma _ _ _ _ f => f == 1 | .fmin _ _ _ f => f == 1 | .fmax _ _ _ f => f == 1
  | .fabs _ _ f => f == 1 | .fneg _ _ f => f == 1 | .fcvt _ _ _ _ f => f == 1 | .fcvti _ _ _ _ f => f == 1
  | .icvtf _ _ _ _ f => f == 1 | .fclass _ _ f => f == 1 | .fexp2 _ _ _ f => f == 1
  | .ldi _ _ => false | .ldih _ _ => false | .ldLone _ _ _ _ _ _ _ _ => false | .stLone _ _ _ _ _ _ => false
  | .ldsy _ _ _ _ _ => false | .stsy _ _ _ _ => false
  | .aadd _ _ _ _ _ _ _ _ _ => false | .aand _ _ _ _ _ _ _ _ _ => false | .aor _ _ _ _ _ _ _ _ _ => false
  | .axor _ _ _ _ _ _ _ _ _ => false | .amin _ _ _ _ _ _ _ _ _ => false | .amax _ _ _ _ _ _ _ _ _ => false
  | .aminu _ _ _ _ _ _ _ _ _ => false | .amaxu _ _ _ _ _ _ _ _ _ => false | .aswp _ _ _ _ _ _ _ _ _ => false
  | .acas _ _ _ _ _ _ _ _ _ _ => false
  | _ => match encode i with
    | some (.lone _) => true
    | _ => false

/-- A bundle sends a thread home from a Dahlia core: one of its instructions, a register it names, or an empty register
that nothing outstanding will fill (R185). -/
def State.needsHome (s : State) (is : List Instr) : Bool :=
  let t := s.thr
  is.any homeOnly || (is.flatMap named).any (fun r => decide (48 ≤ r) && decide (r ≤ 60)) ||
    (is.flatMap named).any (fun r => !s.isFull r && !t.pends r)

/-- The issuing thread may return home: its accesses from the site are done (R185, R186); what another device's has outstanding
completes here. -/
def State.mayReturn (s : State) : Bool :=
  let t := s.thr
  t.posted.isEmpty && (if t.far.isSome then t.out.isEmpty else t.out.all fun p => p.perf.isSome || p.act.locs.isEmpty)

/-- An attempt to return home. -/
def State.tryHome (s0 s : State) : Attempt := if s.mayReturn then .issue (.next (s.goHome s.turn s.cur)) else .wait false s0

/-- An attempt to issue a thread that stands on a Dahlia core of this device (R185): it issues there, or returns home first. -/
def attemptAway (exec : Exec) (s : State) (n k : Nat) : Attempt :=
  match s.thr? n k with
  | none => .vacant
  | some t =>
    match t.site with
    | .dahlia _ _ =>
      let x := s.at n k
      let home := t.owed.isEmpty && t.replay.isEmpty && (match x.fetch with
        | .word y w => match decodeBundle w with
          | .ok b => y.needsHome (instrsOf b)
          | .error _ => false
        | _ => false)
      if (s.blocked n k t).isNone && home then s.tryHome x
      else match attempt exec s n k with
        | .issue (.next y) => if !y.stopped && (y.thr? y.turn y.cur).isSome && (y.thr.site == .home) then s.tryHome x else .issue (.next y)
        | a => a
    | _ => .wait false s

/-- One turn of Dahlia core `j` of stack `k` (R36, R170, R172): the rotation slot of its cycle, the thread chosen, its bundle. At most one
turn in a cycle. -/
def issueCore (exec : Exec) (k j : Nat) (s : State) : Host.Outcome State Fault Refusal :=
  let s0 := s.farSweep
  let c := s0.coreOf k j
  if c.issuedAt = s.cycle + 1 then .next s0
  else
    let s1 := s0.setCore k j { c with issuedAt := s.cycle + 1 }
    let guest : Nat → Nat × Nat := fun i => match c.slots[i]? with
      | some (.own n key) => (n, key)
      | none => (0, 0)
    let att := fun i => if i < c.slots.length then attemptAway exec s1 (guest i).1 (guest i).2 else .vacant
    let thr := fun i => s1.thrAt (guest i).1 (guest i).2
    match pickSlot ((List.range 16).map fun i => (s.cycle + i) % 16) (fun i => (att i).ready) (fun i => decide (i < c.slots.length) && (thr i).cls != 0)
        (fun i => (thr i).cls == 0) (fun i => max (thr i).cls (thr i).lent) with
    | none => .next s1
    | some i => match att i with
      | .issue (.next y) => .next (y.back s)
      | .issue o => o
      | _ => .next s1

/-! ## A context that comes home from another device -/

/-- The address of an access that may migrate (R185), as the issuing thread's registers give it. -/
def State.accessOf (s : State) (i : Instr) : Option Word :=
  match i with
  | .ld _ _ y sz off => some (s.eaCM y sz off)
  | .lds _ _ y sz off => some (s.eaCM y sz off)
  | .ldx _ _ y z _ => some (s.rd y + s.rd z)
  | .ldsx _ _ y z _ => some (s.rd y + s.rd z)
  | .ldLone _ _ y _ _ _ _ off => some (s.eaLone y off)
  | .ldsy _ _ y _ off => some (s.eaLone y off)
  | .aadd _ _ y _ _ _ _ _ off => some (s.eaLone y off)
  | .aand _ _ y _ _ _ _ _ off => some (s.eaLone y off)
  | .aor _ _ y _ _ _ _ _ off => some (s.eaLone y off)
  | .axor _ _ y _ _ _ _ _ off => some (s.eaLone y off)
  | .amin _ _ y _ _ _ _ _ off => some (s.eaLone y off)
  | .amax _ _ y _ _ _ _ _ off => some (s.eaLone y off)
  | .aminu _ _ y _ _ _ _ _ off => some (s.eaLone y off)
  | .amaxu _ _ y _ _ _ _ _ off => some (s.eaLone y off)
  | .aswp _ _ y _ _ _ _ _ off => some (s.eaLone y off)
  | .acas _ _ y _ _ _ _ _ _ off => some (s.eaLone y off)
  | _ => none

/-- The access of the bundle at a thread's pc outstanding and unexecuted, and the thread behind the bundle: what a context brings home
that failed at its access (R187). Nothing where the bundle holds no such access. -/
def State.unexecuted (s : State) (n k : Nat) : Option State :=
  let x := s.at n k
  match x.fetch with
  | .word y w => match decodeBundle w with
    | .ok b => (instrsOf b).findSome? fun i => (y.accessOf i).map fun a =>
        let z := y.long i a (.cons (.peer 0 0 0) 0 0) none none false
        (z.setThr { z.thr with pc := z.thr.pc + 8#64, npc := z.thr.pc + 8#64 }).back s
    | .error _ => none
  | _ => none

/-- A context home with a failed access (R187): a late fault of that access, with the registers that it brings. The access for which it left
home is the one outstanding, and the context comes back as it left; one that it came to at the other device is that of its bundle. -/
def State.homeFailed (s : State) (n k : Nat) (ctx : LightCtx) (cause : Nat) : State :=
  let t := s.thrAt n k
  if { ctx with eff := t.departCtx.eff } = t.departCtx then
    ((s.setThrAt n k { t.withCtx ctx with pc := t.pc, npc := t.npc }).applyFills n k).answer n k t.lastOut.1 0#64 cause
  else
    let s1 := (s.setThrAt n k { t.withCtx ctx with out := t.out.filter (·.late.isSome) }).applyFills n k
    match s1.unexecuted n k with
    | some s2 => s2.answer n k (s2.thrAt n k).lastOut.1 0#64 cause
    | none => match trapOfCause (s1.ptrap t.part) cause with
      | some tr => s1.deferredTrap n k tr (if cause = 9 then 0 else cause) ctx.pc 0#64
      | none => s1

/-- MIGHOME: a context comes home from another device (R186, R187); a stop that waits for it goes on (R269). -/
def execMighome (cell slot : Nat) (ctx : LightCtx) (cause : Nat) (s : State) : Host.Outcome State Fault Refusal :=
  .next (s.onArrival 0x31 fun s =>
    let t := s.thrAt cell slot
    match t.site with
    | .peer _ =>
      let s1 := (s.dropGuest cell slot).setThrAt cell slot { t with site := .home, refusals := 0, wait := .none, homeAt := s.cycle + 1 }
      let s2 := if cause ≠ 0 then s1.homeFailed cell slot ctx cause
        else (s1.setThrAt cell slot { (s1.thrAt cell slot).withCtx ctx with out := t.out.filter (·.late.isSome) }).applyFills cell slot
      (s2.traceAt 5 0 cell slot t.lastOut.2).dstopOn t.part
    | _ => s)

end Sys2Proof.Machine
end

