-- ==== Sys2Proof/Machine/Attn.lean ====
section
/-! DEFINITION. Attention triples (spec/05 R107 to R110): the merge of two, the tree over ranks, and the normalised row. -/
namespace Sys2Proof.Machine

/-- A partial triple of FP32 patterns: running maximum, sum, weighted vector. -/
structure Triple where
  m : Nat
  s : Nat
  v : List Nat
  deriving DecidableEq, Repr

/-- +NaN of FP32 (R109). -/
def nan32 : Nat := 0x7FC00000

/-- A maximum that makes its row NaN: a NaN or +inf (R109, R110). -/
def badMax (m : Nat) : Bool :=
  match fdecode fp32 m with
  | .nan _ => true
  | .inf sg => !sg
  | _ => false

/-- An FP32 pattern that is -inf. -/
def isNegInf (m : Nat) : Bool :=
  match fdecode fp32 m with
  | .inf sg => sg
  | _ => false

/-- Rounding to FP32 with an exact zero as +0, and its flags (R109). -/
def rne32 (x : FVal) : Nat × Nat :=
  match x with
  | .fin _ 0 _ => (0, 0)
  | y => fencode fp32 0 0 y

/-- The factor of a side whose maximum is `x` under the maximum `m`, with flags (R109). -/
def mergeFactor (x m : Nat) : Nat × Nat :=
  if isNegInf x then (0, 0)
  else
    let (d, f1) := rne32 (fadd2 0 (fdecode fp32 x) (fdecode fp32 m).neg).1
    let (c, f2) := fencode fp32 0 0 (fexp2v (fdecode fp32 d)).1
    (c, f1 ||| f2)

/-- rne(exact(x * a + y * b), FP32), with flags (R109). -/
def mergeEl (x a y b : Nat) : Nat × Nat :=
  let (p, f1) := fmul2 (fdecode fp32 x) (fdecode fp32 a)
  let (q, f2) := fmul2 (fdecode fp32 y) (fdecode fp32 b)
  let (r, f3) := fadd2 0 p q
  let (v, f4) := rne32 r
  (v, f1 ||| f2 ||| f3 ||| f4)

/-- merge(a, b) with the flags of its roundings (R109, R206). -/
def Triple.mergeF (a b : Triple) : Triple × Nat :=
  if badMax a.m || badMax b.m then ({ m := nan32, s := nan32, v := a.v.map fun _ => nan32 }, 0)
  else if isNegInf a.m && isNegInf b.m then ({ m := 0xFF800000, s := 0, v := a.v.map fun _ => 0 }, 0)
  else
    let m := if isNegInf a.m then b.m else if isNegInf b.m then a.m
      else if fltTotal (fdecode fp32 a.m) (fdecode fp32 b.m) then b.m else a.m
    let (ca, f1) := mergeFactor a.m m
    let (cb, f2) := mergeFactor b.m m
    let (sm, f3) := mergeEl a.s ca b.s cb
    let v := (a.v.zip b.v).map fun (x, y) => mergeEl x ca y cb
    ({ m := m, s := sm, v := v.map (·.1) }, v.foldl (fun f e => f ||| e.2) (f1 ||| f2 ||| f3))

/-- merge(a, b) (R109). -/
def Triple.merge (a b : Triple) : Triple := (a.mergeF b).1

/-- One level of the tree of R108: neighbours merged, a last one alone passes up. -/
def mergeLevel : List Triple → List Triple
  | a :: b :: r => a.merge b :: mergeLevel r
  | l => l

/-- The tree of R108 over the ranks' triples, with fuel for its levels. -/
def mergeTree : Nat → List Triple → Option Triple
  | _, [] => none
  | _, [a] => some a
  | 0, a :: _ => some a
  | n + 1, l => mergeTree n (mergeLevel l)

/-- The output elements of a normalised row, with flags (R110). -/
def Triple.normF (t : Triple) : List (Nat × Nat) :=
  if badMax t.m then t.v.map fun _ => (nan32, 0)
  else match fdecode fp32 t.s with
    | .fin _ 0 _ => t.v.map fun _ => (0, 0)
    | d => t.v.map fun x =>
      let (q, f1) := fdiv2 (fdecode fp32 x) d
      let (r, f2) := fencode fp32 0 0 q
      (r, f1 ||| f2)

/-- The output elements of a normalised row (R110). -/
def Triple.norm (t : Triple) : List Nat := t.normF.map (·.1)

end Sys2Proof.Machine
end

