-- ==== Sys2Proof/Machine/Flags.lean ====
section
/-! DEFINITION. Scalar floating point (spec/14 R298 to R300): operands, rounding, the flags ORed into st (R206), and one
meaning per instruction. -/
namespace Sys2Proof.Machine

/-- The operand of a floating instruction: the register's low bits in the format (R298). -/
def State.fop (s : State) (F : Fmt) (r : GReg) : FVal := fdecode F ((s.rd r).toNat % 2 ^ F.width)

/-- The draw of a scalar instruction: lineage the bundle's pc, idx 0 (R207, R298). -/
def State.draw0 (s : State) : Nat := (rng (s.rdN 60) s.thr.pc s.thr.lane 0).toNat

/-- A floating result written with its flags (R206, R298). -/
def State.fres (s : State) (F : Fmt) (rm : BitVec 3) (d : GReg) (r : FVal × Nat) : State :=
  let (v, fl) := fencode F rm.toNat s.draw0 r.1
  (s.wr d (W v)).orSt (fl ||| r.2)

/-- The exact difference; a NaN keeps its sign (R202). -/
def fsub2 (rm : Nat) (a b : FVal) : FVal × Nat := if b.isNan then fadd2 rm a b else fadd2 rm a b.neg

/-- FADD. -/
def execFadd (d a b : GReg) (r : BitVec 3) (f : BitVec 2) (s : State) :=
  s.run (.fadd d a b r f) fun s => s.fres (fmtOfF f) r d (fadd2 r.toNat (s.fop (fmtOfF f) a) (s.fop (fmtOfF f) b))
/-- FSUB. -/
def execFsub (d a b : GReg) (r : BitVec 3) (f : BitVec 2) (s : State) :=
  s.run (.fsub d a b r f) fun s => s.fres (fmtOfF f) r d (fsub2 r.toNat (s.fop (fmtOfF f) a) (s.fop (fmtOfF f) b))
/-- FMUL. -/
def execFmul (d a b : GReg) (r : BitVec 3) (f : BitVec 2) (s : State) :=
  s.run (.fmul d a b r f) fun s => s.fres (fmtOfF f) r d (fmul2 (s.fop (fmtOfF f) a) (s.fop (fmtOfF f) b))
/-- FDIV. -/
def execFdiv (d a b : GReg) (r : BitVec 3) (f : BitVec 2) (s : State) :=
  s.run (.fdiv d a b r f) fun s => s.fres (fmtOfF f) r d (fdiv2 (s.fop (fmtOfF f) a) (s.fop (fmtOfF f) b))
/-- FSQRT. -/
def execFsqrt (d a : GReg) (r : BitVec 3) (f : BitVec 2) (s : State) :=
  s.run (.fsqrt d a r f) fun s => s.fres (fmtOfF f) r d (fsqrt1 (s.fop (fmtOfF f) a))
/-- FMA. -/
def execFma (d a b : GReg) (r : BitVec 3) (f : BitVec 2) (s : State) :=
  s.run (.fma d a b r f) fun s =>
    s.fres (fmtOfF f) r d (ffma3 r.toNat (s.fop (fmtOfF f) a) (s.fop (fmtOfF f) b) (s.fop (fmtOfF f) d))

/-- The lesser or greater of two values by R298, as an encoded pattern. -/
def fminmax (F : Fmt) (greater : Bool) (a b : FVal) : Nat :=
  if a.isNan || b.isNan then (F.nanPat (match firstNan [a, b] with | .nan s => s | _ => false)).1
  else (fencode F 0 0 (if fltTotal b a != greater then b else a)).1

/-- FMIN. -/
def execFmin (d a b : GReg) (f : BitVec 2) (s : State) :=
  s.run (.fmin d a b f) fun s => s.wr d (W (fminmax (fmtOfF f) false (s.fop (fmtOfF f) a) (s.fop (fmtOfF f) b)))
/-- FMAX. -/
def execFmax (d a b : GReg) (f : BitVec 2) (s : State) :=
  s.run (.fmax d a b f) fun s => s.wr d (W (fminmax (fmtOfF f) true (s.fop (fmtOfF f) a) (s.fop (fmtOfF f) b)))
/-- FABS. -/
def execFabs (d a : GReg) (f : BitVec 2) (s : State) :=
  s.run (.fabs d a f) fun s => s.wr d (W ((s.rd a).toNat % 2 ^ ((fmtOfF f).width - 1)))
/-- FNEG. -/
def execFneg (d a : GReg) (f : BitVec 2) (s : State) :=
  s.run (.fneg d a f) fun s =>
    s.wr d (W (((s.rd a).toNat % 2 ^ (fmtOfF f).width + 2 ^ ((fmtOfF f).width - 1)) % 2 ^ (fmtOfF f).width))
/-- FCVT. -/
def execFcvt (d a : GReg) (g : BitVec 2) (r : BitVec 3) (f : BitVec 2) (s : State) :=
  s.run (.fcvt d a g r f) fun s => s.fres (fmtOfF g) r d (s.fop (fmtOfF f) a, 0)

/-- The range of an integer type of R299: 0 i64, 1 u64, 2 i32, 3 u32. -/
def ityRange (t : Nat) : Int × Int :=
  match t with
  | 0 => (-((2 ^ 63 : Nat) : Int), (2 ^ 63 : Nat) - 1)
  | 1 => (0, (2 ^ 64 : Nat) - 1)
  | 2 => (-((2 ^ 31 : Nat) : Int), (2 ^ 31 : Nat) - 1)
  | _ => (0, (2 ^ 32 : Nat) - 1)

/-- FCVTI. -/
def execFcvti (d a : GReg) (t : BitVec 6) (r : BitVec 3) (f : BitVec 2) (s : State) :=
  s.run (.fcvti d a t r f) fun s =>
    let (i, fl) := fToInt r.toNat s.draw0 (ityRange t.toNat).1 (ityRange t.toNat).2 (s.fop (fmtOfF f) a)
    (s.wr d (BitVec.ofInt 64 i)).orSt fl

/-- The integer that icvtf reads (R299). -/
def ityVal (t : Nat) (v : Word) : Int :=
  match t with
  | 0 => v.toInt
  | 1 => v.toNat
  | 2 => sInt 32 v.toNat
  | _ => (v.toNat % 2 ^ 32 : Nat)

/-- ICVTF. -/
def execIcvtf (d a : GReg) (t : BitVec 6) (r : BitVec 3) (f : BitVec 2) (s : State) :=
  s.run (.icvtf d a t r f) fun s => s.fres (fmtOfF f) r d (ofInt (ityVal t.toNat (s.rd a)) 0, 0)
/-- FCLASS. -/
def execFclass (d a : GReg) (f : BitVec 2) (s : State) :=
  s.run (.fclass d a f) fun s => s.wr d (W (2 ^ fclassBit (fmtOfF f) (s.fop (fmtOfF f) a)))
/-- FEXP2. -/
def execFexp2 (d a : GReg) (r : BitVec 3) (f : BitVec 2) (s : State) :=
  s.run (.fexp2 d a r f) fun s => s.fres (fmtOfF f) r d (fexp2v (s.fop (fmtOfF f) a))

end Sys2Proof.Machine
end

