-- ==== Sys2Proof/Machine/Tile.lean ====
section
/-! DEFINITION. Tile registers (spec/17 R369 to R382, R390 to R392): elements and their packing, tile loads and stores, moves
inside the register file, element-wise arithmetic, reductions, conversions, block scales and attention tiles. -/
namespace Sys2Proof.Machine

/-! ## Elements -/

/-- A little-endian number of a list of bytes. -/
def leNum : List Byte → Nat
  | [] => 0
  | b :: r => b.toNat + 256 * leNum r

/-- The 32 rows of a tile as numbers of 1,024 bits (R180). -/
def Tile.rows (t : Tile) : List Nat := (chunks 128 32 t.all).map leNum

/-- The bit of a row at which the element of `w` bits at a position starts (R180, R213). -/
def elemBit (w pos : Nat) : Nat := if w = 6 then pos / 32 * 192 + 6 * (pos % 32) else w * pos

/-- The elements of a row. -/
def rowElems (te : BitVec 4) (r : Nat) : List Nat :=
  (List.range (tePerRow te)).map fun p => r / 2 ^ elemBit (teBits te) p % 2 ^ teBits te

/-- The elements of a tile in order (R369). -/
def Tile.elems (t : Tile) (te : BitVec 4) : List Nat := t.rows.flatMap (rowElems te)

/-- A row of elements from position `p` on; bits between blocks and unused bytes are zero (R213). -/
def packRow (w : Nat) : Nat → List Nat → Nat
  | _, [] => 0
  | p, v :: r => v % 2 ^ w * 2 ^ elemBit w p + packRow w (p + 1) r

/-- Rows that hold a list of elements. -/
def packRows (te : BitVec 4) (vs : List Nat) : List Nat := (chunks (tePerRow te) 32 vs).map (packRow (teBits te) 0)

/-- The bytes of rows. -/
def rowsTab (rs : List Nat) : Tab Byte := sparse 0 (rs.flatMap fun r => (List.range 128).map fun j => BitVec.ofNat 8 (r / 256 ^ j))

/-- Rows with those from `k` on replaced. -/
def putRows (rs new : List Nat) (k : Nat) : List Nat := rs.take k ++ new ++ rs.drop (k + new.length)

/-- The floating format of an element code (R369). -/
def teFmt (te : BitVec 4) : Fmt :=
  match te.toNat with
  | 0 => bf16 | 1 => fp16 | 2 => e4m3 | 3 => e5m2 | 4 => e4m3 | 5 => e5m2 | 6 => e2m3 | 7 => e3m2 | 8 => e2m1 | 13 => fp64
  | _ => fp32

/-- The draw of element `idx` of the issuing thread's instruction, made only for stochastic rounding (R207, R370). -/
def State.drawAt (s : State) (rm : BitVec 3) (idx : Nat) : Nat :=
  if rm = 4#3 then (rng (s.rdN 60) s.thr.pc s.thr.lane idx).toNat else 0

/-- An instruction whose only effect is on tile registers (R370): its results are written and its flags ORed into st when
it completes. -/
def State.tilesRes (s : State) (i : Instr) (ws : List (Nat × List Nat)) (fl : Nat) : State :=
  s.long i 0#64 (.ret (ws.map fun (t, rs) => .tile (s.tphys t) (rowsTab rs)) (BitVec.ofNat 8 fl)) none none false

/-- The results of a function over the elements of up to three tiles with their index, and the flags of all. -/
def vmap (g : Nat → Nat → Nat → Nat → Nat × Nat) : Nat → List Nat → List Nat → List Nat → List Nat × Nat
  | e, a :: ar, b :: br, c :: cr =>
    let (v, f) := g e a b c
    let (vs, fs) := vmap g (e + 1) ar br cr
    (v :: vs, f ||| fs)
  | _, _, _, _ => ([], 0)

/-! ## Tile registers and memory -/

/-- The addresses of the lines of `nrow` rows (R371): two for each row. -/
def rowLines (a : Word) (pitch nrow : Nat) : List Word :=
  (List.range nrow).flatMap fun i => [a + W (64 * pitch * i), a + W (64 * pitch * i + 64)]

/-- The lines translated one by one, up to the first that fails with its cause (R372). DEDUCED, log 56. -/
def State.linesGo (s : State) (need kinds : Nat) : List Word → List (Nat × Loc) × Option (Nat × Word)
  | [] => ([], none)
  | va :: r =>
    match s.locate s.thr va 64 need with
    | .error c => ([], some (c, va))
    | .ok l =>
      if s.watchHit s.thr va.toNat 64 kinds then ([], some (cWATCH, va))
      else
        let (ls, e) := s.linesGo need kinds r
        ((va.toNat, l) :: ls, e)

/-- A tile access that may not issue yet (R58, R165, R234, R239, R241): a line waits, or the retransmit window to a device has
no room for every line that lies there. -/
def State.linesWait (s : State) (ls : List (Nat × Loc)) (rel : Bool) (sc : Nat) : Bool :=
  ls.any fun (va, l) => s.accessWaits (W va) 64 l || s.peerHolds l rel sc ||
    (match l with
     | .peer d _ _ => decide (64 < (s.txOf d true).unacked.length +
         (ls.filter fun x => match x.2 with | .peer e _ _ => e == d | _ => false).length)
     | _ => false)

/-- The issuing thread waits for lines, whose scratch blocks it demands (R264). -/
def State.parkLines (s : State) (ls : List (Nat × Loc)) : State := (ls.reverse.foldl (fun s x => s.demandLoc x.2) s).park false

/-- The issuing thread's last outstanding instruction given a late fault. -/
def State.lateLast (s : State) (c : Nat) (fa : Word) : State :=
  s.setThr { s.thr with out := s.thr.out.modify (s.thr.out.length - 1) fun p => { p with late := some (c, 0), faddr := fa } }

/-- The state after the window slot of a line that fails translation was read (R70). -/
def State.lateSeen (s : State) (c : Nat) (fa : Word) : State := if c = cXLATE then s.slotSeen s.thr.part fa.toNat else s

/-- TLD (R371, R372). -/
def execTld (la : BitVec 4) (td : BitVec 5) (gx : GReg) (sc : BitVec 2) (acq : Bool) (nrow1 : BitVec 5) (pitch : BitVec 12) (s : State) :=
  s.run (.tld la td gx sc acq nrow1 pitch) fun s =>
    let i : Instr := .tld la td gx sc acq nrow1 pitch
    let a := s.eaOf (s.rd gx)
    if a.toNat % 64 ≠ 0 then s.trap cALIGN a
    else if a.toNat / 2 ^ 57 ≠ 0 then s.trap cXLATE a
    else
      let (ls, e) := s.linesGo rRD 1 (rowLines a pitch.toNat (nrow1.toNat + 1))
      match e with
      | some (c, fa) => ((s.lateSeen c fa).long i a (.ret [] 0#8) none none acq).lateLast c fa
      | none =>
        if s.linesWait ls false 0 then s.parkLines ls
        else
          let s1 := s.long i a (.rows ls (s.tphys td.toNat) acq sc.toNat) none none acq
          ls.foldl (fun s x => match x.2 with
            | .peer d rw off => s.request 0x10 1 d rw off 64 acq false sc.toNat 0 (lineMask off 64) []
            | _ => s) s1

/-- One line of a tile store posted (R371). -/
def State.postLine (s : State) (va : Nat) (l : Loc) (v : Line) (rel : Bool) (sc : Nat) : State :=
  let s1 := s.post l 64 0#64 0#64 none false rel sc (W va)
  let s2 := s1.setThr { s1.thr with posted := s1.thr.posted.modify (s1.thr.posted.length - 1) fun p => { p with wide := some v } }
  match l with
  | .peer d rw off => s2.request 0x12 2 d rw off 64 false rel sc 0 (lineMask off 64) ((List.range 8).map fun j => W (v.toNat / 2 ^ (64 * j)))
  | _ => s2

/-- TST (R371, R372): the rows below a faulting one are stored. -/
def execTst (la : BitVec 4) (ta : BitVec 5) (gx : GReg) (sc : BitVec 2) (rel : Bool) (nrow1 : BitVec 5) (pitch : BitVec 12) (s : State) :=
  s.run (.tst la ta gx sc rel nrow1 pitch) fun s =>
    let i : Instr := .tst la ta gx sc rel nrow1 pitch
    let a := s.eaOf (s.rd gx)
    if a.toNat % 64 ≠ 0 then s.trap cALIGN a
    else if a.toNat / 2 ^ 57 ≠ 0 then s.trap cXLATE a
    else
      let (ls, e) := s.linesGo rWR 2 (rowLines a pitch.toNat (nrow1.toNat + 1))
      if s.linesWait ls rel sc.toNat then s.parkLines ls
      else
        let rows := (s.tile ta.toNat).rows
        let full := match e with | none => ls.length | some _ => ls.length / 2 * 2
        let s1 := ((ls.take full).zipIdx).foldl (fun s (x, j) =>
          s.postLine x.1 x.2 (BitVec.ofNat 512 (rows.getD (j / 2) 0 / 2 ^ (512 * (j % 2)))) rel sc.toNat) s
        let s2 := s1.long i a (.ret [] 0#8) none none false
        match e with
        | none => s2
        | some (c, fa) => (s2.lateSeen c fa).lateLast c fa

/-- TMOV (R373). -/
def execTmov (la : BitVec 4) (td ta : BitVec 5) (row : Bool) (rd ra : BitVec 5) (s : State) :=
  s.run (.tmov la td ta row rd ra) fun s =>
    let a := (s.tile ta.toNat).rows
    let r := if row then (s.tile td.toNat).rows.set rd.toNat (a.getD ra.toNat 0) else a
    s.tilesRes (.tmov la td ta row rd ra) [(td.toNat, r)] 0

/-- A row that holds one element of `n` bytes again and again. -/
def fillRow (n v : Nat) : Nat := (List.range (128 / n)).foldl (fun r j => r + v % 2 ^ (8 * n) * 2 ^ (8 * n * j)) 0

/-- TFILL (R373). -/
def execTfill (la : BitVec 4) (td : BitVec 5) (gx : GReg) (sz : BitVec 2) (row : Bool) (rd : BitVec 5) (s : State) :=
  s.run (.tfill la td gx sz row rd) fun s =>
    let v := fillRow (szBytes sz) (s.rd gx).toNat
    let r := if row then (s.tile td.toNat).rows.set rd.toNat v else List.replicate 32 v
    s.tilesRes (.tfill la td gx sz row rd) [(td.toNat, r)] 0

/-! ## Vector arithmetic -/

/-- An exact integer written in `w` bits: saturated, with SAT, or modulo 2^w (R375, R216). -/
def intOut (w : Nat) (sati : Bool) (v : Int) : Nat × Nat :=
  let lo : Int := -((2 ^ (w - 1) : Nat) : Int)
  let hi : Int := ((2 ^ (w - 1) : Nat) : Int) - 1
  let wrap := fun (x : Int) => (x % ((2 ^ w : Nat) : Int)).toNat
  if sati && decide (v < lo) then (wrap lo, flSAT)
  else if sati && decide (hi < v) then (wrap hi, flSAT)
  else (wrap v, 0)

/-- Operand b of an element-wise operation (R375): the scalar in every place, or tB. -/
def State.opB (s : State) (te : BitVec 4) (tb : BitVec 5) (gx : GReg) (bc : Bool) : List Nat :=
  if bc then List.replicate (teCount te) ((s.rd gx).toNat % 2 ^ teBits te) else (s.tile tb.toNat).elems te

/-- An element-wise operation on raw elements (R375). -/
def State.vraw (s : State) (i : Instr) (te : BitVec 4) (td ta : BitVec 5) (bs cs : List Nat) (g : Nat → Nat → Nat → Nat → Nat × Nat) : State :=
  let (vs, fl) := vmap g 0 ((s.tile ta.toNat).elems te) bs cs
  s.tilesRes i [(td.toNat, packRows te vs)] fl

/-- An element-wise arithmetic operation (R375): `f` on floating values, `g` on exact integers. -/
def State.varith (s : State) (i : Instr) (te : BitVec 4) (rm : BitVec 3) (sati : Bool) (td ta : BitVec 5) (bs cs : List Nat)
    (f : FVal → FVal → FVal → FVal × Nat) (g : Int → Int → Int → Int) : State :=
  s.vraw i te td ta bs cs fun e a b c =>
    if teInt te then intOut (teBits te) sati (g (sInt (teBits te) a) (sInt (teBits te) b) (sInt (teBits te) c))
    else
      let F := teFmt te
      let (r, f1) := f (fdecode F a) (fdecode F b) (fdecode F c)
      let (v, f2) := fencode F rm.toNat (s.drawAt rm e) r
      (v, f1 ||| f2)

/-- As many zeros as a tile of the format has elements: an operand that is not used. -/
def noElems (te : BitVec 4) : List Nat := List.replicate (teCount te) 0

/-- VADD. -/
def execVadd (la : BitVec 4) (td ta tb : BitVec 5) (gx : GReg) (rm : BitVec 3) (te : BitVec 4) (sati bc : Bool) (s : State) :=
  s.run (.vadd la td ta tb gx rm te sati bc) fun s =>
    s.varith (.vadd la td ta tb gx rm te sati bc) te rm sati td ta (s.opB te tb gx bc) (noElems te)
      (fun a b _ => fadd2 rm.toNat a b) (fun a b _ => a + b)
/-- VSUB. -/
def execVsub (la : BitVec 4) (td ta tb : BitVec 5) (gx : GReg) (rm : BitVec 3) (te : BitVec 4) (sati bc : Bool) (s : State) :=
  s.run (.vsub la td ta tb gx rm te sati bc) fun s =>
    s.varith (.vsub la td ta tb gx rm te sati bc) te rm sati td ta (s.opB te tb gx bc) (noElems te)
      (fun a b _ => fsub2 rm.toNat a b) (fun a b _ => a - b)
/-- VMUL. -/
def execVmul (la : BitVec 4) (td ta tb : BitVec 5) (gx : GReg) (rm : BitVec 3) (te : BitVec 4) (sati bc : Bool) (s : State) :=
  s.run (.vmul la td ta tb gx rm te sati bc) fun s =>
    s.varith (.vmul la td ta tb gx rm te sati bc) te rm sati td ta (s.opB te tb gx bc) (noElems te)
      (fun a b _ => fmul2 a b) (fun a b _ => a * b)
/-- VFMA. -/
def execVfma (la : BitVec 4) (td ta tb tc : BitVec 5) (gx : GReg) (rm : BitVec 3) (te : BitVec 4) (sati bc : Bool) (s : State) :=
  s.run (.vfma la td ta tb tc gx rm te sati bc) fun s =>
    s.varith (.vfma la td ta tb tc gx rm te sati bc) te rm sati td ta (s.opB te tb gx bc) ((s.tile tc.toNat).elems te)
      (fun a b c => ffma3 rm.toNat a b c) (fun a b c => a * b + c)
/-- VDIV. -/
def execVdiv (la : BitVec 4) (td ta tb : BitVec 5) (gx : GReg) (rm : BitVec 3) (te : BitVec 4) (bc : Bool) (s : State) :=
  s.run (.vdiv la td ta tb gx rm te bc) fun s =>
    s.varith (.vdiv la td ta tb gx rm te bc) te rm false td ta (s.opB te tb gx bc) (noElems te) (fun a b _ => fdiv2 a b) (fun a _ _ => a)
/-- VSQRT. -/
def execVsqrt (la : BitVec 4) (td ta : BitVec 5) (rm : BitVec 3) (te : BitVec 4) (s : State) :=
  s.run (.vsqrt la td ta rm te) fun s =>
    s.varith (.vsqrt la td ta rm te) te rm false td ta (noElems te) (noElems te) (fun a _ _ => fsqrt1 a) (fun a _ _ => a)
/-- VEXP2. -/
def execVexp2 (la : BitVec 4) (td ta : BitVec 5) (rm : BitVec 3) (te : BitVec 4) (s : State) :=
  s.run (.vexp2 la td ta rm te) fun s =>
    s.varith (.vexp2 la td ta rm te) te rm false td ta (noElems te) (noElems te) (fun a _ _ => fexp2v a) (fun a _ _ => a)

/-- The lesser or the greater of two elements (R298, R374). -/
def vminmax (te : BitVec 4) (greater : Bool) (a b : Nat) : Nat :=
  if teInt te then (if (decide (sInt (teBits te) b < sInt (teBits te) a)) != greater then b else a)
  else fminmax (teFmt te) greater (fdecode (teFmt te) a) (fdecode (teFmt te) b)

/-- VMIN. -/
def execVmin (la : BitVec 4) (td ta tb : BitVec 5) (gx : GReg) (te : BitVec 4) (sati bc : Bool) (s : State) :=
  s.run (.vmin la td ta tb gx te sati bc) fun s =>
    s.vraw (.vmin la td ta tb gx te sati bc) te td ta (s.opB te tb gx bc) (noElems te) fun _ a b _ => (vminmax te false a b, 0)
/-- VMAX. -/
def execVmax (la : BitVec 4) (td ta tb : BitVec 5) (gx : GReg) (te : BitVec 4) (sati bc : Bool) (s : State) :=
  s.run (.vmax la td ta tb gx te sati bc) fun s =>
    s.vraw (.vmax la td ta tb gx te sati bc) te td ta (s.opB te tb gx bc) (noElems te) fun _ a b _ => (vminmax te true a b, 0)
/-- VABS. -/
def execVabs (la : BitVec 4) (td ta : BitVec 5) (te : BitVec 4) (sati : Bool) (s : State) :=
  s.run (.vabs la td ta te sati) fun s =>
    s.vraw (.vabs la td ta te sati) te td ta (noElems te) (noElems te) fun _ a _ _ =>
      if teInt te then intOut (teBits te) sati (sInt (teBits te) a).natAbs else (a % 2 ^ (teBits te - 1), 0)
/-- VNEG. -/
def execVneg (la : BitVec 4) (td ta : BitVec 5) (te : BitVec 4) (sati : Bool) (s : State) :=
  s.run (.vneg la td ta te sati) fun s =>
    s.vraw (.vneg la td ta te sati) te td ta (noElems te) (noElems te) fun _ a _ _ =>
      if teInt te then intOut (teBits te) sati (-(sInt (teBits te) a)) else (a ^^^ 2 ^ (teBits te - 1), 0)
/-- VAND. -/
def execVand (la : BitVec 4) (td ta tb : BitVec 5) (gx : GReg) (te : BitVec 4) (bc : Bool) (s : State) :=
  s.run (.vand la td ta tb gx te bc) fun s =>
    s.vraw (.vand la td ta tb gx te bc) te td ta (s.opB te tb gx bc) (noElems te) fun _ a b _ => (a &&& b, 0)
/-- VOR. -/
def execVor (la : BitVec 4) (td ta tb : BitVec 5) (gx : GReg) (te : BitVec 4) (bc : Bool) (s : State) :=
  s.run (.vor la td ta tb gx te bc) fun s =>
    s.vraw (.vor la td ta tb gx te bc) te td ta (s.opB te tb gx bc) (noElems te) fun _ a b _ => (a ||| b, 0)
/-- VXOR. -/
def execVxor (la : BitVec 4) (td ta tb : BitVec 5) (gx : GReg) (te : BitVec 4) (bc : Bool) (s : State) :=
  s.run (.vxor la td ta tb gx te bc) fun s =>
    s.vraw (.vxor la td ta tb gx te bc) te td ta (s.opB te tb gx bc) (noElems te) fun _ a b _ => (a ^^^ b, 0)
/-- VSHL: the count is b's low 5 bits for INT32, 4 for INT16 (R374). -/
def execVshl (la : BitVec 4) (td ta tb : BitVec 5) (gx : GReg) (te : BitVec 4) (bc : Bool) (s : State) :=
  s.run (.vshl la td ta tb gx te bc) fun s =>
    s.vraw (.vshl la td ta tb gx te bc) te td ta (s.opB te tb gx bc) (noElems te) fun _ a b _ =>
      (a * 2 ^ (b % teBits te) % 2 ^ teBits te, 0)
/-- VSHR. -/
def execVshr (la : BitVec 4) (td ta tb : BitVec 5) (gx : GReg) (te : BitVec 4) (arith bc : Bool) (s : State) :=
  s.run (.vshr la td ta tb gx te arith bc) fun s =>
    s.vraw (.vshr la td ta tb gx te arith bc) te td ta (s.opB te tb gx bc) (noElems te) fun _ a b _ =>
      if arith then intOut (teBits te) false (sInt (teBits te) a / ((2 ^ (b % teBits te) : Nat) : Int)) else (a / 2 ^ (b % teBits te), 0)

/-! ## Reductions and transposition -/

/-- The first NaN of a row, if there is one. -/
def rowNan (vs : List FVal) : Option FVal := vs.find? FVal.isNan

/-- The sum of a row (R377). -/
def rowSum (rm : BitVec 3) (vs : List FVal) : FVal × Nat :=
  match rowNan vs, vs with
  | some x, _ => (x, 0)
  | none, [] => (.fin false 0 0, 0)
  | none, x :: r => r.foldl (fun (a, fl) y => let (b, f) := fadd2 rm.toNat a y; (b, fl ||| f)) (x, 0)

/-- Values with their index reduced to results and the flags of all. -/
def vfold (g : Nat → Nat → Nat × Nat) : Nat → List Nat → List Nat × Nat
  | _, [] => ([], 0)
  | e, a :: r =>
    let (v, f) := g e a
    let (vs, fs) := vfold g (e + 1) r
    (v :: vs, f ||| fs)

/-- VRSUM (R377). -/
def execVrsum (la : BitVec 4) (td ta : BitVec 5) (rm : BitVec 3) (te : BitVec 4) (s : State) :=
  s.run (.vrsum la td ta rm te) fun s =>
    let (vs, fl) := vfold (fun e r =>
      let xs := rowElems te r
      if teInt te then intOut 32 true (xs.foldl (fun t x => t + sInt (teBits te) x) 0)
      else
        let (v, f1) := rowSum rm (xs.map (fdecode (teFmt te)))
        let (b, f2) := fencode (if te = 13#4 then fp64 else fp32) rm.toNat (s.drawAt rm e) v
        (b, f1 ||| f2)) 0 (s.tile ta.toNat).rows
    let out := if te = 13#4 then 13#4 else 11#4
    s.tilesRes (.vrsum la td ta rm te) [(td.toNat, putRows (List.replicate 32 0) (packRows out vs) 0)] fl

/-- The greatest element of a row (R377). -/
def rowMax (te : BitVec 4) : List Nat → Nat
  | [] => 0
  | x :: r =>
    if teInt te then r.foldl (vminmax te true) x
    else match rowNan ((x :: r).map (fdecode (teFmt te))) with
      | some v => (fencode (teFmt te) 0 0 v).1
      | none => r.foldl (vminmax te true) x

/-- VRMAX (R377). -/
def execVrmax (la : BitVec 4) (td ta : BitVec 5) (te : BitVec 4) (s : State) :=
  s.run (.vrmax la td ta te) fun s =>
    let vs := (s.tile ta.toNat).rows.map fun r => rowMax te (rowElems te r)
    s.tilesRes (.vrmax la td ta te) [(td.toNat, putRows (List.replicate 32 0) (packRows te vs) 0)] 0

/-- Column `j` of rows of `w`-bit elements. -/
def colOf (w j : Nat) (rs : List Nat) : List Nat := rs.map fun r => r / 2 ^ (w * j) % 2 ^ w

/-- VTRANS (R378). -/
def execVtrans (la : BitVec 4) (td ta tb : BitVec 5) (te : BitVec 4) (h : Bool) (s : State) :=
  s.run (.vtrans la td ta tb te h) fun s =>
    let a := (s.tile ta.toNat).rows
    let rs := (List.range 32).map fun i =>
      if teBits te = 16 then packRow 16 0 (colOf 16 (i + 32 * h.toNat) (a ++ (s.tile tb.toNat).rows)) else packRow 32 0 (colOf 32 i a)
    s.tilesRes (.vtrans la td ta tb te h) [(td.toNat, rs)] 0

/-! ## Conversions and scales -/

/-- The conversion of one element (R379). -/
def cvtEl (te ste : BitVec 4) (rm draw a : Nat) : Nat × Nat :=
  let w := teBits te
  if cvtInt te then
    let lo : Int := -((2 ^ (w - 1) : Nat) : Int)
    let hi : Int := ((2 ^ (w - 1) : Nat) : Int) - 1
    if cvtInt ste then intOut w true (sInt (teBits ste) a)
    else
      let (v, f) := fToInt rm draw lo hi (fdecode (teFmt ste) a)
      ((intOut w false v).1, f)
  else if cvtInt ste then fencode (teFmt te) rm draw (ofInt (sInt (teBits ste) a) 0)
  else fencode (teFmt te) rm draw (fdecode (teFmt ste) a)

/-- VCVT (R379): whole rows of tD are written, the others kept. DEDUCED, log 30. -/
def execVcvt (la : BitVec 4) (td ta : BitVec 5) (rm : BitVec 3) (te ste part : BitVec 4) (s : State) :=
  s.run (.vcvt la td ta rm te ste part) fun s =>
    let ns := teCount ste
    let nd := teCount te
    let n := min ns nd
    let src := (s.tile ta.toNat).elems ste
    let xs := if nd < ns then (src.drop (part.toNat * n)).take n else src
    let e0 := if ns < nd then part.toNat * n else 0
    let (vs, fl) := vfold (fun e a => cvtEl te ste rm.toNat (s.drawAt rm e) a) e0 xs
    let old := (s.tile td.toNat).rows
    s.tilesRes (.vcvt la td ta rm te ste part) [(td.toNat, putRows old (packRows te vs) (e0 / tePerRow te))] fl

/-- exact(a * r * c) (R380, R202). DEDUCED, log 54. -/
def fmul3 (a r c : FVal) : FVal × Nat :=
  match rowNan [a, r, c] with
  | some x => (x, 0)
  | none =>
    let (p, f1) := fmul2 a r
    if f1 = flNV then (.nan false, flNV) else fmul2 p c

/-- VSCAL (R380). -/
def execVscal (la : BitVec 4) (td ta tb tc : BitVec 5) (rm : BitVec 3) (te : BitVec 4) (s : State) :=
  s.run (.vscal la td ta tb tc rm te) fun s =>
    let cs := rowElems 11#4 ((s.tile tb.toNat).rows.headD 0)
    let rs := rowElems 11#4 ((s.tile tc.toNat).rows.headD 0)
    let (vs, fl) := vfold (fun e a =>
      let x := if te = 12#4 then ofInt (sInt 32 a) 0 else fdecode fp32 a
      let (v, f1) := fmul3 x (fdecode fp32 (rs.getD (e / 32) 0)) (fdecode fp32 (cs.getD (e % 32) 0))
      let (b, f2) := fencode fp32 rm.toNat (s.drawAt rm e) v
      (b, f1 ||| f2)) 0 ((s.tile ta.toNat).elems te)
    s.tilesRes (.vscal la td ta tb tc rm te) [(td.toNat, packRows 11#4 vs)] fl

/-- The exponent of the largest element of an MX format (R211). -/
def mxEmax (te : BitVec 4) : Int :=
  match te.toNat with
  | 4 => 8 | 5 => 15 | 6 => 2 | 7 => 4 | _ => 2

/-- The exponent of the leading bit of a finite value. -/
def topExp : FVal → Option Int
  | .fin _ m e => if m = 0 then none else some (e + (bitLen m : Int) - 1)
  | _ => none

/-- A finite value times 2^k. -/
def FVal.scale (k : Int) : FVal → FVal
  | .fin s m e => .fin s m (e + k)
  | v => v

/-- mx_encode (R212): the scale, the elements and the flags of one block whose first element has index `e0`. -/
def mxEncode (te : BitVec 4) (rm : Nat) (draw : Nat → Nat) (e0 : Nat) (xs : List Nat) : Nat × List Nat × Nat :=
  let vs := xs.map (fdecode fp32)
  let bad := vs.any fun v => match v with | .fin _ _ _ => false | _ => true
  if bad then (0xFF, xs.map fun _ => 0, if (rowNan vs).isSome then flNV else 0)
  else match vs.foldl (fun m v => match m, topExp v with
      | some a, some b => some (max a b)
      | none, b => b
      | a, none => a) (none : Option Int) with
    | none =>
      let (q, fl) := vfold (fun e a => fencode (teFmt te) rm (draw e) (fdecode fp32 a)) e0 xs
      (0x7F, q, fl)
    | some t =>
      let e := max (-127) (min 127 (t - mxEmax te))
      let (q, fl) := vfold (fun k a => fencode (teFmt te) rm (draw k) ((fdecode fp32 a).scale (-e))) e0 xs
      ((e + 127).toNat, q, fl)

/-- MXPACK (R381, R212). -/
def execMxpack (la : BitVec 4) (td ta tc : BitVec 5) (rm : BitVec 3) (te : BitVec 4) (part : BitVec 3) (s : State) :=
  s.run (.mxpack la td ta tc rm te part) fun s =>
    let b0 := 32 * part.toNat
    let bl := (s.tile ta.toNat).rows.zipIdx.map fun (r, k) => mxEncode te rm.toNat (s.drawAt rm) (32 * (b0 + k)) (rowElems 11#4 r)
    let q := bl.flatMap (·.2.1)
    let d := putRows (s.tile td.toNat).rows (packRows te q) (1024 * part.toNat / tePerRow te)
    let cb := (s.tile tc.toNat).elems 9#4
    let c := putRows cb (bl.map (·.1)) b0
    s.tilesRes (.mxpack la td ta tc rm te part) [(td.toNat, d), (tc.toNat, packRows 9#4 c)] (bl.foldl (fun f x => f ||| x.2.2) 0)

/-- MXUNPK (R382, R211). -/
def execMxunpk (la : BitVec 4) (td ta tc : BitVec 5) (rm : BitVec 3) (te : BitVec 4) (part : BitVec 3) (s : State) :=
  s.run (.mxunpk la td ta tc rm te part) fun s =>
    let xs := (((s.tile ta.toNat).elems te).drop (1024 * part.toNat)).take 1024
    let cb := ((s.tile tc.toNat).elems 9#4).drop (32 * part.toNat)
    let (vs, fl) := vfold (fun e a => fencode fp32 rm.toNat (s.drawAt rm e) (mxVal (teFmt te) (cb.getD (e / 32) 0) a)) 0 xs
    s.tilesRes (.mxunpk la td ta tc rm te part) [(td.toNat, packRows 11#4 vs)] fl

/-! ## Attention tiles -/

/-- The rows of a triple set from tile `t` on (R390). -/
def State.tripleSet (s : State) (t : BitVec 5) (d16 : BitVec 5) : List Triple :=
  let d := 16 * d16.toNat
  let n := tripleLen d16
  let ts := (List.range n).map fun k => (s.tile (t.toNat + k)).rows
  (List.range 32).map fun i =>
    let h := rowElems 11#4 ((ts.headD []).getD i 0)
    { m := h.getD 0 0, s := h.getD 1 0, v := ((ts.drop 1).flatMap fun rs => rowElems 11#4 (rs.getD i 0)).take d }

/-- The v tiles of 32 rows of elements (R390): `n` tiles, elements beyond the row's length zero. -/
def vTiles (n : Nat) (rows : List (List Nat)) : List (List Nat) :=
  (List.range n).map fun q => rows.map fun v => packRow 32 0 ((v.drop (32 * q)).take 32)

/-- AMERGE (R391). -/
def execAmerge (la : BitVec 4) (td ta tb d16 : BitVec 5) (s : State) :=
  s.run (.amerge la td ta tb d16) fun s =>
    let r := ((s.tripleSet ta d16).zip (s.tripleSet tb d16)).map fun (a, b) => a.mergeF b
    let ts := (r.map fun x => packRow 32 0 [x.1.m, x.1.s]) :: vTiles (tripleLen d16 - 1) (r.map (·.1.v))
    s.tilesRes (.amerge la td ta tb d16) (ts.zipIdx.map fun (x, k) => (td.toNat + k, x)) (r.foldl (fun f x => f ||| x.2) 0)

/-- ANORM (R392). -/
def execAnorm (la : BitVec 4) (td ta d16 : BitVec 5) (s : State) :=
  s.run (.anorm la td ta d16) fun s =>
    let r := (s.tripleSet ta d16).map Triple.normF
    let ts := vTiles (tripleLen d16 - 1) (r.map fun x => x.map (·.1))
    s.tilesRes (.anorm la td ta d16) (ts.zipIdx.map fun (x, k) => (td.toNat + k, x))
      (r.foldl (fun f x => x.foldl (fun g y => g ||| y.2) f) 0)

end Sys2Proof.Machine
end

