-- ==== Sys2Proof/Machine/Matrix.lean ====
section
/-! DEFINITION. The matrix unit (spec/09 R188 to R193, spec/10 R214, R215, R219, spec/17 R383 to R389): configurations, its
queue, commands and their scales, the accumulator store and its copies, and messages under a capability. -/
namespace Sys2Proof.Machine

/-! ## Configurations -/

/-- The row of the table of R188 that holds a format code; 4 for none. -/
def mRow (f : Nat) : Nat :=
  match f with
  | 0 => 0 | 1 => 0
  | 2 => 1 | 3 => 1 | 4 => 1 | 5 => 1 | 9 => 1
  | 6 => 2 | 7 => 2 | 8 => 2 | 10 => 2
  | 11 => 3
  | _ => 4

/-- An integer format. -/
def mInt (f : Nat) : Bool := f == 9 || f == 10

/-- The rows M of a mode's output (R189). -/
def mRows (mode : Nat) : Nat := 32 * mmA (BitVec.ofNat 2 mode)

/-- The columns N of a mode's output (R189). -/
def mCols (mode : Nat) : Nat := 32 * mmB (BitVec.ofNat 2 mode)

/-- The configuration of a word (R383) with its scale addresses. -/
def cfgOf (w a b : Word) : MCfg :=
  { v := w.getLsbD 2, mode := bf w 0 2, afmt := bf w 12 4, bfmt := bf w 8 4, int := w.getLsbD 3, key := BitVec.ofNat 32 (bf w 32 32),
    row0 := 32 * bf w 20 4, col0 := 32 * bf w 16 4, ascale := a, bscale := b }

/-- A configuration write outside R383 or R190. -/
def cfgBad (w : Word) (as bs : Bool) (a b : Word) : Bool :=
  let c := cfgOf w a b
  bf w 24 8 != 0 || bf w 4 4 != 0 || mRow c.afmt == 4 || mRow c.afmt != mRow c.bfmt ||
  c.int != mInt c.afmt || c.int != mInt c.bfmt || decide (512 < c.row0 + mRows c.mode) || decide (512 < c.col0 + mCols c.mode) ||
  as != mScaled c.afmt || bs != mScaled c.bfmt || (as && a == 0#64) || (bs && b == 0#64)

/-- A scale pointer register of a thread, or zero where none is selected (R383). -/
def Thread.scaleReg (t : Thread) (on : Bool) (f : BitVec 2) : Word := if on then tget (fun _ => 0#64) t.f f.toNat else 0#64

/-- A configuration set. -/
def State.setMcfg (s : State) (n bank c : Nat) (x : MCfg) : State :=
  s.setCell n { s.cellAt n with mcfgs := tput (s.cellAt n).mcfgs (8 * bank + c) x }

/-- MCFG (R383): complete for the next bundle. -/
def execMcfg (gx : GReg) (c : BitVec 3) (as bs : Bool) (fa fb : BitVec 2) (s : State) :=
  s.run (.mcfg gx c as bs fa fb) fun s =>
    let a := s.thr.scaleReg as fa
    let b := s.thr.scaleReg bs fb
    if cfgBad (s.rd gx) as bs a b then s.trap cFMT 0#64
    else s.setMcfg s.turn (s.cur / 16) c.toNat (cfgOf (s.rd gx) a b)

/-! ## The accumulator store -/

/-- A word of the store (R193). -/
def Cell.accAt (c : Cell) (bank row col : Nat) : BitVec 32 := tget (fun _ => 0#32) c.acc (2 ^ 18 * bank + 512 * row + col)

/-- The words of a block, row by row. -/
def Cell.block (c : Cell) (bank row col h w : Nat) : List (List Nat) :=
  (List.range h).map fun i => (List.range w).map fun j => (c.accAt bank (row + i) (col + j)).toNat

/-- A block of the store written: only words other than zero are listed. -/
def Cell.putBlock (c : Cell) (bank row col h w : Nat) (vs : List (List Nat)) : Cell :=
  let out := c.acc.filter fun (k, _) =>
    !(k / 2 ^ 18 == bank && decide (row ≤ k % 2 ^ 18 / 512) && decide (k % 2 ^ 18 / 512 < row + h) &&
      decide (col ≤ k % 512) && decide (k % 512 < col + w))
  let new := vs.zipIdx.flatMap fun (r, i) => (r.zipIdx.filter fun (v, _) => v != 0).map fun (v, j) =>
    (2 ^ 18 * bank + 512 * (row + i) + (col + j), BitVec.ofNat 32 v)
  { c with acc := new.foldl (fun t (k, v) => tput t k v) out }

/-- The block of the store that a command touches: row, column, height, width (R193, R389). -/
def MCmd.area (m : MCmd) : Nat × Nat × Nat × Nat :=
  match m.op with
  | .mul _ _ _ => (m.cfg.row0, m.cfg.col0, mRows m.cfg.mode, mCols m.cfg.mode)
  | .get te _ _ row col => (row, col, 32, if teBits te = 16 then 64 else 32)
  | .put row col => (row, col, 32, 32)
  | .zero row col h w => (row, col, h, w)

/-- The units of two accumulator rows that a command touches (R264). -/
def MCmd.units (m : MCmd) : List Nat :=
  let (r, _, h, _) := m.area
  (List.range ((r + h + 1) / 2 - r / 2)).map (2048 + r / 2 + ·)

/-- Two commands touch a common word (R192). -/
def MCmd.clash (m n : MCmd) : Bool :=
  let (r, c, h, w) := m.area
  let (r', c', h', w') := n.area
  m.bank == n.bank && decide (r < r' + h') && decide (r' < r + h) && decide (c < c' + w') && decide (c' < c + w)

/-- The command is a product. -/
def MCmd.isMul (m : MCmd) : Bool := match m.op with | .mul _ _ _ => true | _ => false

/-- The sub-array of a QUAD command; none where it takes all four (R189). -/
def MCmd.sub? (m : MCmd) : Option Nat :=
  match m.op with
  | .mul sub _ _ => if m.cfg.mode = 0 then some sub else none
  | _ => none

/-- Two commands cannot run together (R189): one is fused, or both take one sub-array. -/
def MCmd.excludes (m n : MCmd) : Bool := m.isMul && n.isMul && (m.sub?.isNone || n.sub?.isNone || m.sub? == n.sub?)

/-! ## The queue -/

/-- The queue of a cell's unit is full for a context bank (R192): 16 commands that have not started. DEDUCED, log 50. -/
def State.mqFull (s : State) (n bank : Nat) : Bool := decide (16 ≤ ((s.cellAt n).mq.filter fun m => m.bank == bank && !m.running).length)

/-- A command accepted by the unit of cell `n`. -/
def State.enqueueMat (s : State) (n : Nat) (m : MCmd) : State := s.setCell n { s.cellAt n with mq := (s.cellAt n).mq ++ [m] }

/-- A command of a thread at its acceptance, from its outstanding instruction. -/
def Thread.command (t : Thread) (n k : Nat) (p : Pend) (op : MOp) (cfg : MCfg) (a b : List (List Byte)) (hold : List Nat) : MCmd :=
  { op := op, cfg := cfg, fresh := none, a := a, b := b, hold := hold, cell := n, slot := k, gid := t.gid, part := t.part, sb := t.sb, ss := t.ss,
    pend := p, bank := k / 16, running := false, flags := 0, sca := [], scb := [], ga := 32, gb := 32 }

/-- An instruction of the cell's own thread accepted by its unit (R192, R387): a full queue keeps it from issuing; one without
a register destination is complete. The configuration of a product is that of slot `c` at the end of the cycle. -/
def State.matIssue (s : State) (i : Instr) (op : MOp) (cfg : MCfg) (a b : List (List Byte)) (c : Option Nat := none) : State :=
  if s.mqFull s.turn (s.cur / 16) then s.park false
  else
    let hold := (tileSrcs i).map fun t => 32 * (s.cur / 16) + s.tphys t
    let s1 := s.long i 0#64 .mget none none false
    match s1.thr.out.getLast? with
    | none => s1
    | some p =>
      let s2 := s1.enqueueMat s.turn { s.thr.command s.turn s.cur p op cfg a b hold with fresh := c }
      if (tileDsts i).isEmpty then s2.retire s.turn s.cur (s1.thr.out.length - 1) else s2

/-- The bytes of the tiles of a set (R384). -/
def State.tileBytes (s : State) (t : BitVec 5) (n : Nat) : List (List Byte) := (tileSet t n).map fun i => (s.tile i).all

/-- MMUL (R385): accepted at the end of the cycle, with the configuration as it then stands (R192, State.ownAccept). -/
def execMmul (la : BitVec 4) (ta tb : BitVec 5) (gx : GReg) (c : BitVec 3) (sub : BitVec 2) (zero : Bool) (mode : BitVec 2) (s : State) :=
  s.run (.mmul la ta tb gx c sub zero mode) fun s =>
    s.matIssue (.mmul la ta tb gx c sub zero mode) (.mul sub.toNat zero (s.rd gx)) { MCfg.init with mode := mode.toNat } (s.tileBytes ta (mmA mode))
      (s.tileBytes tb (mmB mode)) (some c.toNat)

/-- A block of 32 rows and `w` columns reaches beyond the store (R389). -/
def blockBad (row col w : Nat) : Bool := decide (512 < row + 32) || decide (512 < col + w)

/-- ACGET (R389). -/
def execAcget (la : BitVec 4) (td : BitVec 5) (rm : BitVec 3) (te : BitVec 4) (row col : BitVec 9) (s : State) :=
  s.run (.acget la td rm te row col) fun s =>
    if blockBad row.toNat col.toNat (if teBits te = 16 then 64 else 32) then s.trap cFMT 0#64
    else s.matIssue (.acget la td rm te row col) (.get te rm.toNat s.thr.lane row.toNat col.toNat) MCfg.init [] []

/-- ACPUT (R389). -/
def execAcput (la : BitVec 4) (ta : BitVec 5) (row col : BitVec 9) (s : State) :=
  s.run (.acput la ta row col) fun s =>
    if blockBad row.toNat col.toNat 32 then s.trap cFMT 0#64
    else s.matIssue (.acput la ta row col) (.put row.toNat col.toNat) MCfg.init (s.tileBytes ta 1) []

/-- ACZERO (R389). -/
def execAczero (la : BitVec 4) (row col : BitVec 9) (h1 w1 : BitVec 4) (s : State) :=
  s.run (.aczero la row col h1 w1) fun s =>
    let h := 32 * (h1.toNat + 1)
    let w := 32 * (w1.toNat + 1)
    if 512 < row.toNat + h ∨ 512 < col.toNat + w then s.trap cFMT 0#64
    else s.matIssue (.aczero la row col h1 w1) (.zero row.toNat col.toNat h w) MCfg.init [] []

/-! ## Messages -/

/-- MSEND (R388): a configuration word outside R383 is FMT at issue; otherwise the message and its tiles leave. -/
def execMsend (la : BitVec 4) (td ta tb : BitVec 5) (gx : GReg) (c : BitVec 3) (sub : BitVec 2) (zero : Bool) (kind : BitVec 2) (ext : BitVec 18) (s : State) :=
  s.run (.msend la td ta tb gx c sub zero kind ext) fun s =>
    let i : Instr := .msend la td ta tb gx c sub zero kind ext
    let as := kind == 1#2 && ext.getLsbD 5
    let bs := kind == 1#2 && ext.getLsbD 4
    let a := s.thr.scaleReg as (ext.extractLsb' 2 2)
    let b := s.thr.scaleReg bs (ext.extractLsb' 0 2)
    let second := if kind.toNat < 2 then s.rd (gx + 1) else 0#64
    if kind = 1#2 ∧ cfgBad second as bs a b then s.trap cFMT 0#64
    else
      let mode := ext.extractLsb' 0 2
      let m : MatMsg :=
        { senderCell := s.turn, senderSlot := s.cur, kind := kind, cap := s.rd gx, second := second, c := c, sub := sub, zero := zero,
          ext := ext, ascale := a, bscale := b,
          aTiles := if kind = 0#2 then s.tileBytes ta (mmA mode) else if kind = 3#2 then s.tileBytes ta 1 else [],
          bTiles := if kind = 0#2 then s.tileBytes tb (mmB mode) else [] }
      s.long i 0#64 (.msg m false) none none false

/-- The checks of a capability in order after CELL (R191): the zero fields, CMASK, KEY, the right. -/
def capOk (m : MatMsg) (key : BitVec 32) : Bool :=
  bf m.cap 23 1 == 0 && bf m.cap 6 14 == 0 && bf m.cap (24 + m.c.toNat) 1 == 1 && bf m.cap 32 32 == key.toNat &&
  (match m.kind.toNat with
   | 0 => m.cap.getLsbD 20
   | 1 => m.cap.getLsbD 21
   | _ => m.cap.getLsbD 22)

/-- The cell whose unit a message is for: that of its CELL on the sender's die (R188). -/
def msgTarget (m : MatMsg) : Nat := m.senderCell / 64 * 64 + bf m.cap 0 6

/-- An unfinished instruction is the sending of a message. -/
def Pend.isMsg (p : Pend) (m : MatMsg) : Bool := match p.act with | .msg x _ => x == m | _ => false

/-- A message refused: a late fault of its msend (R388). -/
def State.msgRefused (s : State) (n k i cause : Nat) : State :=
  s.setThrAt n k { s.thrAt n k with out := (s.thrAt n k).out.modify i fun p => { p with late := some (cause, 0) } }

/-- A message that has arrived at the unit of a cell is refused, or accepted; a full queue makes it wait (R188, R191, R192, R388, R389).
DEDUCED, log 53. -/
def State.msgAccept (s : State) (cell : Nat) (m : MatMsg) : State :=
  let n := m.senderCell
  let k := m.senderSlot
  let t := s.thrAt n k
  let bank := k / 16
  match t.out.findIdx? fun p => p.isMsg m && p.late.isNone with
  | none => s
  | some i =>
    let cfg := s.mcfgAt cell bank m.c.toNat
    let row := (m.ext.extractLsb' 9 9).toNat
    let col := (m.ext.extractLsb' 0 9).toNat
    let cmd := fun op => match t.out[i]? with
      | some p => s.enqueueMat cell (t.command n k p op cfg m.aTiles m.bTiles [])
      | none => s
    if !capOk m cfg.key then s.msgRefused n k i cCAPREJ
    else match m.kind.toNat with
    | 0 =>
      if !cfg.v ∨ cfg.mode ≠ (m.ext.extractLsb' 0 2).toNat then s.msgRefused n k i cFMT
      else if s.mqFull cell bank then s
      else (cmd (.mul m.sub.toNat m.zero m.second)).retire n k i
    | 1 => (s.setMcfg cell bank m.c.toNat (cfgOf m.second m.ascale m.bscale)).retire n k i
    | 2 =>
      if blockBad row col 32 then s.msgRefused n k i cFMT
      else if s.mqFull cell bank then s
      else
        let s1 := cmd (.get 11#4 0 t.lane row col)
        s1.setThrAt n k { s1.thrAt n k with out := (s1.thrAt n k).out.modify i fun p => { p with act := .mget } }
    | _ =>
      if blockBad row col 32 then s.msgRefused n k i cFMT
      else if s.mqFull cell bank then s
      else (cmd (.put row col)).retire n k i

/-- MATRIX_MESSAGE_ARRIVE (R192, R388): a message on its way to the unit that its CELL names arrives in the present cycle, at whose end the
unit answers it. -/
def execMatrixMessageArrive (cell : Nat) (m : MatMsg) (s : State) : Host.Outcome State Fault Refusal :=
  .next (
    let t := s.thrAt m.senderCell m.senderSlot
    if cell ≠ msgTarget m then s
    else s.setThrAt m.senderCell m.senderSlot { t with out := t.out.map fun p => if p.isMsg m then { p with act := .msg m true } else p })

/-- The messages on their way to matrix units: those that have arrived, or with `all` every one. -/
def State.msgsIn (s : State) (all : Bool) : List MatMsg :=
  s.cells.flatMap fun (_, c) => c.slots.flatMap fun (_, t) => match t with
    | some t => t.out.filterMap fun p => match p.act with
      | .msg m landed => if (landed || all) && p.late.isNone then some m else none
      | _ => none
    | none => []

/-- A late fault of the issuing instruction (R386): it is again an unfinished instruction of its thread, in program order, and
the thread traps where it can. -/
def State.matFault (s : State) (m : MCmd) (cause : Nat) (fa : Word) : State :=
  match s.thr? m.cell m.slot with
  | none => s
  | some t =>
    if t.gid ≠ m.gid ∨ t.ended then s
    else
      let p : Pend := { m.pend with late := some (cause, 0), faddr := fa, la := 0, act := .ret [] 0#8 }
      let out := insertBy (fun a b => decide (a.seq ≤ b.seq)) p t.out
      let s1 := s.setThrAt m.cell m.slot { t with out := out }
      s1.completeOut m.cell m.slot ((out.findIdx? fun x => x.seq == p.seq && x.late.isSome).getD 0)

/-- A command that the unit's own thread has issued in the cycle takes the configuration of its slot; one that R385 refuses is a late FMT of its
instruction. -/
def State.ownTake (s : State) (n i : Nat) : State :=
  match (s.cellAt n).mq[i]? with
  | none => s
  | some m => match m.fresh with
    | none => s
    | some c =>
      let cfg := s.mcfgAt n m.bank c
      let s1 := fun (q : List MCmd) => s.setCell n { s.cellAt n with mq := q }
      if !cfg.v ∨ cfg.mode ≠ m.cfg.mode then (s1 ((s.cellAt n).mq.eraseIdx i)).matFault m cFMT 0#64
      else s1 ((s.cellAt n).mq.set i { m with cfg := cfg, fresh := none })

/-- Those of a cell; at most one has been issued in a cycle. -/
def State.ownAccept (s : State) (n : Nat) : State :=
  match (s.cellAt n).mq.findIdx? (·.fresh.isSome) with
  | none => s
  | some i => s.ownTake n i

/-- What the matrix units accept at the end of a cycle (R192, R399): configurations, then what each cell's own thread has issued, then the commands
and copies that have arrived, each in ascending order of the sending cell. -/
def State.msgsAccept (s : State) (all : Bool) : State :=
  let ms := sortBy (fun a b => decide (a.senderCell ≤ b.senderCell)) (s.msgsIn all)
  let s1 := (ms.filter (·.kind == 1#2)).foldl (fun s m => s.msgAccept (msgTarget m) m) s
  let s2 := s1.cells.foldl (fun s (n, _) => s.ownAccept n) s1
  (ms.filter (·.kind != 1#2)).foldl (fun s m => s.msgAccept (msgTarget m) m) s2

/-! ## Scales -/

/-- Bytes of scale memory with their poison marks, read for a command (R386), line by line; the cause and the address of a
failure. Bytes on another device are read there (State.farRead). -/
def State.scaleRead (s : State) (t : Thread) : Nat → Nat → Nat → State × Except (Nat × Word) (List (Nat × Bool))
  | 0, _, _ => (s, .ok [])
  | fuel + 1, va, n =>
    if n = 0 then (s, .ok [])
    else
      let k := min n (64 - va % 64)
      let part : Except Nat (State × List (Nat × Bool)) :=
        match s.locate t (W va) k rRD with
        | .error c => .error c
        | .ok (.peer d w off) =>
          let r := s.farRead d w off k
          match trapOfCause false r.bad with
          | some tr => .error tr
          | none => .ok (r.s, (List.range k).map fun j => (r.v / 256 ^ j % 256, r.bad != 0))
        | .ok (.scr c off) => .ok (s, (List.range k).map fun j => let r := s.memRead t.part (.scr c (off + j)) 1; (r.v, r.bad != 0))
        | .ok l =>
          let r := s.memRead t.part l k
          .ok (r.s, (List.range k).map fun j => (r.v / 256 ^ j % 256, r.bad != 0))
      match part with
      | .error c => (s, .error (c, W va))
      | .ok (s1, xs) =>
        match s1.scaleRead t fuel (va + k) (n - k) with
        | (s2, .ok ys) => (s2, .ok (xs ++ ys))
        | (s2, .error e) => (s2, .error e)

/-- The number of four or eight bytes as read: zero where one of them is poisoned (R261). -/
def scaleNum (xs : List (Nat × Bool)) : Nat := if xs.any (·.2) then 0 else xs.foldr (fun x r => x.1 + 256 * r) 0

/-- The scales of one side of a command (R386, R214): for MX formats the scale bytes of its rows, for integer formats their
zero points; the group size, and st.PZ for a poisoned one. -/
def State.sideScales (s : State) (t : Thread) (f : Nat) (base off rows kt : Nat) : State × Except (Nat × Word) (List Nat × Nat × Nat) :=
  if !mScaled f then (s, .ok ([], 32, 0))
  else if !mInt f then
    let n := rows * (kt / 32)
    match s.scaleRead t (n + 1) (base + off) n with
    | (s1, .error e) => (s1, .error e)
    | (s1, .ok xs) => (s1, .ok (xs.map (fun x => if x.2 then 0xFF else x.1), 32, if xs.any (·.2) then flPZ else 0))
  else
    match s.scaleRead t 9 base 8 with
    | (s1, .error e) => (s1, .error e)
    | (s1, .ok hx) =>
      let h := scaleNum hx
      if 3 ≤ h then (s1, .error (cFMT, 0#64))
      else
        let g := 32 * 2 ^ h
        let n := rows * ((kt + g - 1) / g)
        match s1.scaleRead t (4 * n + 1) (base + 8 + 4 * off) (4 * n) with
        | (s2, .error e) => (s2, .error e)
        | (s2, .ok xs) =>
          let rs := (chunks 4 n xs).map scaleNum
          let z := fun (r : Nat) => r / 2 ^ 16 % 256
          if rs.any fun r => r / 2 ^ 24 != 0 || (f == 10 && (decide (sInt 8 (z r) < -8) || decide (7 < sInt 8 (z r)))) then (s2, .error (cFMT, 0#64))
          else (s2, .ok (rs.map z, g, if (hx ++ xs).any (·.2) then flPZ else 0))

/-- The products per output element of a command (R384). DEDUCED, log 51. -/
def MCfg.kt (c : MCfg) : Nat := min (tePerRow (BitVec.ofNat 4 c.afmt)) (tePerRow (BitVec.ofNat 4 c.bfmt))

/-- The ranges of scale memory of a command: first address and length, for A and for B (R386). -/
def MCmd.scaleRanges (m : MCmd) : List (Nat × Nat) :=
  let offs := match m.op with | .mul _ _ o => o | _ => 0#64
  let side := fun (f base off rows : Nat) =>
    if !mScaled f then []
    else if mInt f then [(base, 8), (base + 8 + 4 * off, 4 * rows * (m.cfg.kt / 32))]
    else [(base + off, rows * (m.cfg.kt / 32))]
  side m.cfg.afmt m.cfg.ascale.toNat (bf offs 0 32) (mRows m.cfg.mode) ++ side m.cfg.bfmt m.cfg.bscale.toNat (bf offs 32 32) (mCols m.cfg.mode)

/-- The scales may not be read yet: an earlier store of the issuing thread to them has not performed (R386), or a page or a
stack stalls (R44, R234). -/
def State.scalesWait (s : State) (m : MCmd) : Bool :=
  let t := s.thrAt m.cell m.slot
  m.scaleRanges.any fun (b, n) =>
    (t.gid == m.gid && t.posted.any fun p => decide (p.seq < m.pend.seq) && !p.performed && decide (p.addr.toNat < b + n) && decide (b < p.addr.toNat + p.n)) ||
    (List.range (n / 64 + 2)).any fun i => s.engStall m.part (b / 64 * 64 + 64 * i)

/-! ## Running commands -/

/-- The elements of the rows of an operand set, `kt` of them a row. -/
def setRows (f kt : Nat) (tiles : List (List Byte)) : List (List Nat) :=
  tiles.flatMap fun bs => (chunks 128 32 bs).map fun r => (rowElems (BitVec.ofNat 4 f) (leNum r)).take kt

/-- A row's floating values (R200, R211), under its scales where the format has them. -/
def rowVals (f kt : Nat) (sc : List Nat) (row : Nat) (xs : List Nat) : List FVal :=
  xs.zipIdx.map fun (x, k) =>
    if mScaled f then mxVal (teFmt (BitVec.ofNat 4 f)) (sc.getD (row * (kt / 32) + k / 32) 0) x
    else fdecode (teFmt (BitVec.ofNat 4 f)) x

/-- A row's integer values less their zero points (R214, R215). -/
def rowInts (f kt g : Nat) (zs : List Nat) (row : Nat) (xs : List Nat) : List Int :=
  xs.zipIdx.map fun (x, k) => sInt (teBits (BitVec.ofNat 4 f)) x - sInt 8 (zs.getD (row * ((kt + g - 1) / g) + k / g) 0)

/-- An INT32 accumulator after all chunks of 32 products (R219). -/
def dotInt (acc : Nat) (ps : List (Int × Int)) : Nat × Nat :=
  (chunks 32 ps.length ps).foldl (fun (a, fl) c =>
    let (v, f) := intOut 32 true (sInt 32 a + c.foldl (fun t (x, y) => t + x * y) 0)
    (v, fl ||| f)) (acc, 0)

/-- The words that a product leaves in its block of the store, and its flags (R219, R385). -/
def MCmd.product (m : MCmd) (c : Cell) : List (List Nat) × Nat :=
  let kt := m.cfg.kt
  let (r, q, h, w) := m.area
  let zero : Bool := match m.op with | .mul _ z _ => z | _ => false
  let acc0 := if zero then List.replicate h (List.replicate w 0) else c.block m.bank r q h w
  let ra := setRows m.cfg.afmt kt m.a
  let rb := setRows m.cfg.bfmt kt m.b
  let rows : List (List (Nat × Nat)) :=
    if m.cfg.int then
      let va := ra.zipIdx.map fun (x, i) => rowInts m.cfg.afmt kt m.ga m.sca i x
      let vb := rb.zipIdx.map fun (x, j) => rowInts m.cfg.bfmt kt m.gb m.scb j x
      (va.zip acc0).map fun (x, a) => (vb.zip a).map fun (y, v) => dotInt v (x.zip y)
    else
      let va := ra.zipIdx.map fun (x, i) => rowVals m.cfg.afmt kt m.sca i x
      let vb := rb.zipIdx.map fun (x, j) => rowVals m.cfg.bfmt kt m.scb j x
      (va.zip acc0).map fun (x, a) => (vb.zip a).map fun (y, v) => dot32 v (x.zip y)
  (rows.map fun x => x.map (·.1), rows.foldl (fun f x => x.foldl (fun g y => g ||| y.2) f) m.flags)

/-- Command `i` of a cell's queue taken off. -/
def State.unqueueMat (s : State) (n i : Nat) : State := s.setCell n { s.cellAt n with mq := (s.cellAt n).mq.eraseIdx i }

/-- The tile that an accumulator copy reads (R389), with flags. -/
def MCmd.copied (m : MCmd) (c : Cell) : List Nat × Nat :=
  match m.op with
  | .get te rm lane row col =>
    let (_, _, h, w) := m.area
    let ws := (c.block m.bank row col h w).flatten
    if teBits te = 16 then
      let (vs, fl) := vfold (fun e a => fencode (teFmt te) rm (if rm = 4 then (rng m.pend.opC m.pend.pc lane e).toNat else 0) (fdecode fp32 a)) 0 ws
      (packRows te vs, fl)
    else (packRows 11#4 ws, 0)
  | _ => ([], 0)

/-- The result of an accumulator copy goes to its issuer, whose instruction then completes (R387, R389). -/
def State.copyBack (s : State) (m : MCmd) (r : List Nat × Nat) : State :=
  let t := s.thrAt m.cell m.slot
  if t.gid ≠ m.gid then s
  else s.setThrAt m.cell m.slot { t with out := t.out.map fun p =>
    if p.seq = m.pend.seq ∧ p.act = .mget then { p with act := .ret [.tile (p.tiles.headD 0) (rowsTab r.1)] (BitVec.ofNat 8 r.2) } else p }

/-- A running command keeps one behind it in the queue from starting: both touch a common word (R192), both need a sub-array (R189), or the
second is an accumulator copy, after which the flags of what precedes it are there (R387). -/
def MCmd.keeps (r m : MCmd) : Bool := r.running && (r.clash m || r.excludes m || !m.isMul)

/-- MATRIX_COMMAND_START (R189, R192, R385 to R387, R389): the first command of the active bank that has not started does so,
once nothing that runs keeps it and its accumulator rows are loaded (R264), unless the partition switches (R263); it then reads its scales. An accumulator copy acts at once. -/
def State.matStart (s : State) (n : Nat) : State :=
  let c := s.cellAt n
  let b := s.cellBank n
  match c.mq.findIdx? fun m => m.bank == b && !m.running with
  | none => s
  | some i =>
    match c.mq[i]? with
    | none => s
    | some m =>
      if (s.partAt m.part).switching ∨ m.fresh.isSome ∨ c.mq.any fun r => r.keeps m then s
      else match m.units.find? c.swap.contains with
      | some u => s.demandUnit n u
      | none => match m.op with
      | .get _ _ _ _ _ => (s.unqueueMat n i).copyBack m (m.copied c)
      | .put row col =>
        let x := s.unqueueMat n i
        x.setCell n ((x.cellAt n).putBlock b row col 32 32 (setRows 11 32 m.a))
      | .zero row col h w =>
        let x := s.unqueueMat n i
        x.setCell n ((x.cellAt n).putBlock b row col h w [])
      | .mul _ _ offs =>
        if s.scalesWait m then s
        else
          let t : Thread := { Thread.init with part := m.part, sb := m.sb, ss := m.ss }
          let s := m.scaleRanges.foldl (fun s r => s.chargeRange (m.cell / 64) m.part r.1 r.2) s
          match s.sideScales t m.cfg.afmt m.cfg.ascale.toNat (bf offs 0 32) (mRows m.cfg.mode) m.cfg.kt with
          | (s1, .error (e, fa)) => (s1.unqueueMat n i).matFault m e fa
          | (s1, .ok (sa, ga, f1)) =>
            match s1.sideScales t m.cfg.bfmt m.cfg.bscale.toNat (bf offs 32 32) (mCols m.cfg.mode) m.cfg.kt with
            | (s2, .error (e, fa)) => (s2.unqueueMat n i).matFault m e fa
            | (s2, .ok (sb, gb, f2)) =>
              let m1 : MCmd := { m with running := true, hold := [], sca := sa, scb := sb, ga := ga, gb := gb, flags := f1 ||| f2 }
              s2.setCell n { s2.cellAt n with mq := (s2.cellAt n).mq.set i m1 }

/-- MATRIX_COMMAND_START. -/
def execMatrixCommandStart (cell : Nat) (s : State) : Host.Outcome State Fault Refusal := .next (s.matStart cell)

/-- The running command of a sub-array finishes (R193, R219, R385, R387): its block is written and its flags are ORed into the
st of its issuer, if that still holds its task. -/
def State.matFinish (s : State) (n sub : Nat) : State :=
  let c := s.cellAt n
  match c.mq.findIdx? fun m => m.running && (m.sub?.isNone || m.sub? == some sub) with
  | none => s
  | some i =>
    match c.mq[i]? with
    | none => s
    | some m =>
      let (r, q, h, w) := m.area
      let (vs, fl) := m.product c
      let s1 := s.unqueueMat n i
      let s2 := s1.setCell n ((s1.cellAt n).putBlock m.bank r q h w vs)
      match s2.thr? m.cell m.slot with
      | none => s2
      | some t => if t.gid = m.gid then s2.setThrAt m.cell m.slot { t with st := t.st ||| BitVec.ofNat 8 fl } else s2

/-- MATRIX_COMMAND_FINISH. -/
def execMatrixCommandFinish (cell sub : Nat) (s : State) : Host.Outcome State Fault Refusal := .next (s.matFinish cell sub)

end Sys2Proof.Machine
end

