-- ==== Sys2Proof/Machine/Cells.lean ====
section
/-! DEFINITION. The cell's ports, fills and register banks (spec/09 R178 to R183, R199), the end of a yield (R308), and the
bank power instruction (spec/14 R317). -/
namespace Sys2Proof.Machine

/-! ## Mesh messages and fills -/

/-- The first flight of those on their way that `p` names arrives in the present cycle; it takes effect at the cycle's end, behind every
bundle of the cycle (R199, R319). -/
def landFirst (p : Flight → Bool) : List Flight → List Flight
  | [] => []
  | f :: r => if p f && !f.landed then { f with landed := true } :: r else f :: landFirst p r

/-- MESH_MESSAGE_ARRIVE: the oldest message on its way to a port of a cell arrives (R178). -/
def execMeshMessageArrive (cell dir : Nat) (s : State) : Host.Outcome State Fault Refusal :=
  .next { s with flights := landFirst (fun f => f.cell == cell && f.reg == 64 + dir) s.flights }

/-- A message that has arrived enters the FIFO of its port, if that has room (R178). -/
def State.meshDeliver (s : State) (f : Flight) : State :=
  let p := f.reg - 64
  if 4 ≤ (s.fifo f.cell p).length then s
  else { s with flights := s.flights.erase f }.setFifo f.cell p (s.fifo f.cell p ++ [f.v])

/-- The sender of a fill is ready again: its bundle, which waited, goes on (R179). -/
def State.fillDone (s : State) (f : Flight) : State :=
  let t := s.thrAt f.fromCell f.fromSlot
  match t.wait with
  | .fillSent pc => s.setThrAt f.fromCell f.fromSlot { t with wait := .filled pc }
  | .fillRefused pc => s.setThrAt f.fromCell f.fromSlot { t with wait := .filled pc }
  | _ => s

/-- The bundle of a fill whose sender waits. -/
def Thread.fillPc (t : Thread) : Word :=
  match t.wait with
  | .fillSent pc => pc
  | .fillRefused pc => pc
  | _ => t.pc

/-- The PERM of a fill's sender, precise at the fill's bundle, of which nothing has been executed (R179, R303). -/
def State.fillPerm (s : State) (f : Flight) (pc : Word) : State :=
  (s.setThrAt f.fromCell f.fromSlot { s.thrAt f.fromCell f.fromSlot with wait := .none }).stopAt f.fromCell f.fromSlot cPERM 0 0#64 pc pc none false

/-- A fill at its cell (R179): written to an empty register, held for a full one or for a thread that is away, refused
where the buffer is full, and discarded, with a PERM of the sender, where no thread of the partition holds the slot. -/
def State.fillDeliver (s : State) (f : Flight) : State :=
  let gone : State := { s with flights := s.flights.erase f }
  let snd := s.thrAt f.fromCell f.fromSlot
  match s.thr? f.cell f.slot with
  | none => gone.fillPerm f snd.fillPc
  | some t =>
    if t.part ≠ snd.part then gone.fillPerm f snd.fillPc
    else if t.site = .home ∧ !t.full.getLsbD f.reg then
      (gone.setThrAt f.cell f.slot (t.put f.reg f.v)).fillDone f
    else
      let c := s.cellAt f.cell
      if c.fills.length < 8 then
        (gone.setCell f.cell { c with fills := c.fills ++ [{ slot := f.slot, reg := f.reg, v := f.v }] }).fillDone f
      else { s with flights := s.flights.map fun g => if g == f then { g with landed := false } else g }.setThrAt f.fromCell f.fromSlot
        { snd with wait := .fillRefused snd.fillPc }

/-- FILL_ARRIVE (R179): the oldest such fill arrives. -/
def execFillArrive (cell slot reg : Nat) (v : Word) (s : State) : Host.Outcome State Fault Refusal :=
  .next { s with flights := landFirst (fun f => f.cell == cell && f.slot == slot && f.reg == reg && f.v == v) s.flights }

/-- FILL_RETRY: a refused fill of a thread is tried again (R179). -/
def execFillRetry (cell slot : Nat) (s : State) : Host.Outcome State Fault Refusal :=
  .next (match (s.thrAt cell slot).wait with
    | .fillRefused _ => { s with flights := landFirst (fun f => f.fromCell == cell && f.fromSlot == slot && decide (f.reg < 48)) s.flights }
    | _ => s)

/-- What arrives in the present cycle takes effect at its end (R199, R319): fills in ascending order of the sending die and cell, then
messages in the order sent. With `all`, whatever is on its way arrives. -/
def State.landAll (s : State) (all : Bool) : State :=
  let fs := s.flights.filter fun f => f.landed || all
  let fills := sortBy (fun f g => decide (f.fromCell ≤ g.fromCell)) (fs.filter fun f => decide (f.reg < 48))
  let s1 := fills.foldl State.fillDeliver s
  (fs.filter fun f => decide (64 ≤ f.reg)).foldl State.meshDeliver s1

/-- YIELD_END: the 16 cycles of a yield have passed (R308). -/
def execYieldEnd (cell slot : Nat) (s : State) : Host.Outcome State Fault Refusal :=
  .next (
    let t := s.thrAt cell slot
    match t.wait with
    | .yielding c => if c + 16 < s.cycle then s.setThrAt cell slot { t with wait := .none } else s
    | _ => s)

/-! ## Register banks -/

/-- The code that CBANK holds for a bank: tile banks 0 to 3, stream banks 4 and 5 (R182). -/
def State.bankCode (s : State) (n b : Nat) : Nat := bf (s.cellAt n).cbank (2 * b) 2

/-- A bank's power state set. -/
def State.setPower (s : State) (n b p : Nat) : State := s.setCell n { s.cellAt n with power := tput (s.cellAt n).power b p }

/-- A bank's code in CBANK set. -/
def State.setCode (s : State) (n b c : Nat) : State := s.setCell n { s.cellAt n with cbank := bset (s.cellAt n).cbank (2 * b) 2 c }

/-- A register of bank `b` of a cell has a write pending, in the context bank in use (R181). -/
def State.bankPending (s : State) (n b : Nat) : Bool :=
  let k := s.cellBank n
  (List.range 8).any fun i => if b < 4 then (s.tileAt n k (8 * b + i)).pending else (s.strmAt n k (8 * (b - 4) + i)).pending

/-- The physical registers of a thread that an issued, unfinished instruction names. -/
def Thread.namesBank (t : Thread) (b : Nat) : Bool :=
  t.out.any fun p => match instrOf p.slot p.inst with
    | none => false
    | some i =>
      (tileSrcs i ++ tileDsts i).any (fun r => (t.tiles[r]?).map (· / 8) == some b) ||
      (strmSrcs i ++ strmDsts i).any (fun r => (t.strms[r]?).map (4 + · / 8) == some b)

/-- A tile of bank `b`, in the context bank in use, that a queued matrix command still has to read (R370). -/
def State.bankHeld (s : State) (n b : Nat) : Bool :=
  (s.cellAt n).mq.any fun m => m.hold.any fun h => h / 32 == s.cellBank n && h % 32 / 8 == b

/-- An issued instruction of a cell that names a bank has not completed (R182), a queued matrix command among them. -/
def State.bankBusy (s : State) (n b : Nat) : Bool :=
  s.bankPending n b || s.bankHeld n b || (s.cellAt n).slots.any fun (_, t) => (t.map fun t => t.namesBank b).getD false

/-- A bank loses its contents (R182): its registers are zero and empty, with no write pending; those of the other context too that have not
been saved yet (R264; DEDUCED, log 42). -/
def State.loseBank (s : State) (n b : Nat) : State :=
  let k := s.cellBank n
  let wipe := fun (s : State) (k i : Nat) =>
    if b < 4 then s.setTileAt n k (8 * b + i) { Tile.init with full := false }
    else s.setStrmAt n k (8 * (b - 4) + i) { Strm.init with full := false }
  (List.range 8).foldl (fun s i =>
    let s1 := wipe s k i
    if (s.cellAt n).swap.contains (8 * b + i) then wipe s1 (1 - k) i else s1) s

/-- A thread of the cell waits for a bank to wake. -/
def State.wakeWanted (s : State) (n b : Nat) : Bool :=
  (s.cellAt n).slots.any fun (_, t) => match t with
    | some t => t.wait == .wake b
    | none => false

/-- BANK_WAKE (R182): a bank that CBANK turns on, or in retention that a bundle names, is on. -/
def execBankWake (cell b : Nat) (s : State) : Host.Outcome State Fault Refusal :=
  .next (
    let p := s.bankPower cell b
    if (p ≠ 0 ∧ s.bankCode cell b = 0) ∨ (p = 1 ∧ s.wakeWanted cell b) then
      let s1 := (s.setPower cell b 0).setCode cell b 0
      s1.setCell cell { s1.cellAt cell with idle := tput (s1.cellAt cell).idle b s1.cycle }
    else s)

/-- BANK_POWER_APPLY: an off bank that goes to retention is zero and empty there, as it is once it is on; a change to retention or off takes effect once nothing issued names the bank (R182, R199). -/
def execBankPowerApply (cell b : Nat) (s : State) : Host.Outcome State Fault Refusal :=
  .next (
    let c := s.bankCode cell b
    let p := s.bankPower cell b
    if c = p ∨ c = 0 ∨ s.bankBusy cell b then s
    else if c = 1 then s.setPower cell b 1
    else (s.loseBank cell b).setPower cell b 2)

/-- BANK_AUTO_RETENTION: with AUTO set, a bank not named for 65,536 cycles and with no write pending enters retention
(R182). -/
def execBankAutoRetention (cell b : Nat) (s : State) : Host.Outcome State Fault Refusal :=
  .next (
    let last := tget (fun _ => 0) (s.cellAt cell).idle b
    if (s.cellAt cell).cbank.getLsbD 16 && s.bankPower cell b == 0 && s.bankCode cell b == 0 && decide (last + 65536 ≤ s.cycle) &&
        !s.bankPending cell b then
      (s.setPower cell b 1).setCode cell b 1
    else s)

/-- A change that would turn off a bank which holds a pending write of a trapped task (R183) or a held tile (R399). -/
def State.offRefused (s : State) (n : Nat) (v : Word) : Bool :=
  let k := s.cellBank n
  (List.range 6).any fun b => bf v (2 * b) 2 == 2 && (s.bankHeld n b || (s.threadsOf n k).any fun (i, t) =>
    (t.stop.isSome || t.lanes.any fun c => (s.thrAt c i).stop.isSome) && (t.tiles.any (fun r => r / 8 == b && (s.tileAt n k r).pending) ||
                      t.strms.any (fun r => 4 + r / 8 == b && (s.strmAt n k r).pending)))

/-- A write of CBANK (R6, R182, R183): refused as a whole with ERR set, or accepted. DEDUCED, log 42. -/
def State.cbankWrite (s : State) (n : Nat) (v : Word) : State :=
  let c := s.cellAt n
  let bad := v.toNat / 2 ^ 17 ≠ 0 ∨ bf v 13 3 ≠ 0 ∨ (List.range 6).any (fun b => bf v (2 * b) 2 == 3) ∨ s.offRefused n v
  if bad then s.setCell n { c with cbank := bset c.cbank 12 1 1 }
  else
    let e := if v.getLsbD 12 then 0 else bf c.cbank 12 1
    s.setCell n { c with cbank := bset v 12 1 e }

/-- PRIV.RD of the thread's partition (R315). -/
def State.privRd (s : State) : Bool := s.fld 12 0 (8 * s.thr.part) 0 1 == 1

/-- PRIV.WR of the thread's partition (R315). -/
def State.privWr (s : State) : Bool := s.fld 12 0 (8 * s.thr.part) 1 1 == 1

/-- CBANK (R317). -/
def execCbank (x y : GReg) (we : Bool) (s : State) :=
  s.run (.cbank x y we) fun s =>
    if we && !s.privWr then s.trap cPERM 0#64
    else
      let old := s.cell.cbank
      (if we then s.cbankWrite s.turn (s.rd y) else s).wr x old

/-! ## Default progress -/

/-- The results of an outstanding instruction are there. -/
def Act.isRet : Act → Bool
  | .ret _ _ => true
  | _ => false

/-- A bounded number of the posted accesses and outstanding instructions of one thread carried as far as they go: what
may perform performs, what has performed is acknowledged or completes. DESIGN CHOICE, log 36. -/
def State.settleThread (s : State) (n k : Nat) : Nat → State
  | 0 => s
  | fuel + 1 =>
    let s1 := (List.range (s.thrAt n k).posted.length).foldl (fun s i => s.performPosted n k i) s
    let s2 := match (s1.thrAt n k).posted.findIdx? (fun p => p.performed) with
      | some i => s1.ackPosted n k i 0
      | none => s1
    let s3 := (List.range (s2.thrAt n k).out.length).foldl (fun s i => s.performOut n k i) s2
    let s4 := match (s3.thrAt n k).out.findIdx? (fun p => p.perf.isSome || p.late.isSome || p.act.isRet) with
      | some i => s3.completeOut n k i
      | none => s3
    (s4.depart n k).settleThread n k fuel

/-- What a state is after an outcome that is a next state. -/
def orElse (s : State) : Host.Outcome State Fault Refusal → State
  | .next x => x
  | _ => s

/-- PSW of a partition says that no switch and no swap is in progress once every cell of it has moved its units (R263,
R264). -/
def State.swapsOver (s : State) (q : Nat) : State :=
  if (s.partAt q).lazyLeft && !(s.partAt q).switching && s.cells.all (fun (n, c) => !s.dieIn q (n / 64) || c.swap.isEmpty) then
    (s.setPart q { s.partAt q with lazyLeft := false }).setFld 11 0 (0x100 * q + 0x18) 8 1 0
  else s

/-- The next unit of a cell swapped (R264). -/
def State.swapUnit (s : State) (q cell : Nat) : State :=
  (s.setCell cell { s.cellAt cell with swap := (s.cellAt cell).swap.drop 1 }).swapsOver q

/-- The default progress of matrix units (DESIGN CHOICE, log 2): a command of the cell's unit starts, and the running ones finish. -/
def State.settleMatrix (s : State) (n : Nat) : State :=
  (List.range 4).foldl (fun s j => s.matFinish n j) (s.matStart n)

/-- The default progress of the threads of a cell (DESIGN CHOICE, log 2): their accesses and results, banks that a bundle waits for,
units still to be swapped, and the end of tasks that are over. -/
def State.settle (s : State) (n : Nat) : State :=
  let keys := (s.cellAt n).slots.filterMap fun (k, t) => if t.isSome then some k else none
  let s1 := keys.foldl (fun s k => s.settleThread n k 24) (s.settleMatrix n)
  let s1 := match s1.partOfDie (n / 64) with
    | some q => if (s1.cellAt n).swap.isEmpty then s1 else s1.swapUnit q n
    | none => s1
  let s2 := (List.range 6).foldl (fun s b => orElse s (execBankWake n b s)) s1
  keys.foldl (fun s k => match s.thr? n k with
    | some t => if t.ended then s.taskEnd t.gid else s
    | none => s) s2

end Sys2Proof.Machine
end

