-- ==== Sys2Proof/Machine/Reduce.lean ====
section
/-! DEFINITION. Element types of copies, collectives and replicas (spec/05 R98, R100, spec/04 R77), the combining of elements
(spec/08 R157), wide fixed-point sums (spec/05 R101) and the total order (spec/04 R84). -/
namespace Sys2Proof.Machine

/-- Bytes of an element type (R98). -/
def dtSize (dt : Nat) : Nat :=
  match dt with
  | 0 => 4 | 1 => 2 | 2 => 2 | 3 => 4 | 4 => 1 | 5 => 1 | 6 => 1 | _ => 8

/-- An integer element type. -/
def dtInt (dt : Nat) : Bool := dt == 3 || dt == 6 || dt == 7

/-- The floating format of an element type. -/
def dtFmt (dt : Nat) : Fmt :=
  match dt with
  | 0 => fp32 | 1 => fp16 | 2 => bf16 | 4 => e4m3 | _ => e5m2

/-- Bits of a wide fixed-point value by its code (R77). -/
def wfxW (c : Nat) : Nat :=
  match c with
  | 0 => 64 | 1 => 128 | 2 => 192 | _ => 320

/-- The value of an element. -/
def dtVal (dt v : Nat) : FVal := if dtInt dt then ofInt (sInt (8 * dtSize dt) v) 0 else fdecode (dtFmt dt) v

/-- An integer saturated to an element type, with whether it saturated. -/
def dtSat (dt : Nat) (i : Int) : Nat × Bool :=
  let n := 8 * dtSize dt
  let (r, f) := satW n i
  ((r % (2 ^ n : Nat)).toNat, f ≠ 0)

/-- A pattern with a NaN made canonical (R84). -/
def dtCanon (dt v : Nat) : Nat :=
  if dtInt dt then v
  else match fdecode (dtFmt dt) v with
    | .nan s => ((dtFmt dt).nanPat s).1
    | _ => v

/-- The key of the total order (R84). -/
def dtKey (dt v : Nat) : Int :=
  if dtInt dt then sInt (8 * dtSize dt) v
  else
    let n := 8 * dtSize dt
    let b := dtCanon dt v
    if b / 2 ^ (n - 1) % 2 = 1 then ((2 ^ n - 1 - b : Nat) : Int) else ((2 ^ (n - 1) + b : Nat) : Int)

/-- The greater of two patterns in the total order (R84). -/
def maxTotal (dt a b : Nat) : Nat := if dtKey dt b ≤ dtKey dt a then dtCanon dt a else dtCanon dt b

/-- The lesser of two patterns in the total order (R100). -/
def minTotal (dt a b : Nat) : Nat := if dtKey dt a ≤ dtKey dt b then dtCanon dt a else dtCanon dt b

/-- red of R157: the new element from the old `b` and the source `a`, and whether an integer sum saturated. -/
def redOp (red dt b a : Nat) : Nat × Bool :=
  match red with
  | 1 =>
    if dtInt dt then dtSat dt (sInt (8 * dtSize dt) b + sInt (8 * dtSize dt) a)
    else ((fencode (dtFmt dt) 0 0 (fadd2 0 (dtVal dt b) (dtVal dt a)).1).1, false)
  | 2 => (maxTotal dt b a, false)
  | 3 => (minTotal dt b a, false)
  | 4 => (b &&& a, false)
  | 5 => (b ||| a, false)
  | 6 => (b ^^^ a, false)
  | _ => (a, false)

/-- RED and DTYPE combine (R100). -/
def redOk (red dt : Nat) : Bool := decide (red ≤ 3) || dtInt dt

/-- A wide fixed-point lane: the integer and its flags NAN 1, PINF 2, NINF 4, CLIP 8 (R101, R156). -/
structure Lane where
  v : Int
  fl : Nat
  deriving DecidableEq, Repr

/-- Bytes of a lane in memory (R156). -/
def laneSize (w : Nat) : Nat := w / 8 + 8

/-- The lane of its bytes. -/
def laneOf (w v : Nat) : Lane := { v := sInt w v, fl := v / 2 ^ w % 16 }

/-- The bytes of a lane, as one little-endian number. -/
def Lane.num (w : Nat) (l : Lane) : Nat := (l.v % (2 ^ w : Nat)).toNat + l.fl * 2 ^ w

/-- wfx_enter (R101). -/
def laneEnter (w : Nat) (bexp : Int) (dt v : Nat) : Lane :=
  let (i, f) := wfxEnter w bexp (dtVal dt v)
  { v := i, fl := f }

/-- wfx_add (R101). -/
def laneAdd (w : Nat) (a b : Lane) : Lane :=
  let (i, f) := satW w (a.v + b.v)
  { v := i, fl := a.fl ||| b.fl ||| f }

/-- wfx_convert (R101): the pattern, and whether it saturated. A lane that holds a NaN or an infinity converts to an
integer as R299 states. -/
def laneConvert (bexp : Int) (dt : Nat) (l : Lane) : Nat × Bool :=
  if dtInt dt then
    let n := 8 * dtSize dt
    let hi : Int := (2 ^ (n - 1) : Nat)
    let x : FVal := if l.fl % 2 = 1 ∨ (l.fl / 2 % 2 = 1 ∧ l.fl / 4 % 2 = 1) then .nan false
      else if l.fl / 2 % 2 = 1 then .inf false else if l.fl / 4 % 2 = 1 then .inf true else ofInt l.v bexp
    let (i, f) := fToInt 0 0 (-hi) (hi - 1) x
    ((i % (2 ^ n : Nat)).toNat, f == flSAT)
  else
    let (p, f) := wfxOut (dtFmt dt) l.v bexp (l.fl % 8)
    (p, f / flSAT % 2 == 1)

end Sys2Proof.Machine
end

