-- ==== Sys2Proof/Machine/Replicas.lean ====
section
/-! DEFINITION. Replicated tensors (spec/04 R74 to R95, R422): descriptors, contributions and groups, the joins, gossip, the
frontier and rejoin, and the instructions on replicas (spec/16 R345 to R357). The replica state is structured
(notes/assumptions/13.md). -/
namespace Sys2Proof.Machine

/-! ## Descriptors -/

/-- A valid object descriptor (R76): type, element format, bits of a wide lane, base exponent, group and the group's members,
elements, STATE and PLOG. -/
structure ObjD where
  typ : Nat
  fmt : Nat
  w : Nat
  bexp : Int
  group : Nat
  mem : List Nat
  n : Nat
  addr : Nat
  plog : Nat
  deriving DecidableEq, Repr

/-- A valid group descriptor (R75): T_absent in us and the members' contributor ids. -/
structure GrpD where
  tAbs : Nat
  mem : List Nat
  deriving DecidableEq, Repr

/-- The contributor id of a die (R74). -/
def State.contrib (s : State) (d : Nat) : Nat := 8 * s.devId + d

/-- TYPE, FMT and WFXW combine (R77). -/
def typeOk (typ fmt wc : Nat) : Bool :=
  match typ with
  | 1 => fmt ≤ 3
  | 2 => fmt ≤ 3 && wc == 0
  | 3 => fmt ≤ 6 && wc == 0
  | 4 => fmt == 0 && wc == 0
  | 5 => fmt ≤ 2
  | _ => false

/-- A sum type: PCSUM or CMEAN. -/
def ObjD.isSum (o : ObjD) : Bool := o.typ == 1 || o.typ == 5

/-- Elements per tile (R77). -/
def ObjD.perTile (o : ObjD) : Nat :=
  if o.isSum then (match o.w with | 64 => 512 | 128 => 256 | 192 => 128 | _ => 64) else 4096 / dtSize o.fmt

/-- Bytes of a delta element (R77). -/
def ObjD.elSize (o : ObjD) : Nat := if o.isSum then o.w / 8 else dtSize o.fmt

/-- Tiles of an object. -/
def ObjD.tiles (o : ObjD) : Nat := if o.typ = 4 then 1 else (o.n + o.perTile - 1) / o.perTile

/-- Elements of tile `t`; the last tile may be short. -/
def ObjD.count (o : ObjD) (t : Nat) : Nat := min o.perTile (o.n - t * o.perTile)

/-- The two 32-bit halves of words, low first. -/
def halves (ws : List Word) : List Nat := ws.flatMap fun w => [bf w 0 32, bf w 32 32]

/-- The object of descriptor words within its limits, STATE apart (R76, R77). -/
def objOf (ws : List Word) : Option ObjD :=
  let w0 := ws.getD 0 0#64
  let typ := bf w0 28 3
  let nd := bf w0 20 3 + 1
  let wc := bf w0 18 2
  let bexp := sInt 16 (bf w0 32 16)
  let dims := halves ((ws.drop 1).take 4)
  let n := (dims.take nd).foldl (· * ·) 1
  let plog := bf (ws.getD 6 0#64) 0 32
  let st := (ws.getD 5 0#64).toNat
  let ok := w0.getLsbD 31 && bf w0 0 18 == 0 && typeOk typ (bf w0 23 5) wc && decide (-1100 ≤ bexp) && decide (bexp ≤ 1100) &&
    (dims.take nd).all (fun x => decide (1 ≤ x) && decide (x ≤ 2 ^ 31)) && (dims.drop nd).all (· == 0) && decide (n ≤ 2 ^ 36) &&
    (typ != 4 || (nd == 1 && n == 2 ^ 20)) && st % 4096 == 0 && decide (16 ≤ plog) && decide (plog ≤ 2 ^ 20) &&
    bf (ws.getD 6 0#64) 32 32 == 0 && ws.getD 7 0#64 == 0#64
  if ok then some { typ := typ, fmt := bf w0 23 5, w := wfxW wc, bexp := bexp, group := bf w0 48 16, mem := [], n := n, addr := st, plog := plog } else none

/-- Numbers in ascending order without duplicates. -/
def rising : List Nat → Bool
  | a :: b :: r => decide (a < b) && rising (b :: r)
  | _ => true

/-- The group descriptor of an index on a die (R75, R78). -/
def State.readGroup (s : State) (d q g : Nat) : State × Option GrpD :=
  let r := s.reg 4 d (0x40 * q + 8)
  if 2 ^ bf r 0 5 ≤ g then (s, none)
  else match (s.charge d q (bf r 12 45 * 4096 + 64 * g) 64).engWords q (bf r 12 45 * 4096 + 64 * g) 8 with
  | (s1, .error _) => (s1, none)
  | (s1, .ok ws) =>
    let w0 := ws.getD 0 0#64
    let w1 := ws.getD 1 0#64
    let ta := bf w0 32 32
    let pr := bf w1 0 32
    if !w0.getLsbD 31 || bf w0 11 20 != 0 || !(ta == 0 || (decide (1000 ≤ ta) && decide (ta ≤ 10000000))) ||
        !(pr == 0 || (decide (50 ≤ pr) && decide (pr ≤ 100000))) || bf w1 32 32 != 0 || (ws.drop 3).any (· != 0#64) then (s1, none)
    else match (s1.chargeRange d q (ws.getD 2 0#64).toNat (2 * (bf w0 0 11 + 1))).engNums q (ws.getD 2 0#64).toNat 2 (bf w0 0 11 + 1) with
      | (s2, .error _) => (s2, none)
      | (s2, .ok m) =>
        if rising m && m.all (fun x => decide (x < 2 ^ 14)) then (s2, some { tAbs := if ta = 0 then 20000 else ta, mem := m }) else (s2, none)

/-- Bytes of an object's replica state (R79). -/
def stateBytes (o : ObjD) (nmem : Nat) : Nat :=
  let up := fun n => (n + 4095) / 4096 * 4096
  let z := dtSize o.fmt
  let w := o.w / 8 + 8
  let t := o.tiles
  4096 + 65536 + 65536 + 16384 + up (nmem * nmem * 4) +
    up (match o.typ with
      | 1 => o.n * w + (t + 7) / 8
      | 2 => o.n * z
      | 3 => o.n * z + 16 * t
      | 4 => 2 ^ 24
      | _ => o.n * w + 8 * t + (t + 7) / 8) + o.plog * 4096

/-- The pages of a range of virtual addresses lie in the stacks of a die; `k` bounds their number. -/
def State.inStacks (s : State) (d q a stop : Nat) : Nat → Bool
  | 0 => decide (stop ≤ a)
  | k + 1 =>
    if stop ≤ a then true
    else match s.walk q a with
      | none => false
      | some l => match l.loc a with
        | .hbm h => h / 2 ^ 37 == d && s.inStacks d q ((a / l.size + 1) * l.size) stop k
        | _ => false

/-- A replica state lies in paged space and in the die's own stacks (R76, R79). -/
def State.stateHere (s : State) (d q : Nat) (o : ObjD) (nmem : Nat) : Bool :=
  let stop := o.addr + stateBytes o nmem
  isPaged o.addr && isPaged (stop - 1) && s.inStacks d q o.addr stop (stateBytes o nmem / 65536 + 2)

/-- An object and its group on a die, where the descriptor is valid and the die is a member (R76, R78). -/
def State.readObj (s : State) (d q obj : Nat) : State × Option (ObjD × GrpD) :=
  let r := s.reg 4 d (0x40 * q)
  if 2 ^ bf r 0 5 ≤ obj then (s, none)
  else match (s.charge d q (bf r 12 45 * 4096 + 64 * obj) 64).engWords q (bf r 12 45 * 4096 + 64 * obj) 8 with
  | (s1, .error _) => (s1, none)
  | (s1, .ok ws) =>
    match objOf ws with
    | none => (s1, none)
    | some o =>
      match s1.readGroup d q o.group with
      | (s2, some g) =>
        if g.mem.contains (s.contrib d) && s2.stateHere d q o g.mem.length then (s2, some ({ o with mem := g.mem }, g)) else (s2, none)
      | (s2, none) => (s2, none)

/-- The objects declared in a group on a die, in ascending order (R91). -/
def State.declared (s : State) (d q g : Nat) : State × List (Nat × ObjD) :=
  (List.range (2 ^ s.fld 4 d (0x40 * q) 0 5)).foldl (fun (s, l) i =>
    match s.readObj d q i with
    | (s1, some (o, _)) => if o.group = g then (s1, l ++ [(i, o)]) else (s1, l)
    | (s1, none) => (s1, l)) (s, [])

/-! ## Replicas and views -/

/-- The empty folded value (R79). -/
def baseNone : BaseVal := { elems := [], counts := [], clips := [], stamps := [], dots := [] }

/-- The empty replica of an object at a STATE address (R79). -/
def Replica.init (q obj addr group : Nat) (mem : List Nat) : Replica :=
  { part := q, obj := obj, next := 1, opened := [], log := [], held := [], parts := [], seen := [], front := [], rows := [],
    base := baseNone, shadow := .none, addr := addr, group := group, mem := mem, own := [] }

/-- The replica state at an address holds nothing: its first word, the model's mark in HDR, reads as zero (R79; DESIGN CHOICE, log 13). -/
def State.stateZero (s : State) (q a : Nat) : Bool :=
  match s.hpaOf q a with
  | some h => !(s.lineOf h).poison && s.seenWord q h == 0#64
  | .none => false

/-- The replica of an object on a die: the empty one where none was started at its STATE or the state there has been zeroed
(R79). -/
def State.repl (s : State) (d q obj : Nat) (o : ObjD) : Replica :=
  match (s.dieAt d).replicas.find? fun r => r.part == q && r.obj == obj && r.addr == o.addr with
  | some r => if s.stateZero q o.addr then Replica.init q obj o.addr o.group o.mem else { r with group := o.group, mem := o.mem }
  | .none => Replica.init q obj o.addr o.group o.mem

/-- An entry of SEEN. -/
def Replica.seenOf (r : Replica) (c : Nat) : Nat := tget (fun _ => 0) r.seen c

/-- An entry of F. -/
def Replica.frontOf (r : Replica) (c : Nat) : Nat := tget (fun _ => 0) r.front c

/-- An entry of the row reported by a member. -/
def Replica.rowOf (r : Replica) (m c : Nat) : Nat := tget (fun _ => 0) (tget (fun _ => []) r.rows m) c

/-- A value of `n` bytes stored into a replica state by its join unit. -/
def State.putState (s : State) (q a n v : Nat) : State :=
  match s.hpaOf q a with
  | some h => (s.hbmWrite q h n v).1
  | .none => s

/-- The entries of `n` bytes stored that differ between two tables at an address, by index. -/
def State.putEntries (s : State) (q a n : Nat) (is : List Nat) (old new : Nat → Nat) : State :=
  is.foldl (fun s i => if old i = new i then s else s.putState q (a + n * i) n (new i)) s

/-- HEARD by member slot stored into the replica state of a replica (R79). -/
def State.putHeard (s : State) (r : Replica) (old new : Tab Word) : State :=
  let at_ := fun (t : Tab Word) (i : Nat) => (tget (fun _ => 0#64) t i).toNat
  s.putEntries r.part (r.addr + 0x21000) 8 (List.range r.mem.length) (at_ old) (at_ new)

/-- What changed of SEEN, FRONT and ROWS stored into the replica state (R79), and the mark that it is in use (log 13); a replica
that starts takes HEARD of its group with it. -/
def State.putReplica (s : State) (d : Nat) (old r : Replica) : State :=
  let n := r.mem.length
  let s1 := if s.stateZero r.part r.addr then
      let s0 := s.putState r.part r.addr 8 1
      match (s.dieAt d).views.find? fun v => v.part == r.part && v.group == r.group with
      | some v => s0.putHeard r [] v.heard
      | .none => s0
    else s
  let s2 := if old.seen = r.seen then s1 else s1.putEntries r.part (r.addr + 0x1000) 4 r.mem old.seenOf r.seenOf
  let s3 := if old.front = r.front then s2 else s2.putEntries r.part (r.addr + 0x11000) 4 r.mem old.frontOf r.frontOf
  if old.rows = r.rows then s3
  else s3.putEntries r.part (r.addr + 0x25000) 4 (List.range (n * n)) (fun i => old.rowOf (i / n) (r.mem.getD (i % n) 0)) (fun i => r.rowOf (i / n) (r.mem.getD (i % n) 0))

/-- The state with a replica set. -/
def State.setRepl (s : State) (d : Nat) (r : Replica) : State :=
  let old := match (s.dieAt d).replicas.find? fun x => x.part == r.part && x.obj == r.obj && x.addr == r.addr with
    | some x => if s.stateZero r.part r.addr then Replica.init r.part r.obj r.addr r.group r.mem else x
    | .none => Replica.init r.part r.obj r.addr r.group r.mem
  let s1 := s.putReplica d old r
  s1.setDie d { s1.dieAt d with replicas := (s1.dieAt d).replicas.filter (fun x => !(x.part == r.part && x.obj == r.obj)) ++ [r] }

/-- now_units of R89: the timebase in units of 2^-20 s. -/
def State.nowUnits (s : State) : Nat := (s.tb 0).toNat * 2 ^ 20 / 1000000000

/-- HLC of a die. -/
def State.hlc (s : State) (d : Nat) : Word := s.reg 4 d 0x400

/-- hlc_update (R89). -/
def State.hlcUpdate (s : State) (d : Nat) (m : Word) : State :=
  let h := s.hlc d
  let pt := max (max (bf h 16 48) (bf m 16 48)) s.nowUnits
  let c := if pt = bf h 16 48 ∧ pt = bf m 16 48 then max (bf h 0 16) (bf m 0 16) + 1
    else if pt = bf h 16 48 then bf h 0 16 + 1
    else if pt = bf m 16 48 then bf m 0 16 + 1
    else 0
  let (pt, c) := if c = 2 ^ 16 then (pt + 1, 0) else (pt, c)
  s.setReg 4 d 0x400 (W (pt % 2 ^ 48 * 2 ^ 16 + c))

/-- The clock as an evaluation reads it, without changing it (R93): its physical part. -/
def State.clockNow (s : State) (d : Nat) : Nat := max (bf (s.hlc d) 16 48) s.nowUnits

/-- The view of a group on a die; at its first use every HEARD entry is the die's HLC (R93), and a die that lost its state of the group at a reset
collects digests (R94). -/
def State.view (s : State) (d q g : Nat) (gd : GrpD) : GView :=
  match (s.dieAt d).views.find? fun v => v.part == q && v.group == g with
  | some v => v
  | .none =>
    { part := q, group := g, heard := tofn 0 gd.mem.length (fun _ => s.hlc d), out := [], rounds := 0, lost := (s.dieAt d).gone.contains (q, g),
      first := .none, asked := [] }

/-- The state with a view set; HEARD goes into the replica states of the group (R79). -/
def State.setView (s : State) (d : Nat) (v : GView) : State :=
  let old := match (s.dieAt d).views.find? fun x => x.part == v.part && x.group == v.group with
    | some x => x.heard
    | .none => []
  let s1 := if old = v.heard then s
    else (s.dieAt d).replicas.foldl (fun s r => if r.part = v.part ∧ r.group = v.group ∧ !s.stateZero r.part r.addr then s.putHeard r old v.heard else s) s
  s1.setDie d { s1.dieAt d with views := (s1.dieAt d).views.filter (fun x => !(x.part == v.part && x.group == v.group)) ++ [v] }

/-- A die uses a group: at its first use its clock takes a local stamp, so that no member is absent, and its view begins (R89, R93; DEDUCED, log 23). -/
def State.useGroup (s : State) (d q g : Nat) (gd : GrpD) : State :=
  if (s.dieAt d).views.any fun v => v.part == q && v.group == g then s
  else
    let s1 := s.hlcUpdate d 0#64
    s1.setView d (s1.view d q g gd)

/-! ## Tiles and groups -/

/-- The value of little-endian bytes. -/
def numLE (bs : List Byte) : Nat := bs.foldr (fun b a => b.toNat + 256 * a) 0

/-- The low `n` bytes of a number. -/
def bytesLE (v n : Nat) : List Byte := (List.range n).map fun i => BitVec.ofNat 8 (v / 256 ^ i)

/-- Element `i` of tile data. -/
def tileEl (z : Nat) (t : DeltaTile) (i : Nat) : Nat := numLE ((t.data.drop (i * z)).take z)

/-- Bytes of LOG that a tile of `n` data bytes occupies (R422). -/
def tileCost (n : Nat) : Nat := 64 + (n + 63) / 64 * 64

/-- Bytes of LOG that a group occupies. -/
def groupCost (ts : List DeltaTile) : Nat := (ts.map fun t => tileCost t.dlen).sum

/-- Bytes of LOG in use (R422). -/
def Replica.inUse (r : Replica) : Nat :=
  ((r.log ++ r.held).map fun g => groupCost g.tiles).sum + groupCost r.opened

/-- The pattern of an element that has no value (R79): the least of the order for MAXREG, zero for the others. -/
def ObjD.least (o : ObjD) : Nat :=
  if o.typ ≠ 2 then 0 else if dtInt o.fmt then 2 ^ 31 else ((dtFmt o.fmt).nanPat true).1

/-- A tile of the open group that nothing has entered. -/
def ObjD.tile0 (o : ObjD) (obj c t : Nat) : DeltaTile :=
  { obj := obj, typ := o.typ, fmt := o.fmt, clip := false, tile := t, contrib := c, dlen := o.count t * o.elSize, seq := 0, parts := 0,
    count := 0, hlc := 0#64, zeroOk := true, data := (List.range (o.count t)).flatMap fun _ => bytesLE o.least o.elSize }

/-- The sequence numbers of an object are exhausted (R80). -/
def Replica.spent (r : Replica) : Bool := decide (0xFFFFFFFF ≤ r.next)

/-- The open group sealed with the die's next number, up to 0xFFFF_FFFE (R80); an empty one is not. -/
def State.seal (s : State) (d : Nat) (r : Replica) : State × Replica :=
  if r.opened.isEmpty || r.spent then (s, r)
  else
    let c := s.contrib d
    let k := r.next
    let g : DeltaGroup :=
      { contrib := c, seq := k, tiles := r.opened.map fun t => { t with contrib := c, seq := k, parts := r.opened.length } }
    let r1 := { r with next := k + 1, opened := [], log := r.log ++ [g], own := r.own ++ [g], seen := tput r.seen c k }
    let s1 := if k = 0xF0000001 then s.devEvent d 0x22 0 r.obj else s
    (s1.setRepl d r1, r1)

/-- Room in LOG for tiles of an object that a contribution opens (R80, R422): a seal first where the reserve would not
remain, and whether there is room then. -/
def State.room (s : State) (d : Nat) (o : ObjD) (r : Replica) (ts : List Nat) : State × Replica × Bool :=
  let total := 4096 * o.plog
  let need := fun (r : Replica) => ((ts.filter fun t => !r.opened.any (·.tile == t)).map fun t => tileCost (o.count t * o.elSize)).sum
  let news := (ts.filter fun t => !r.opened.any (·.tile == t)).length
  let n := need r
  let (s1, r1) := if (n ≠ 0 ∧ total < r.inUse + n + 8320) ∨ 65536 < r.opened.length + news then s.seal d r else (s, r)
  (s1, r1, decide (r1.inUse + min (need r1) total ≤ total))

/-! ## Joins -/

/-- A value entering a wide lane of a replica (R81): saturated, with whether it was. -/
def ObjD.enter (o : ObjD) (x : Nat) : Int × Bool :=
  let hi : Int := (2 ^ (o.w - 1) : Nat)
  match dtVal o.fmt x with
  | .nan _ => (0, false)
  | .inf sg => (if sg then -hi else hi - 1, true)
  | v =>
    let (i, f) := wfxEnter o.w o.bexp v
    (i, f ≠ 0)

/-- A contributed element merged into the open one (R81). -/
def ObjD.merge (o : ObjD) (old x : Nat) : Nat × Bool :=
  if o.isSum then
    let (v, c1) := o.enter x
    let (t, f) := satW o.w (sInt o.w old + v)
    ((t % (2 ^ o.w : Nat)).toNat, c1 || f ≠ 0)
  else (maxTotal o.fmt old x, false)

/-- The elements from `lo` on of a tile merged with given patterns. -/
def ObjD.mergeTile (o : ObjD) (t : DeltaTile) (lo : Nat) (xs : List Nat) : DeltaTile :=
  let z := o.elSize
  let es := (List.range (o.count t.tile)).map fun i =>
    if lo ≤ i ∧ i < lo + xs.length then o.merge (tileEl z t i) (xs.getD (i - lo) 0) else (tileEl z t i, false)
  { t with data := es.flatMap (fun e => bytesLE e.1 z), clip := t.clip || es.any (·.2) }

/-- A contribution of patterns from element `e` on merged into the open group (R350); `cnt` is the count of a CMEAN. -/
def ObjD.contribute (o : ObjD) (c e cnt : Nat) (xs : List Nat) (r : Replica) : Replica :=
  let per := o.perTile
  let ts := (List.range (xs.length)).map (fun j => (e + j) / per) |>.eraseDups
  ts.foldl (fun r t =>
    let old := (r.opened.find? (·.tile == t)).getD (o.tile0 r.obj c t)
    let first := if e / per = t then 0 else t * per - e
    let m := o.mergeTile old (e + first - t * per) ((xs.drop first).take ((t + 1) * per - (e + first)))
    let k := m.count + cnt
    let m1 := if o.typ = 5 then { m with count := min k (2 ^ 32 - 1), clip := m.clip || decide (2 ^ 32 - 1 < k) } else m
    { r with opened := r.opened.filter (fun x => x.tile != t) ++ [m1] }) r

/-- The groups that a read takes (R83): those at or below F, or all of P with the open group. -/
def Replica.groupsFor (r : Replica) (stable : Bool) (c : Nat) : List DeltaGroup :=
  if stable then r.log.filter fun g => decide (g.seq ≤ r.frontOf g.contrib)
  else r.log ++ [{ contrib := c, seq := 0xFFFFFFFF, tiles := r.opened }]

/-- The tiles with an index among groups, with the group's contributor and number. -/
def tilesAt (gs : List DeltaGroup) (t : Nat) : List (Nat × Nat × DeltaTile) :=
  gs.flatMap fun g => (g.tiles.filter (·.tile == t)).map fun x => (g.contrib, g.seq, x)

/-- lww_key (R85). -/
def lwwKey (hlc c k : Nat) : Nat := hlc * 2 ^ 46 + c * 2 ^ 32 + k

/-- The CLIP flag of a tile (R353). -/
def Replica.clipOf (r : Replica) (gs : List DeltaGroup) (t : Nat) : Bool :=
  r.base.clips.contains t || (tilesAt gs t).any fun x => x.2.2.clip

/-- The count of a CMEAN tile (R83). -/
def Replica.countOf (r : Replica) (gs : List DeltaGroup) (t : Nat) : Nat :=
  tget (fun _ => 0) r.base.counts t + ((tilesAt gs t).map fun x => x.2.2.count).sum

/-- The exact sum of a wide element (R83). -/
def ObjD.sumOf (o : ObjD) (r : Replica) (gs : List DeltaGroup) (e : Nat) : Int :=
  let t := e / o.perTile
  (tilesAt gs t).foldl (fun a x => a + sInt o.w (tileEl o.elSize x.2.2 (e % o.perTile))) (tget (fun _ => 0) r.base.elems e)

/-- The value of an element read (R83 to R85), with its status bits. -/
def ObjD.read (o : ObjD) (r : Replica) (gs : List DeltaGroup) (e rm draw : Nat) : Nat × Nat :=
  let t := e / o.perTile
  let i := e % o.perTile
  let z := dtSize o.fmt
  if o.isSum then
    let (v, f) := satW o.w (o.sumOf r gs e)
    let fl := if f ≠ 0 ∨ r.clipOf gs t then flCLIP else 0
    let n := r.countOf gs t
    if o.typ = 5 ∧ n = 0 then (0, fl)
    else
      let x := if o.typ = 1 then ofInt v o.bexp else (fdiv2 (ofInt v o.bexp) (ofInt n 0)).1
      if dtInt o.fmt then
        let hi : Int := (2 ^ 31 : Nat)
        let (y, g) := fToInt rm draw (-hi) (hi - 1) x
        ((y % (2 ^ 32 : Nat)).toNat, fl ||| g)
      else
        let (y, g) := fencode (dtFmt o.fmt) rm draw x
        (y, fl ||| g)
  else if o.typ = 2 then
    let b := match r.base.elems.find? (·.1 == e) with
      | some (_, v) => v.toNat
      | .none => o.least
    ((tilesAt gs t).foldl (fun a x => maxTotal o.fmt a (tileEl z x.2.2 i)) b, 0)
  else
    let b := (tget (fun _ => 0) r.base.stamps t, (tget (fun _ => 0) r.base.elems e).toNat)
    ((tilesAt gs t).foldl (fun (a : Nat × Nat) x =>
      let k := lwwKey x.2.2.hlc.toNat x.1 x.2.1
      if a.1 < k then (k, tileEl z x.2.2 i) else a) b |>.2, 0)

/-- A record of an AWSET (R82): page, operation, the dot's contributor and number, and whether its zero fields are zero. -/
structure SetRec where
  page : Nat
  op : Nat
  c : Nat
  k : Nat
  ok : Bool
  deriving DecidableEq, Repr

/-- The record of 16 bytes. -/
def setRecOf (v : Nat) : SetRec :=
  { page := v % 2 ^ 40, op := v / 2 ^ 40 % 2 ^ 8, c := v / 2 ^ 48 % 2 ^ 14, k := v / 2 ^ 64 % 2 ^ 32,
    ok := v / 2 ^ 62 % 4 == 0 && v / 2 ^ 96 == 0 }

/-- The bytes of a record. -/
def setRecBytes (page op c k : Nat) : List Byte := bytesLE (page + op * 2 ^ 40 + c * 2 ^ 48 + k * 2 ^ 64) 16

/-- The records of a group. -/
def recsOf (g : DeltaGroup) : List SetRec :=
  g.tiles.flatMap fun t => (List.range (t.dlen / 16)).map fun i => setRecOf (tileEl 16 t i)

/-- The entries (page, contributor, number) of an AWSET that survive (R86). -/
def Replica.entries (r : Replica) (gs : List DeltaGroup) : List (Nat × Nat × Nat) :=
  let rs := gs.flatMap recsOf
  let adds := r.base.dots ++ (rs.filter (·.op == 1)).map fun x => (x.page, x.c, x.k)
  adds.filter fun e => !rs.any fun x => x.op == 2 && x.c == e.2.1 && x.k == e.2.2

/-- The number of ADD records of groups. -/
def addsOf (gs : List DeltaGroup) : Nat := ((gs.flatMap recsOf).filter (·.op == 1)).length

/-- A group sealed at once, of AWSET records (R80, R81). -/
def State.sealSet (s : State) (d : Nat) (r : Replica) (o : ObjD) (data : List Byte) : State × Replica :=
  let t : DeltaTile := { o.tile0 r.obj (s.contrib d) 0 with dlen := data.length, data := data }
  s.seal d { r with opened := [t] }

/-! ## Applying groups -/

/-- A group may be applied now (R87). -/
def ObjD.ready (o : ObjD) (r : Replica) (g : DeltaGroup) : Bool :=
  g.seq == r.seenOf g.contrib + 1 &&
    (o.typ != 4 ||
      ((recsOf g).all (fun x => x.op != 2 || decide (x.k ≤ r.seenOf x.c)) &&
        (addsOf [g] == 0 || decide ((r.entries r.log).length + addsOf [g] ≤ 2 ^ 20))))

/-- A group joined into P (R87). -/
def State.joinGroup (s : State) (d : Nat) (o : ObjD) (r : Replica) (g : DeltaGroup) : State × Replica :=
  let r1 := { r with log := r.log ++ [g], seen := tput r.seen g.contrib g.seq, held := r.held.erase g }
  let s1 := if o.typ = 3 then s.hlcUpdate d (W (g.tiles.foldl (fun m t => max m t.hlc.toNat) 0)) else s
  (s1, r1)

/-- A counter of a partition on a die raised (R96): 0x20 BADCNT, 0x28 DUPCNT, 0x30 EARLYCNT. -/
def State.joinCount (s : State) (d q o : Nat) : State := s.bump 4 d (0x40 * q + o) 0 64 1

/-- The held groups that may be applied now, oldest first (R87). -/
def State.drainHeld (s : State) (d : Nat) (o : ObjD) (r : Replica) : Nat → State × Replica
  | 0 => (s, r)
  | n + 1 =>
    match r.held.find? fun g => o.ready r g || decide (g.seq ≤ r.seenOf g.contrib) with
    | .none => (s, r)
    | some g =>
      if o.ready r g then
        let (s1, r1) := s.joinGroup d o r g
        s1.drainHeld d o r1 n
      else (s.joinCount d r.part 0x28).drainHeld d o { r with held := r.held.erase g } n

/-- The held groups of a replica whose condition has cleared applied (R87). -/
def State.settleHeld (s : State) (d : Nat) (o : ObjD) (r : Replica) : State :=
  if r.held.isEmpty then s
  else
    let (s1, r1) := s.drainHeld d o r (r.held.length + 1)
    s1.setRepl d r1

/-- receive_group (R87): applied with the held groups that follow, held, dropped, or counted as a duplicate. -/
def State.receiveGroup (s : State) (d : Nat) (o : ObjD) (r : Replica) (g : DeltaGroup) : State × Replica :=
  if g.seq ≤ r.seenOf g.contrib then (s.joinCount d r.part 0x28, r)
  else if o.ready r g then
    let (s1, r1) := s.joinGroup d o r g
    s1.drainHeld d o r1 (r1.held.length + 1)
  else if r.inUse + groupCost g.tiles + 8320 ≤ 4096 * o.plog then (s, { r with held := r.held ++ [g] })
  else (s.joinCount d r.part 0x30, r)

/-- A delta tile within its limits (R88). -/
def ObjD.fits (o : ObjD) (g : GrpD) (t : DeltaTile) : Bool :=
  t.zeroOk && t.typ == o.typ && t.fmt == o.fmt && g.mem.contains t.contrib && decide (1 ≤ t.seq) && decide (t.seq ≤ 0xFFFFFFFE) &&
    decide (1 ≤ t.parts) && decide (t.parts ≤ 65536) && decide (t.tile < o.tiles) && decide (t.data.length ≤ t.dlen) &&
    (if o.typ = 4 then t.dlen % 16 == 0 && decide (16 ≤ t.dlen) && decide (t.dlen ≤ 4096) else t.dlen == o.count t.tile * o.elSize) &&
    (o.typ == 5 || t.count == 0) && (o.typ == 3 || t.hlc == 0#64)

/-- The records of a complete AWSET tile keep their zero fields (R82). -/
def ObjD.recsOk (o : ObjD) (g : DeltaGroup) : Bool := o.typ != 4 || (recsOf g).all fun x => x.ok && (x.op == 1 || x.op == 2)

/-- All the tiles of a group are there, each whole (R87, R91). -/
def PartSet.whole (x : PartSet) : Bool := x.group.tiles.length == x.parts && x.group.tiles.all fun t => t.data.length == t.dlen

/-- Two sets hold tiles of one group from one die (R87, R95). -/
def PartSet.same (x y : PartSet) : Bool :=
  x.src == y.src && x.parts == y.parts && x.group.contrib == y.group.contrib && x.group.seq == y.group.seq

/-- The received parts of a group changed; once the group is complete it is received (R87). -/
def State.partsChanged (s : State) (d : Nat) (o : ObjD) (r : Replica) (x : PartSet) : State :=
  let others := r.parts.filter fun y => !y.same x
  if x.group.tiles.isEmpty then s.setRepl d { r with parts := others }
  else if !x.whole then s.setRepl d { r with parts := others ++ [x] }
  else
    let (s1, r1) := s.receiveGroup d o { r with parts := others } x.group
    s1.setRepl d r1

/-- The die that sent the packet of a kind that is held: its device and die number plus one, and the packet's number on its stream. -/
def State.heldSrc (s : State) (k : Nat) : Nat × BitVec 16 :=
  match s.heldPkt k with
  | some p => (8 * p.sdev.toNat + p.sdie.toNat + 1, p.seq)
  | .none => (0, 0#16)

/-- The packet of a kind that has arrived is poisoned (R88). -/
def State.heldBad (s : State) (k : Nat) : Bool := (s.heldPkt k).any (·.poison)

/-- A tile that is whole keeps the zero fields of its records (R82, R88). -/
def ObjD.tileOk (o : ObjD) (t : DeltaTile) : Bool :=
  t.data.length != t.dlen || o.recsOk { contrib := t.contrib, seq := t.seq, tiles := [t] }

/-- A tile added to those of its group from one die; one that is there already begins the group anew, which is shipped in order (R91). -/
def PartSet.add (x : PartSet) (n : BitVec 16) (t : DeltaTile) : PartSet :=
  { x with group := { x.group with tiles := if x.group.tiles.any (·.tile == t.tile) then [t] else x.group.tiles ++ [t] }, last := (n, t.tile) }

/-- DELTA (R87, R88, R91): the header and up to 4,048 bytes of a tile. -/
def execDelta (d q : Nat) (t : DeltaTile) (s : State) : Host.Outcome State Fault Refusal :=
  let bad := s.heldBad 0x41
  let src := s.heldSrc 0x41
  .next (s.onArrival 0x41 fun s => match s.readObj d q t.obj with
    | (s1, .none) => s1.joinCount d q 0x20
    | (s1, some (o, g)) =>
      if bad || !o.fits g t || !o.tileOk t then s1.joinCount d q 0x20
      else
        let s2 := s1.useGroup d q o.group g
        let r := s2.repl d q t.obj o
        let new : PartSet := { src := src.1, parts := t.parts, group := { contrib := t.contrib, seq := t.seq, tiles := [] }, last := (0#16, 0) }
        s2.partsChanged d o r (((r.parts.find? (·.same new)).getD new).add src.2 t))

/-- The replica that the die holds of an object, if any. -/
def State.heldRepl (s : State) (d q obj : Nat) : Option Replica := (s.dieAt d).replicas.find? fun r => r.part == q && r.obj == obj

/-- The part of a tile that a replica has received in the DELTA one number before on the stream of a die (R91). -/
def Replica.partOf (r : Replica) (src : Nat × BitVec 16) (contrib seq tile : Nat) : Option (PartSet × DeltaTile) :=
  (r.parts.find? fun x => x.src == src.1 && x.group.contrib == contrib && x.group.seq == seq &&
    x.last == (if src.1 = 0 then 0#16 else src.2 - 1#16, tile)).bind fun x => (x.group.tiles.find? (·.tile == tile)).map fun t => (x, t)

/-- DELTAC (R91): the rest of the data of a tile whose DELTA was taken; a tile that proves bad is dropped and counted once (R88). -/
def execDeltac (d q obj contrib seq tile : Nat) (data : List Byte) (s : State) : Host.Outcome State Fault Refusal :=
  let bad := s.heldBad 0x42
  let src := s.heldSrc 0x42
  .next (s.onArrival 0x42 fun s => match s.readObj d q obj with
    | (s1, .none) => match (s1.heldRepl d q obj).bind (·.partOf src contrib seq tile) with
      | .none => s1
      | some _ => s1.joinCount d q 0x20
    | (s1, some (o, _)) =>
      let r := s1.repl d q obj o
      match r.partOf src contrib seq tile with
      | .none => s1
      | some (x, t) =>
        let u := { t with data := t.data ++ data }
        let put := fun (ts : List DeltaTile) => s1.partsChanged d o r { x with group := { x.group with tiles := ts } }
        if bad || decide (u.dlen < u.data.length) || !o.tileOk u then (put (x.group.tiles.filter (·.tile != tile))).joinCount d q 0x20
        else put (x.group.tiles.map fun y => if y.tile = tile then u else y))

/-- DELTA_PARTS_TIMEOUT (R88). -/
def execDeltaPartsTimeout (d q obj contrib seq : Nat) (s : State) : Host.Outcome State Fault Refusal :=
  .next (match s.readObj d q obj with
    | (s1, .none) => s1
    | (s1, some (o, _)) =>
      let r := s1.repl d q obj o
      s1.setRepl d { r with parts := r.parts.filter fun x => !(x.group.contrib == contrib && x.group.seq == seq) })

/-! ## The frontier -/

/-- T_absent in units of 2^-20 s (R93). -/
def GrpD.ta (g : GrpD) : Nat := (g.tAbs * 2 ^ 20 + 999999) / 1000000

/-- A member by slot is absent (R93); the die itself never is. -/
def State.absent (s : State) (d : Nat) (g : GrpD) (v : GView) (m : Nat) : Bool :=
  g.mem.getD m 0 != s.contrib d && decide (g.ta + bf (tget (fun _ => 0#64) v.heard m) 16 48 < s.clockNow d)

/-- The member slots. -/
def GrpD.slots (g : GrpD) : List Nat := List.range g.mem.length

/-- The live members by slot (R93). -/
def State.live (s : State) (d : Nat) (g : GrpD) (v : GView) : List Nat :=
  g.slots.filter fun m => !s.absent d g v m && (g.mem.getD m 0 == s.contrib d || !v.out.contains m)

/-- F raised to the minimum of the live rows (R93), and the own groups that every member has reported seen let go, but while a
donor state waits for the switch (R94, R416). -/
def State.raiseFront (s : State) (d : Nat) (g : GrpD) (v : GView) (r : Replica) : Replica :=
  let me := s.contrib d
  let row := fun (r : Replica) (m c : Nat) => if g.mem.getD m 0 = me then r.seenOf c else r.rowOf m c
  let ms := s.live d g v
  let r1 := g.mem.foldl (fun (r : Replica) c =>
    let cand := ms.foldl (fun a m => min a (row r m c)) (row r (ms.headD 0) c)
    if r.frontOf c < cand then { r with front := tput r.front c cand } else r) r
  let least := (g.slots.filter fun m => g.mem.getD m 0 != me).foldl (fun a m => min a (r1.rowOf m me)) (r1.seenOf me)
  if r1.shadow.isSome then r1 else { r1 with own := r1.own.filter fun x => decide (least < x.seq) }

/-- MEMBER_ABSENT (R93): absent members are marked OUT. -/
def State.markOut (s : State) (d : Nat) (g : GrpD) (v : GView) : GView :=
  { v with out := g.slots.filter fun m => v.out.contains m || s.absent d g v m }

/-- Absence and F evaluated for every object of a group on a die (R93). -/
def State.frontier (s : State) (d q g : Nat) (gd : GrpD) : State :=
  let s := s.useGroup d q g gd
  let v := s.markOut d gd (s.view d q g gd)
  let s1 := s.setView d v
  let (s2, os) := s1.declared d q g
  os.foldl (fun s (i, o) => s.setRepl d (s.raiseFront d gd v (s.repl d q i o))) s2

/-- FRONTIER_UPDATE (R93). -/
def execFrontierUpdate (d q g : Nat) (s : State) : Host.Outcome State Fault Refusal :=
  .next (match s.readGroup d q g with
    | (s1, some gd) => if gd.mem.contains (s.contrib d) then s1.frontier d q g gd else s1
    | (s1, .none) => s1)

/-- A group folded into BASE (R83, R93). -/
def ObjD.fold (o : ObjD) (b : BaseVal) (g : DeltaGroup) : BaseVal :=
  if o.typ = 4 then
    let rs := (recsOf g)
    let ds := b.dots ++ (rs.filter (·.op == 1)).map fun x => (x.page, x.c, x.k)
    { b with dots := ds.filter fun e => !rs.any fun x => x.op == 2 && x.c == e.2.1 && x.k == e.2.2 }
  else g.tiles.foldl (fun (b : BaseVal) t =>
    let e0 := t.tile * o.perTile
    let is := List.range (o.count t.tile)
    if o.isSum then
      { b with
        elems := is.foldl (fun m i => tput m (e0 + i) (tget (fun _ => 0) m (e0 + i) + sInt o.w (tileEl o.elSize t i))) b.elems,
        counts := tput b.counts t.tile (tget (fun _ => 0) b.counts t.tile + t.count),
        clips := if t.clip ∧ !b.clips.contains t.tile then b.clips ++ [t.tile] else b.clips }
    else if o.typ = 2 then
      { b with elems := is.foldl (fun m i =>
          tput m (e0 + i) (maxTotal o.fmt (tget (fun _ => (o.least : Int)) m (e0 + i)).toNat (tileEl o.elSize t i) : Int)) b.elems }
    else
      let k := lwwKey t.hlc.toNat g.contrib g.seq
      if tget (fun _ => 0) b.stamps t.tile < k then
        { b with stamps := tput b.stamps t.tile k, elems := is.foldl (fun m i => tput m (e0 + i) (tileEl o.elSize t i : Int)) b.elems }
      else b) b

/-- GROUP_FOLD (R93, R422): the groups at or below F of an object fold into BASE and free their room. -/
def execGroupFold (d q obj : Nat) (s : State) : Host.Outcome State Fault Refusal :=
  .next (match s.readObj d q obj with
    | (s1, .none) => s1
    | (s1, some (o, _)) =>
      let r := s1.repl d q obj o
      let fs := r.log.filter fun g => decide (g.seq ≤ r.frontOf g.contrib)
      s1.setRepl d { r with base := fs.foldl o.fold r.base, log := r.log.filter fun g => !decide (g.seq ≤ r.frontOf g.contrib) })

/-! ## Gossip -/

/-- Flits of a packet of `n` payload words behind its 16-byte header (R60, R61). -/
def flitsOf (n : Nat) : Nat := (n + 2 + 7) / 8

/-- Packets of a message of `n` words. -/
def cutsOf (n : Nat) : Nat := (n + 509) / 510

/-- A long message of a kind cut into packets of 64 flits with their byte offsets (R91). -/
def State.sendCut (s : State) (d kind peer : Nat) (ws : List Word) : State :=
  (List.range (cutsOf ws.length)).foldl (fun s i =>
    let p := (ws.drop (510 * i)).take 510
    s.emit { s.blank kind (flitsOf p.length) (peer / 8) false with
      ddie := BitVec.ofNat 3 peer, sdie := BitVec.ofNat 3 d, ks := BitVec.ofNat 45 (4080 * i), pay := p }) s

/-- A long message cut into `n` packets of a kind arrives (R91): where one of them is held, once all are, and their stream takes each of them. -/
def State.onCut (s : State) (k n : Nat) (f : State → State) : State :=
  match s.heldPkt k with
  | .none => f s
  | some p =>
    let ps := (s.outbox ++ s.ports.flatMap fun e => e.2.inbox).filter fun x => x.kind == p.kind && x.ddev == p.ddev && x.sdev == p.sdev && x.sdie == p.sdie
    if ps.length < n then s
    else
      let (s1, ok) := (ps.take n).foldl (fun (x, ok) c => let (y, b) := State.accept x c; (y, ok && b)) (s, true)
      if ok then f s1 else s1

/-- Numbers of 4 bytes packed two to a word. -/
def pack32 : List Nat → List Word
  | a :: b :: r => W (a % 2 ^ 32 + b % 2 ^ 32 * 2 ^ 32) :: pack32 r
  | [a] => [W (a % 2 ^ 32)]
  | [] => []

/-- The words of a digest (R91): the rows of SEEN and F take 4 bytes an entry; every other field is a word (DESIGN CHOICE, log 23). -/
def digestWords (m : Digest) : List Word :=
  [W m.group, W m.sender, m.hlc, W m.heard.length] ++ m.heard ++
    m.objs.flatMap fun x => W x.obj :: pack32 (x.seen ++ x.front)

/-- A die's DIGEST of a group sent to a member (R91, R93): its HLC is a stamp taken for it. -/
def State.sendDigest (s : State) (d q g : Nat) (gd : GrpD) (peer : Nat) : State :=
  let s1 := s.hlcUpdate d 0#64
  let v := s1.view d q g gd
  let me := s1.contrib d
  let v1 := { v with heard := tput v.heard (gd.mem.idxOf me) (s1.hlc d) }
  let (s2, os) := (s1.setView d v1).declared d q g
  let m : Digest :=
    { group := g, sender := me, hlc := s1.hlc d, heard := gd.slots.map fun i => tget (fun _ => 0#64) v1.heard i,
      objs := os.map fun (i, o) => let r := s2.repl d q i o; { obj := i, seen := gd.mem.map r.seenOf, front := gd.mem.map r.frontOf } }
  s2.sendCut d 0x40 peer (digestWords m)

/-- The product in GF(32) with x^5 + x^2 + 1 (R63). -/
def gfMul (a b : Nat) : Nat :=
  let p := (List.range 5).foldl (fun r i => if b / 2 ^ i % 2 = 1 then r ^^^ (a * 2 ^ i) else r) 0
  [8, 7, 6, 5].foldl (fun r i => if r / 2 ^ i % 2 = 1 then r ^^^ (37 * 2 ^ (i - 5)) else r) p

/-- A power of the generator of the field. -/
def gfPow : Nat → Nat
  | 0 => 1
  | n + 1 => gfMul 2 (gfPow n)

/-- Neighbour `j` of a device (R64). -/
def neighbour (dev j : Nat) : Nat :=
  let a := dev / 32 % 32
  let b := dev % 32
  if dev / 1024 = 0 then
    if j < 16 then a * 32 + (b ^^^ gfPow (2 * j)) else 1024 + (j - 16) * 32 + (b ^^^ gfMul (j - 16) a)
  else
    if j < 16 then 1024 + a * 32 + (b ^^^ gfPow (2 * j + 1)) else (j - 16) * 32 + (gfMul a (j - 16) ^^^ b)

/-- The partner of a round (R90): a member slot, or nothing. -/
def State.partner (s : State) (d : Nat) (g : GrpD) (v : GView) : Option Nat :=
  let me := s.contrib d
  let h := (chash (BitVec.ofNat 32 me) (BitVec.ofNat 32 v.rounds)).toNat
  let out := g.slots.filter fun m => v.out.contains m
  let live := (s.live d g v).filter fun m => g.mem.getD m 0 != me
  let nbs := s.devId :: (List.range 48).map (neighbour s.devId)
  let near := live.filter fun m => nbs.contains (g.mem.getD m 0 / 8)
  if v.rounds % 16 = 0 ∧ !out.isEmpty then out[h / 4 % out.length]?
  else if !near.isEmpty ∧ h % 4 ≠ 0 then near[h / 4 % near.length]?
  else if live.isEmpty then .none else live[h / 4 % live.length]?

/-- GOSSIP_ROUND (R80, R90, R91): the open groups of the group's objects seal, and the DIGEST goes to the partner, from which alone an answer is
awaited from then on (DESIGN CHOICE, log 23). -/
def execGossipRound (d q g : Nat) (s : State) : Host.Outcome State Fault Refusal :=
  .next (match s.readGroup d q g with
    | (s1, .none) => s1
    | (s1, some gd) =>
      if !gd.mem.contains (s.contrib d) then s1
      else
        let s1 := s1.useGroup d q g gd
        let v := s1.view d q g gd
        let s2 := s1.setView d { v with rounds := v.rounds + 1 }
        let (s3, os) := s2.declared d q g
        let s4 := os.foldl (fun s (i, o) => (s.seal d (s.repl d q i o)).1) s3
        let v1 := s4.view d q g gd
        match s4.partner d gd v1 with
        | .none => s4
        | some m => (s4.setView d { v1 with asked := [m] }).sendDigest d q g gd (gd.mem.getD m 0))

/-- The words of a delta tile (R82): the header and the first `n` bytes of its data. -/
def tileWords (t : DeltaTile) (n : Nat) : List Word :=
  [W (t.obj * 2 ^ 12 + t.typ * 2 ^ 9 + t.fmt * 2 ^ 4 + t.clip.toNat * 8 + t.tile * 2 ^ 32),
   W (t.contrib + t.dlen * 2 ^ 16 + t.seq * 2 ^ 32), W (t.parts + t.count * 2 ^ 32), t.hlc] ++
  (List.range ((min t.data.length n + 7) / 8)).map fun i => W (numLE ((t.data.drop (8 * i)).take 8))

/-- The words of a delta tile's packet (R91): the first 4,048 bytes. -/
def deltaWords (t : DeltaTile) : List Word := tileWords t 4048

/-- A group shipped to a member: DELTA, and DELTAC for what is left of a tile (R91). -/
def State.shipGroup (s : State) (d peer : Nat) (g : DeltaGroup) : State :=
  g.tiles.foldl (fun s t =>
    let ws := deltaWords t
    let pk := fun (s : State) (kind : Nat) (ws : List Word) =>
      { s.blank kind (flitsOf ws.length) (peer / 8) false with ddie := BitVec.ofNat 3 peer, sdie := BitVec.ofNat 3 d, pay := ws }
    let s1 := s.emit (pk s 0x41 ws)
    if t.data.length ≤ 4048 then s1
    else s1.emit (pk s1 0x42 ((List.range ((t.data.length - 4048 + 7) / 8)).map fun i => W (numLE ((t.data.drop (4048 + 8 * i)).take 8))))) s

/-- The words of a donor state (R91): the offer, then BASE, SEEN, F and LOG, each field a word. -/
def donorWords (x : DonorState) : List Word :=
  let pairs := fun (l : List (Nat × Nat)) => W l.length :: l.flatMap fun e => [W e.1, W e.2]
  [W x.obj, W x.sender] ++
  (W x.base.elems.length :: x.base.elems.flatMap fun e => [W e.1, BitVec.ofInt 64 e.2]) ++ pairs x.base.counts ++
  (W x.base.clips.length :: x.base.clips.map W) ++ pairs x.base.stamps ++
  (W x.base.dots.length :: x.base.dots.flatMap fun e => [W e.1, W e.2.1, W e.2.2]) ++ pairs x.seen ++ pairs x.front ++
  x.log.flatMap fun g => g.tiles.flatMap fun t => tileWords t t.data.length

/-- What a digest leads to for one object (R91): deltas in sequence order, or DONOR where the partner lacks folded
groups. -/
def State.ship (s : State) (d : Nat) (gd : GrpD) (r : Replica) (x : DigestObj) (peer : Nat) : State :=
  let at_ := fun (l : List Nat) (c : Nat) => l.getD (gd.mem.idxOf c) 0
  if gd.mem.any fun c => decide (at_ x.seen c < r.frontOf c) then
    s.sendCut d 0x43 peer (donorWords { obj := r.obj, sender := s.contrib d, base := r.base, seen := r.seen, front := r.front, log := r.log })
  else gd.mem.foldl (fun s c =>
    let gs := r.log.filter fun g => g.contrib == c && decide (at_ x.seen c < g.seq)
    (sortBy (fun a b => decide (a.seq ≤ b.seq)) gs).foldl (fun s g => s.shipGroup d peer g) s) s

/-- An object's rows and frontier after a member's report (R93). -/
def Replica.heardFrom (r : Replica) (gd : GrpD) (m : Nat) (x : DigestObj) : Replica :=
  let row := (List.range gd.mem.length).foldl (fun t i =>
    let c := gd.mem.getD i 0
    tput t c (max (tget (fun _ => 0) t c) (x.seen.getD i 0))) (tget (fun _ => []) r.rows m)
  let f := (List.range gd.mem.length).foldl (fun t i =>
    let c := gd.mem.getD i 0
    let n := min (x.front.getD i 0) (r.seenOf c)
    if tget (fun _ => 0) t c < n then tput t c n else t) r.front
  { r with rows := tput r.rows m row, front := f }

/-- A digest of a member as it changes the die's clock and view (R89, R93): HEARD, ROWS, F, OUT; a member is no longer OUT once its
digest shows every entry of F reached. -/
def State.digestIn (s : State) (d q g : Nat) (gd : GrpD) (m : Digest) : State × List (Replica × DigestObj) :=
  let b := gd.mem.idxOf m.sender
  let s := (s.useGroup d q g gd).hlcUpdate d m.hlc
  let v := s.view d q g gd
  let v1 := { v with heard := tput (gd.slots.foldl (fun t i =>
    let old := tget (fun _ => 0#64) t i
    let new := m.heard.getD i 0#64
    if old.toNat < new.toNat then tput t i new else t) v.heard) b m.hlc }
  let (s1, os) := (s.setView d v1).declared d q g
  let got := m.objs.filterMap fun x => (os.find? (·.1 == x.obj)).map fun (i, o) => ((s1.repl d q i o).heardFrom gd b x, x)
  let s2 := got.foldl (fun s e => s.setRepl d e.1) s1
  let back := !m.objs.isEmpty && os.all fun (i, _) => got.any fun e => e.1.obj == i &&
    (List.range gd.mem.length).all fun i => decide (e.1.frontOf (gd.mem.getD i 0) ≤ e.2.seen.getD i 0)
  let v2 := { v1 with out := if back then v1.out.filter (· ≠ b) else v1.out,
                      first := if v1.first.isNone then some m.sender else v1.first }
  ((s2.setView d v2).frontier d q g gd, got)

/-- DIGEST (R91, R93): the view moves on, an initiator's digest is answered with the own one, and deltas or the donor state
are shipped. -/
def execDigest (d q : Nat) (m : Digest) (s : State) : Host.Outcome State Fault Refusal :=
  .next (s.onCut 0x40 (cutsOf (digestWords m).length) fun s => match s.readGroup d q m.group with
    | (s1, .none) => s1
    | (s1, some gd) =>
      let me := s.contrib d
      if !gd.mem.contains me ∨ !gd.mem.contains m.sender ∨ m.sender = me then s1
      else
        let b := gd.mem.idxOf m.sender
        let (s2, got) := s1.digestIn d q m.group gd m
        let v := s2.view d q m.group gd
        let s3 := if v.asked.contains b then s2.setView d { v with asked := v.asked.filter (· ≠ b) }
          else s2.sendDigest d q m.group gd m.sender
        got.foldl (fun s e =>
          match s.heldRepl d q e.1.obj with
          | some r => s.ship d gd r e.2 m.sender
          | .none => s) s3)

/-! ## Rejoin -/

/-- A donor's F covers something that the replica has not seen (R94). -/
def Replica.behind (r : Replica) (x : DonorState) : Bool := x.front.any fun e => decide (r.seenOf e.1 < e.2)

/-- DONOR (R94): the first donor's state taken into the shadow area. -/
def execDonor (d q : Nat) (x : DonorState) (s : State) : Host.Outcome State Fault Refusal :=
  .next (s.onCut 0x43 (cutsOf (donorWords x).length) fun s => match s.readObj d q x.obj with
    | (s1, .none) => s1
    | (s1, some (o, g)) =>
      let r := s1.repl d q x.obj o
      if r.shadow.isSome ∨ !g.mem.contains x.sender ∨ !r.behind x then s1 else s1.setRepl d { r with shadow := some x })

/-- The donor state with the own groups above its SEEN entry re-entered (R94). -/
def State.switched (s : State) (d : Nat) (r : Replica) (x : DonorState) : Replica :=
  let me := s.contrib d
  let r1 := { r with base := x.base, seen := x.seen, front := x.front, log := x.log, shadow := Option.none }
  let mine := sortBy (fun a b => decide (a.seq ≤ b.seq)) (r.own.filter fun g => decide (r1.seenOf me < g.seq))
  { r1 with log := r1.log ++ mine, seen := mine.foldl (fun t g => tput t me g.seq) r1.seen, next := max r.next (r1.seenOf me + 1) }

/-- REJOIN_SWITCH (R94): to the donor state in one step; the held groups are tried again, and the donor gets a DIGEST. -/
def execRejoinSwitch (d q obj : Nat) (s : State) : Host.Outcome State Fault Refusal :=
  .next (match s.readObj d q obj with
    | (s1, .none) => s1
    | (s1, some (o, g)) =>
      let r := s1.repl d q obj o
      match r.shadow with
      | .none => s1
      | some x =>
        if !r.behind x then s1.setRepl d { r with shadow := Option.none }
        else
          let r1 := s1.switched d r x
          let (s2, r2) := s1.drainHeld d o r1 (r1.held.length + 1)
          let s3 := s2.setRepl d r2
          let v := s3.view d q o.group g
          let b := g.mem.idxOf x.sender
          (s3.setView d { v with asked := v.asked.filter (· ≠ b) ++ [b] }).sendDigest d q o.group g x.sender)

/-- RESET_REJOIN (R94): after T_absent, a die that lost its state goes on from the numbers that it has heard of, and sends
the first member it heard from its DIGEST, which brings DONOR. -/
def execResetRejoin (d q g : Nat) (s : State) : Host.Outcome State Fault Refusal :=
  .next (match s.readGroup d q g with
    | (s1, .none) => s1
    | (s1, some gd) =>
      let s1 := s1.useGroup d q g gd
      let v := s1.view d q g gd
      if !v.lost then s1
      else
        let me := s.contrib d
        let s0 := s1.setView d { v with lost := false, first := Option.none }
        let (s2, os) := (s0.setDie d { s0.dieAt d with gone := (s0.dieAt d).gone.filter (· != (q, g)) }).declared d q g
        let s3 := os.foldl (fun s (i, o) =>
          let r := s.repl d q i o
          s.setRepl d { r with next := max r.next (gd.slots.foldl (fun a m => max a (r.rowOf m me)) 0 + 1) }) s2
        match v.first with
        | some c =>
          let b := gd.mem.idxOf c
          let w := s3.view d q g gd
          (s3.setView d { w with asked := w.asked.filter (· ≠ b) ++ [b] }).sendDigest d q g gd c
        | .none => s3)

/-! ## Instructions -/

/-- The object that a reference word names, with its replica (R345, R346): XLATE where it fails. -/
def State.refObj (s : State) (w : Word) : State × Option (Nat × ObjD × GrpD × Replica) :=
  if bf w 56 8 ≠ 0 then (s, .none)
  else
    let obj := bf w 36 20
    match s.readObj s.dieNo s.thr.part obj with
    | (s1, some (o, g)) =>
      let s2 := s1.useGroup s.dieNo s.thr.part o.group g
      (s2, some (obj, o, g, s2.repl s.dieNo s.thr.part obj o))
    | (s1, .none) => (s1, .none)

/-- IDX of a reference word (R345). -/
def refIdx (w : Word) : Nat := bf w 0 36

/-- A die that lost its state contributes nothing while it collects digests (R94). -/
def State.joinHeld (s : State) (g : GrpD) (o : ObjD) : Bool := (s.view s.dieNo s.thr.part o.group g).lost

/-- A scalar result of a replica instruction, with status bits. -/
def State.joinRet (s : State) (i : Instr) (x : GReg) (v : Word) (fl : Nat) : State :=
  s.long i 0#64 (.ret [.scalar x.toNat v] (BitVec.ofNat 8 fl)) (some v) none false

/-- The patterns that a contribution takes: elements of a tile, or one scalar (R350). -/
def State.contribSrc (s : State) (o : ObjD) (w : GReg) (n : Nat) (scalar : Bool) : List Nat :=
  let z := dtSize o.fmt
  if scalar then [(s.rd w).toNat % 2 ^ (8 * z)]
  else
    let bs := (s.tile w.toNat).all
    (List.range n).map fun j => numLE ((bs.drop (j * z)).take z)

/-- radd, rmax and rmean (R349, R350); like every access to a replica (R348) they wait for an earlier acquire (R241), and a seal that a contribution
which then waits has made stands (R422). -/
def State.contribute (s : State) (i : Instr) (typ : Nat) (x y w : GReg) (n1 : Nat) (scalar : Bool) (cnt : Nat) : State :=
  let ref := s.rd y
  if !s.thr.acquired s.thr.seqNo then s.park false
  else match s.refObj ref with
  | (s1, .none) => s1.trap cXLATE 0#64
  | (s1, some (_, o, g, r)) =>
    let n := n1 + 1
    let e := refIdx ref
    if o.typ ≠ typ ∨ o.n < e + n ∨ 4096 / dtSize o.fmt < n ∨ (typ = 5 ∧ (cnt = 0 ∨ 2 ^ 24 < cnt)) ∨ r.spent then s1.trap cFMT 0#64
    else if s1.joinHeld g o then s1.parkKept false
    else
      let ts := ((List.range n).map fun j => (e + j) / o.perTile).eraseDups
      match s1.room s.dieNo o r ts with
      | (s2, r2, room) =>
        if r2.spent then s2.trap cFMT 0#64
        else if !room then s2.parkKept false
        else
        let c := s.contrib s.dieNo
        let xs := s.contribSrc o w n scalar
        let r3 := o.contribute c e cnt xs r2
        let clip := (o.contribute c e cnt xs { r2 with opened := r2.opened.map fun t => { t with clip := false } }).opened.any (·.clip)
        let s3 := s2.setRepl s.dieNo r3
        let s4 := if 65536 ≤ r3.opened.length then (s3.seal s.dieNo r3).1 else s3
        s4.joinRet i x (W r2.next) (if clip then flCLIP else 0)

/-- RADD. -/
def execRadd (la : BitVec 4) (x y w : GReg) (n1 : BitVec 13) (sc : Bool) (s : State) :=
  s.run (.radd la x y w n1 sc) fun s => s.contribute (.radd la x y w n1 sc) 1 x y w n1.toNat sc 0

/-- RMAX. -/
def execRmax (la : BitVec 4) (x y w : GReg) (n1 : BitVec 13) (sc : Bool) (s : State) :=
  s.run (.rmax la x y w n1 sc) fun s => s.contribute (.rmax la x y w n1 sc) 2 x y w n1.toNat sc 0

/-- RMEAN. -/
def execRmean (la : BitVec 4) (x y z w : GReg) (n1 : BitVec 13) (sc : Bool) (s : State) :=
  s.run (.rmean la x y z w n1 sc) fun s => s.contribute (.rmean la x y z w n1 sc) 5 x y w n1.toNat sc (s.rd z).toNat

/-- RLWW (R351). -/
def execRlww (la : BitVec 4) (x y z w : GReg) (expl : Bool) (s : State) :=
  s.run (.rlww la x y z w expl) fun s =>
    let ref := s.rd y
    if !s.thr.acquired s.thr.seqNo then s.park false
    else match s.refObj ref with
    | (s1, .none) => s1.trap cXLATE 0#64
    | (s1, some (obj, o, g, r)) =>
      let t := refIdx ref
      if o.typ ≠ 3 ∨ o.tiles ≤ t ∨ r.spent then s1.trap cFMT 0#64
      else if s1.joinHeld g o then s1.parkKept false
      else match s1.room s.dieNo o r [t] with
      | (s2, r2, room) =>
        if r2.spent then s2.trap cFMT 0#64
        else if !room then s2.parkKept false
        else
        let d := s.dieNo
        let s3 := s2.hlcUpdate d (if expl then s.rd z else 0#64)
        let stamp := if expl then s.rd z else s3.hlc d
        let new : DeltaTile := { o.tile0 obj (s.contrib d) t with hlc := stamp, data := ((s.tile w.toNat).all).take (o.count t * o.elSize) }
        let keep : Bool := r2.opened.any fun u => u.tile == t && decide (stamp.toNat < u.hlc.toNat)
        let r3 : Replica := if keep then r2 else { r2 with opened := r2.opened.filter (fun u => u.tile != t) ++ [new] }
        let s4 := s3.setRepl d r3
        let s5 := if 65536 ≤ r3.opened.length then (s4.seal d r3).1 else s4
        s5.joinRet (.rlww la x y z w expl) x stamp 0

/-- The page operand of an AWSET instruction (R346): 40 bits. -/
def pageBad (p : Word) : Bool := bf p 40 24 != 0

/-- RSADD (R352). -/
def execRsadd (la : BitVec 4) (x y z : GReg) (s : State) :=
  s.run (.rsadd la x y z) fun s =>
    let ref := s.rd y
    if !s.thr.acquired s.thr.seqNo then s.park false
    else match s.refObj ref with
    | (s1, .none) => s1.trap cXLATE 0#64
    | (s1, some (_, o, g, r)) =>
      if o.typ ≠ 4 ∨ refIdx ref ≠ 0 ∨ pageBad (s.rd z) ∨ r.spent ∨ 2 ^ 20 ≤ (r.entries r.log).length + addsOf r.held then s1.trap cFMT 0#64
      else if s1.joinHeld g o ∨ 4096 * o.plog < r.inUse + tileCost 16 then s1.parkKept false
      else
        let k := r.next
        let (s2, r2) := s1.sealSet s.dieNo r o (setRecBytes (s.rd z).toNat 1 (s.contrib s.dieNo) k)
        (s2.settleHeld s.dieNo o r2).joinRet (.rsadd la x y z) x (W k) 0

/-- Bytes of LOG of the groups that remove `n` dots, 256 records to a group (R352, R422). -/
def remCost (n : Nat) : Nat := n / 256 * tileCost 4096 + (if n % 256 = 0 then 0 else tileCost (16 * (n % 256)))

/-- RSREM (R352). -/
def execRsrem (la : BitVec 4) (x y z : GReg) (s : State) :=
  s.run (.rsrem la x y z) fun s =>
    let ref := s.rd y
    if !s.thr.acquired s.thr.seqNo then s.park false
    else match s.refObj ref with
    | (s1, .none) => s1.trap cXLATE 0#64
    | (s1, some (_, o, g, r)) =>
      let ds := sortBy (fun a b => decide (a.2.1 * 2 ^ 32 + a.2.2 ≤ b.2.1 * 2 ^ 32 + b.2.2)) ((r.entries r.log).filter fun e => e.1 == (s.rd z).toNat)
      let ng := (ds.length + 255) / 256
      if o.typ ≠ 4 ∨ refIdx ref ≠ 0 ∨ pageBad (s.rd z) ∨ r.spent ∨ 0xFFFFFFFF < r.next + ng then s1.trap cFMT 0#64
      else if s1.joinHeld g o ∨ (ng ≠ 0 ∧ 4096 * o.plog < r.inUse + min (remCost ds.length) (4096 * o.plog)) then s1.parkKept false
      else
        let (s2, r2) := (List.range ng).foldl (fun (s', r') i =>
          State.sealSet s' s.dieNo r' o (((ds.drop (256 * i)).take 256).flatMap fun e => setRecBytes e.1 2 e.2.1 e.2.2)) (s1, r)
        (s2.settleHeld s.dieNo o r2).joinRet (.rsrem la x y z) x (W (if ng = 0 then 0 else r2.next - 1)) 0

/-- RSHAS (R354). -/
def execRshas (la : BitVec 4) (x y z : GReg) (stable : Bool) (s : State) :=
  s.run (.rshas la x y z stable) fun s =>
    let ref := s.rd y
    if !s.thr.acquired s.thr.seqNo then s.park false
    else match s.refObj ref with
    | (s1, .none) => s1.trap cXLATE 0#64
    | (s1, some (_, o, _, r)) =>
      if o.typ ≠ 4 ∨ refIdx ref ≠ 0 ∨ pageBad (s.rd z) then s1.trap cFMT 0#64
      else
        let b := (r.entries (r.groupsFor stable (s.contrib s.dieNo))).any fun e => e.1 == (s.rd z).toNat
        s1.joinRet (.rshas la x y z stable) x (W b.toNat) 0

/-- RREAD (R353). -/
def execRread (la : BitVec 4) (x y : GReg) (n1 : BitVec 13) (sc stable : Bool) (rm : BitVec 3) (cnt : Bool) (s : State) :=
  s.run (.rread la x y n1 sc stable rm cnt) fun s =>
    let i : Instr := .rread la x y n1 sc stable rm cnt
    let ref := s.rd y
    if !s.thr.acquired s.thr.seqNo then s.park false
    else match s.refObj ref with
    | (s1, .none) => s1.trap cXLATE 0#64
    | (s1, some (_, o, _, r)) =>
      let n := n1.toNat + 1
      let e := refIdx ref
      let z := dtSize o.fmt
      if o.typ = 4 ∨ o.n < e + n ∨ 4096 / z < n ∨ (rm ≠ 0#3 ∧ !o.isSum) ∨ (cnt ∧ (!sc ∨ o.typ ≠ 5)) then s1.trap cFMT 0#64
      else
        let gs := r.groupsFor stable (s.contrib s.dieNo)
        if cnt then
          let t := e / o.perTile
          let v := min (r.countOf gs t) (2 ^ 32 - 1)
          s1.joinRet i x (W v) (if r.clipOf gs t then flCLIP else 0)
        else
          let vs := (List.range n).map fun j => o.read r gs (e + j) rm.toNat (rng (s.rdN 60) ref s.thr.lane j).toNat
          let fl := vs.foldl (fun a v => a ||| v.2) 0
          if sc then s1.joinRet i x (W ((vs.headD (0, 0)).1)) fl
          else
            let bs := vs.flatMap fun v => bytesLE v.1 z
            s1.long i 0#64 (.ret [.tile (s.tphys x.toNat) (sparse 0 bs)] (BitVec.ofNat 8 fl)) none none false

/-- RFRONT (R355): an entry of a contributor that is not a member reads 0. -/
def execRfront (la : BitVec 4) (x y z : GReg) (sel : BitVec 2) (s : State) :=
  s.run (.rfront la x y z sel) fun s =>
    let ref := s.rd y
    if !s.thr.acquired s.thr.seqNo then s.park false
    else match s.refObj ref with
    | (s1, .none) => s1.trap cXLATE 0#64
    | (s1, some (_, _, g, r)) =>
      let c := (s.rd z).toNat
      if refIdx ref ≠ 0 ∨ (sel.toNat ≤ 1 ∧ 2 ^ 14 ≤ c) then s1.trap cFMT 0#64
      else
        let v := match sel.toNat with
          | 0 => if g.mem.contains c then r.frontOf c else 0
          | 1 => if g.mem.contains c then r.seenOf c else 0
          | 2 => r.next
          | _ => s.contrib s.dieNo
        s1.joinRet (.rfront la x y z sel) x (W v) 0

/-- RSTAB (R356): a wait is an issue that is tried again. -/
def execRstab (la : BitVec 4) (x y z w : GReg) (poll : Bool) (s : State) :=
  s.run (.rstab la x y z w poll) fun s =>
    let ref := s.rd y
    if !s.thr.acquired s.thr.seqNo then s.park false
    else match s.refObj ref with
    | (s1, .none) => s1.trap cXLATE 0#64
    | (s1, some (_, _, g, r)) =>
      let k := (s.rd z).toNat
      let c := (s.rd w).toNat
      if refIdx ref ≠ 0 ∨ 2 ^ 32 ≤ k ∨ 2 ^ 14 ≤ c ∨ !g.mem.contains c then s1.trap cFMT 0#64
      else if poll ∨ k ≤ r.frontOf c then s1.joinRet (.rstab la x y z w poll) x (W (r.frontOf c)) 0
      else s1.parkKept true

/-- RHLC (R357). -/
def execRhlc (la : BitVec 4) (x z : GReg) (op : BitVec 2) (s : State) :=
  s.run (.rhlc la x z op) fun s =>
    let d := s.dieNo
    let s1 := match op.toNat with
      | 0 => s
      | 1 => s.hlcUpdate d 0#64
      | _ => s.hlcUpdate d (s.rd z)
    s1.joinRet (.rhlc la x z op) x (s1.hlc d) 0

end Sys2Proof.Machine
end

