-- ==== Sys2Proof/Machine/Copy.lean ====
section
/-! DEFINITION. Copy engines (spec/08 R152 to R168) and the instructions that submit to them and read their watermark (spec/15
R334, R335). -/
namespace Sys2Proof.Machine

/-! ## Channels -/

/-- A channel that has run nothing. -/
def CopyCh.init : CopyCh :=
  { lo := 0#64, hi := 0#64, shGid := none, gid := none, recAddr := 0#64, words := [], begun := false, back := false, sentEls := 0, landed := [],
    flying := [], bytes := 0, clip := false, poison := false, aborting := false, failing := none }

/-- Channel `c` of die `d`. -/
def State.chan (s : State) (d c : Nat) : CopyCh := tget (fun _ => CopyCh.init) s.chans (32 * d + c)

/-- The state with a channel set. -/
def State.setChan (s : State) (d c : Nat) (x : CopyCh) : State := { s with chans := tput s.chans (32 * d + c) x }

/-- CCTL.PART. -/
def State.chPart (s : State) (d c : Nat) : Nat := s.fld 9 d (0x40 * c) 9 3
/-- CCTL.EN. -/
def State.chEn (s : State) (d c : Nat) : Bool := s.fld 9 d (0x40 * c) 0 1 == 1
/-- CSTAT.STATE: 0 idle, 1 running, 2 halted. -/
def State.chState (s : State) (d c : Nat) : Nat := s.fld 9 d (0x40 * c + 0x18) 0 2
/-- CSTAT.SHFULL. -/
def State.chFull (s : State) (d c : Nat) : Bool := s.fld 9 d (0x40 * c + 0x18) 3 1 == 1

/-- CWM set to the limit of the active range, which releases every stalled access (R165). -/
def State.chRelease (s : State) (d c : Nat) : State :=
  let x := s.chan d c
  (s.setReg 9 d (0x40 * c + 0x20) (if x.lo = 0#64 ∧ x.hi = 0#64 then s.reg 9 d (0x40 * c + 0x20) else x.hi)).setChan d c { x with lo := 0#64, hi := 0#64 }

/-- The shadow set promoted: it becomes active and its chain starts (R153, R165). -/
def State.promote (s : State) (d c : Nat) : State :=
  if s.chFull d c && s.chEn d c && s.chState d c == 0 then
    let o := 0x40 * c
    let s1 := s.chRelease d c
    let a := s1.reg 9 d (o + 8)
    let lo := s1.reg 9 d (o + 0x28)
    let hi := s1.reg 9 d (o + 0x30)
    let x := { CopyCh.init with lo := lo, hi := hi, gid := (s1.chan d c).shGid, recAddr := W (bf a 8 49 * 256) }
    let s2 := s1.setChan d c x
    let s3 := ((s2.setReg 9 d (o + 0x10) (W (bf a 8 49 * 256 + 1))).setFld 9 d (o + 8) 0 1 0).setReg 9 d (o + 0x20) lo
    (s3.setFld 9 d (o + 0x18) 3 1 0).setFld 9 d (o + 0x18) 0 3 1
  else s

/-- CHEAD_WRITE (R153, R154, R167): the shadow set filled; a channel that is enabled and idle promotes it at once. -/
def execCheadWrite (d c : Nat) (v : Word) (s : State) : Host.Outcome State Fault Refusal :=
  .next (
    let o := 0x40 * c
    if writeBad 9 (o + 8) v then s.refuse 9 d (o + 8)
    else if s.chFull d c then (s.recordRefusal 9 d (o + 8)).setFld 9 d (o + 0x18) 4 1 1
    else
      let s1 := s.setReg 9 d (o + 8) v
      if v.getLsbD 0 then
        ((s1.setFld 9 d (o + 0x18) 3 1 1).setChan d c { s1.chan d c with shGid := none }).promote d c
      else s1)

/-! ## Records -/

/-- Word `i` of the record in progress. -/
def CopyCh.w (x : CopyCh) (i : Nat) : Word := x.words.getD i 0#64
/-- CTRL. -/
def CopyCh.ctrl (x : CopyCh) : Word := x.w 0
/-- KIND. -/
def cpKind (c : Word) : Nat := bf c 60 2
/-- RED. -/
def cpRed (c : Word) : Nat := bf c 57 3
/-- WMODE. -/
def cpMode (c : Word) : Nat := bf c 54 3
/-- DTYPE. -/
def cpDt (c : Word) : Nat := bf c 50 4
/-- Bits of a lane's value. -/
def cpW (c : Word) : Nat := wfxW (bf c 48 2)
/-- BEXP. -/
def cpBexp (c : Word) : Int := sInt 16 (bf c 16 16)
/-- Dimensions. -/
def cpDims (c : Word) : Nat := bf c 45 3 + 1

/-- Bytes of a source element (R156). -/
def cpSrcSize (c : Word) : Nat :=
  if cpRed c = 0 then 2 ^ bf c 40 2 else if cpMode c = 2 ∨ cpMode c = 3 then laneSize (cpW c) else dtSize (cpDt c)

/-- Bytes of a destination element (R156). -/
def cpDstSize (c : Word) : Nat :=
  if cpRed c = 0 then 2 ^ bf c 40 2 else if cpMode c = 1 ∨ cpMode c = 2 then laneSize (cpW c) else dtSize (cpDt c)

/-- Extent `k` of a record (R155). -/
def recExt (ws : List Word) (k : Nat) : Nat := bf (ws.getD (6 + k / 2) 0#64) (32 * (k % 2)) 32

/-- Source stride `k`, 1 to 7. -/
def recSs (ws : List Word) (k : Nat) : Int := sInt 64 (ws.getD (9 + k) 0#64).toNat

/-- Destination stride `k`. -/
def recDs (ws : List Word) (k : Nat) : Int := sInt 64 (ws.getD (16 + k) 0#64).toNat

/-- Elements that a record moves: 0 where an extent is 0. -/
def recCount (ws : List Word) : Nat :=
  (List.range (cpDims (ws.getD 0 0#64))).foldl (fun n k => n * recExt ws k) 1

/-- Bytes that a record moves. -/
def recBytes (ws : List Word) : Nat := recCount ws * cpDstSize (ws.getD 0 0#64)

/-- The address of element `i`, dimension 0 varying fastest (R156). -/
def recAt (ws : List Word) (base : Word) (size : Nat) (stride : Nat → Int) (i : Nat) : Nat :=
  let n := cpDims (ws.getD 0 0#64)
  let (off, _) := (List.range n).foldl (fun (acc : Int × Nat) k =>
    let e := max (recExt ws k) 1
    let j := acc.2 % e
    (acc.1 + j * (if k = 0 then (size : Int) else stride k), acc.2 / e)) ((0 : Int), i)
  (base + BitVec.ofInt 64 off).toNat

/-- The source address of element `i`. -/
def recSrc (ws : List Word) (i : Nat) : Nat := recAt ws (ws.getD 2 0#64) (cpSrcSize (ws.getD 0 0#64)) (recSs ws) i

/-- The destination address of element `i`. -/
def recDst (ws : List Word) (i : Nat) : Nat := recAt ws (ws.getD 3 0#64) (cpDstSize (ws.getD 0 0#64)) (recDs ws) i

/-- A record's destination is one ascending contiguous run (R165). -/
def recRun (ws : List Word) : Bool :=
  let c := ws.getD 0 0#64
  ((List.range (cpDims c)).foldl (fun (acc : Bool × Nat) k =>
    let e := recExt ws k
    ((acc.1 && (k == 0 || e == 1 || recDs ws k == (acc.2 : Int))), acc.2 * e)) (true, cpDstSize c)).1

/-- A record's fields lie within R155 and R156, and a watermark record within the active range (R165). -/
def CopyCh.fieldsOk (x : CopyCh) : Bool :=
  let ws := x.words
  let c := x.ctrl
  let nd := cpDims c
  let red := cpRed c
  let compl := x.w 4
  let nx := x.w 1
  bf c 42 3 == 0 && bf c 6 10 == 0 && decide (red ≤ 6) && decide (cpMode c ≤ 3) && decide (cpDt c ≤ 7) && bf c 40 2 == (if red = 0 then bf c 40 2 else 0) &&
    (red != 0 || cpMode c == 0) && (cpMode c == 0 || red == 1) && (red == 0 || redOk red (cpDt c)) &&
    decide (-1100 ≤ cpBexp c) && decide (cpBexp c ≤ 1100) && bf nx 0 8 == 0 && bf nx 57 7 == 0 &&
    (match cpKind c with
     | 1 => bf compl 0 44 == 0
     | 2 => bf compl 0 4 == 0 && bf compl 57 7 == 0
     | _ => compl == 0#64) &&
    (List.range 8).all (fun k => decide (recExt ws k ≤ 2 ^ 31) && (decide (k < nd) || recExt ws k == 0)) &&
    (List.range 7).all (fun j =>
      let k := j + 1
      if k < nd then recSs ws k % (cpSrcSize c : Int) == 0 && recDs ws k % (cpDstSize c : Int) == 0 else recSs ws k == 0 && recDs ws k == 0) &&
    (ws.drop 24).all (· == 0#64) && decide (recBytes ws ≤ 2 ^ 40) &&
    (cpKind c != 0 || recCount ws == 0 ||
      (recRun ws && decide (x.lo.toNat ≤ (x.w 3).toNat) && decide ((x.w 3).toNat + recBytes ws ≤ x.hi.toNat)))

/-! ## The end of a record -/

/-- STATUS, BYTES and OWN = 0 written back to the record (R158, R162): nothing where an address fails. -/
def State.writeBack (s : State) (d c code : Nat) : Option State :=
  let x := s.chan d c
  let q := s.chPart d c
  let w := bset (bset x.ctrl 63 1 0) 32 8 (code + 16 * x.clip.toNat)
  match (s.charge d q x.recAddr.toNat 64).engWrite q (x.recAddr.toNat + 40) 8 x.bytes with
  | .error _ => none
  | .ok s1 => match s1.engWrite q x.recAddr.toNat 8 w.toNat with
    | .error _ => none
    | .ok s2 => some s2

/-- A COPY event record (R163): to the die of the captured gid, or to the channel's die. -/
def State.copyEvent (s : State) (d c code : Nat) : State :=
  let x := s.chan d c
  match x.gid with
  | some g => s.pushEvent (bf g 50 3) 0x10 (code + 16 * x.clip.toNat) (x.bytes % 2 ^ 32) g
  | none => s.devEvent d 0x10 (code + 16 * x.clip.toNat) (x.bytes % 2 ^ 32)

/-- The die that takes the COPY records of a channel has room for one (R141). -/
def State.copyRoom (s : State) (d c : Nat) : Bool :=
  match (s.chan d c).gid with
  | some g => s.evRoom (bf g 50 3)
  | none => s.evRoom d

/-- A record that fails halts its channel (R162): status written back where it can be, a COPY event record, CWM at the
limit of the range. While the event queue is full the halt waits (R141). -/
def State.copyFail (s : State) (d c code : Nat) : State :=
  if !s.copyRoom d c then s.setChan d c { s.chan d c with failing := some code }
  else
  let o := 0x40 * c
  let s1 := if (s.chan d c).back then s else (s.writeBack d c code).getD s
  let s2 := s1.copyEvent d c code
  let s3 := (s2.setFld 9 d (o + 0x18) 8 8 (code + 16 * (s2.chan d c).clip.toNat)).setFld 9 d (o + 0x18) 0 3 2
  let s4 := (s3.setFld 9 d (o + 0x10) 0 1 0).chRelease d c
  s4.setChan d c { s4.chan d c with begun := false, back := false, words := [], sentEls := 0, landed := [], flying := [], aborting := false, failing := none }

/-- The status code of a failed access (R162); a poisoned response to a write is UNREACH (DESIGN CHOICE, log 34). -/
def copyCode (cause : Nat) : Nat := if cause = cXLATE then 3 else if cause = cPERM then 4 else 5

/-- STATUS, BYTES and OWN = 0 once every source byte of the running record has been read, and on a remote destination is held in the
retransmit buffer (R158). -/
def State.sourceRead (s : State) (d c : Nat) : State :=
  let x := s.chan d c
  if !x.begun ∨ x.back ∨ x.failing.isSome ∨ x.sentEls < recCount x.words then s
  else match s.writeBack d c x.poison.toNat with
    | none => s.copyFail d c 3
    | some s1 => s1.setChan d c { x with back := true }

/-- The end of the longest landed prefix from an address (R165). -/
def prefixEnd (l : List (Nat × Nat)) : Nat → Nat → Nat
  | 0, a => a
  | n + 1, a => match l.find? fun e => decide (e.1 ≤ a) && decide (a < e.1 + e.2) with
    | some e => prefixEnd l n (e.1 + e.2)
    | none => a

/-- Bytes of a watermark record landed: CWM advances over the filled prefix (R165). -/
def State.waterLand (s : State) (d c va n : Nat) : State :=
  let x := s.chan d c
  let l := x.landed ++ [(va, n)]
  (s.setChan d c { x with landed := l }).setReg 9 d (0x40 * c + 0x20) (W (prefixEnd l (l.length + 1) x.lo.toNat))

/-- Bytes of the running record landed on device `dev` and verified (R163): the watermark moves, or the mailbox that COMPL names counts them, at
the receiver where it is there; that of another device is told by an AMO without descriptor whose second operand is 2^64 − 2 (DESIGN CHOICE,
log 69). -/
def State.copyLand (s : State) (d c dev va n : Nat) : State :=
  let x := s.chan d c
  let compl := x.w 4
  match cpKind x.ctrl with
  | 0 => s.waterLand d c va n
  | 1 =>
    if bf compl 53 11 = s.devId then s.mboxAdd (64 * bf compl 50 3 + bf compl 44 6) (bf x.ctrl 0 6) n
    else if bf compl 53 11 = dev then s
    else s.emit { s.blank 0x14 1 (bf compl 53 11) true with
      sdie := BitVec.ofNat 3 d, ddie := BitVec.ofNat 3 (bf compl 50 3), ks := BitVec.ofNat 45 (64 * bf compl 44 6 + bf x.ctrl 0 6),
      pay := [W n, BitVec.allOnes 64 - 1#64] }
  | _ => s

/-- COPY_RECORD_READ (R155, R158, R162): the next record read; begun, waited for while OWN = 0, or refused. -/
def State.recordRead (s : State) (d c : Nat) : State :=
  let x := s.chan d c
  let o := 0x40 * c
  if s.chState d c ≠ 1 ∨ x.begun then s
  else if let some code := x.failing then s.copyFail d c code
  else match (s.charge d (s.chPart d c) x.recAddr.toNat 256).engWords (s.chPart d c) x.recAddr.toNat 32 with
  | (s1, .error (e, _)) =>
    if e = cPOISON then s1.setFld 9 d (o + 0x18) 2 1 1 else s1.copyFail d c (copyCode e)
  | (s1, .ok ws) =>
    if !(ws.getD 0 0#64).getLsbD 63 then s1.setFld 9 d (o + 0x18) 2 1 1
    else
      let y := { x with words := ws, begun := true, back := false, sentEls := 0, bytes := 0, clip := false, poison := false, flying := [] }
      let s2 := (s1.setChan d c y).setFld 9 d (o + 0x18) 2 1 0
      if x.aborting then s2.copyFail d c 6
      else if !y.fieldsOk then s2.copyFail d c 2
      else s2

/-- COPY_RECORD_READ. DEDUCED, log 34. -/
def execCopyRecordRead (d c : Nat) (s : State) : Host.Outcome State Fault Refusal := .next (s.recordRead d c)

/-- COPY_OWN_REREAD: a channel that waits on OWN = 0 rereads its record (R158). -/
def execCopyOwnReread (d c : Nat) (s : State) : Host.Outcome State Fault Refusal :=
  .next (if s.fld 9 d (0x40 * c + 0x18) 2 1 = 1 then s.recordRead d c else s)

/-! ## Packets -/

/-- The state after the window slot of an address that failed translation was read (R70). -/
def State.lineSeen (s : State) (q e va : Nat) : State := if e = cXLATE then s.slotSeen q va else s

/-- A failed access of an engine: its cause, with the state that what it has done leaves. -/
abbrev EngErr := State × Nat

/-- The bytes that an engine reads at once at an address: up to the end of the line, in scratch up to that of the word (R261). -/
def engStep (va n : Nat) : Nat := if va / 2 ^ 48 = 0xFF then min n (8 - va % 8) else min n (64 - va % 64)

/-- A range read by an engine, line by line: the state, the value as one number, and whether a line was poisoned, which
reads as zero (R162); or the failure. What lies on another device is read there (State.farRead). -/
def State.engRange (s : State) (q va : Nat) : Nat → Nat → Except EngErr (State × Nat × Bool)
  | 0, _ => .ok (s, 0, false)
  | _, 0 => .ok (s, 0, false)
  | f + 1, n =>
    let k := engStep va n
    match s.engLoc q va k rRD with
    | .error c => .error (s.lineSeen q c va, c)
    | .ok l =>
      let r := (s.slotSeen q va).engReadAt q l k
      match (match l with | .peer _ _ _ => trapOfCause false r.bad | _ => none) with
      | some c => .error (r.s, c)
      | none => match r.s.engRange q (va + k) f (n - k) with
        | .error e => .error e
        | .ok (s', v, b) => .ok (s', (if r.bad = 0 then r.v else 0) + v * 2 ^ (8 * k), b || r.bad != 0)

/-- The element that a source element sends (R157): entered as a lane, converted, or as it is. -/
def cpSend (c : Word) (a : Nat) : Nat × Bool :=
  if cpRed c = 0 then (a, false)
  else match cpMode c with
  | 1 => let l := laneEnter (cpW c) (cpBexp c) (cpDt c) a; (l.num (cpW c), l.fl / 8 % 2 == 1)
  | 3 => laneConvert (cpBexp c) (cpDt c) (laneOf (cpW c) a)
  | _ => (a, false)

/-- The new destination element from the old one and the element sent (R157). -/
def cpJoin (c : Word) (b a : Nat) : Nat × Bool :=
  if cpRed c = 0 ∨ cpMode c = 3 then (a, false)
  else if cpMode c = 0 then redOp (cpRed c) (cpDt c) b a
  else
    let l := laneAdd (cpW c) (laneOf (cpW c) b) (laneOf (cpW c) a)
    (l.num (cpW c), l.fl / 8 % 2 == 1)

/-- A record reads its old destination (R157). -/
def cpReduces (c : Word) : Bool := cpRed c != 0 && cpMode c != 3

/-- A join at the destination may clip (R157). No packet tells the source of a remote record whether one did, so that CLIP is then a free value
(DESIGN CHOICE, log 34). -/
def cpClips (c : Word) : Bool := cpReduces c && cpRed c == 1 && (cpMode c != 0 || dtInt (cpDt c))

/-- The elements of the next packet of a record: those from `i` on whose destinations follow one another without a gap
within 32 lines (R161). -/
def runLen (ws : List Word) (i first : Nat) : Nat → Nat → Nat
  | 0, k => k
  | f + 1, k =>
    let sz := cpDstSize (ws.getD 0 0#64)
    if i + k < recCount ws ∧ (k = 0 ∨ (recDst ws (i + k) = first + k * sz ∧ (first + (k + 1) * sz - 1) / 64 < first / 64 + 32)) then
      runLen ws i first f (k + 1)
    else k

/-- The elements of a run read and prepared, as one number, with the poison and clip marks. -/
def State.readRun (s : State) (q : Nat) (ws : List Word) (i : Nat) : Nat → Except EngErr (State × Nat × Bool × Bool)
  | 0 => .ok (s, 0, false, false)
  | k + 1 =>
    let c := ws.getD 0 0#64
    match s.engRange q (recSrc ws i) 64 (cpSrcSize c) with
    | .error e => .error e
    | .ok (s1, a, p) =>
      let (v, cl) := cpSend c a
      match s1.readRun q ws (i + 1) k with
      | .error e => .error e
      | .ok (s2, r, p', cl') => .ok (s2, v + r * 2 ^ (8 * cpDstSize c), p || p', cl || cl')

/-- A run of bytes written line by line: a whole line of HBM takes a fresh tag, a part of one is masked (R33, R160); or the failure, with the bytes
that have landed before it (R162). -/
def State.putRun (s : State) (q va v : Nat) : Nat → Nat → Except (EngErr × Nat) State
  | 0, _ => .ok s
  | _, 0 => .ok s
  | f + 1, n =>
    let k := min n (64 - va % 64)
    match s.engLoc q va k rWR with
    | .error c => .error ((s.lineSeen q c va, c), 0)
    | .ok l =>
      match (if k = 64 then s.lineWrite q l (BitVec.ofNat 512 v) else s.memWrite q l k (v % 2 ^ (8 * k))) with
      | (s1, 0) => (s1.putRun q (va + k) (v / 2 ^ (8 * k)) f (n - k)).mapError fun e => (e.1, e.2 + k)
      | (s1, _) => .error ((s1, cPOISON), 0)

/-- The elements of a run joined with the old destination (R157): the new bytes and the clip mark. -/
def joinRun (c : Word) (old new : Nat) : Nat → Nat × Bool
  | 0 => (0, false)
  | k + 1 =>
    let m := 2 ^ (8 * cpDstSize c)
    let (v, cl) := cpJoin c (old % m) (new % m)
    let (r, cl') := joinRun c (old / m) (new / m) k
    (v + r * m, cl || cl')

/-- A run joined and written at a virtual address of partition `q`; or the failure, with the bytes that have landed. -/
def State.landRun (s : State) (q : Nat) (c : Word) (va v k : Nat) : Except (EngErr × Nat) (State × Bool) :=
  let n := k * cpDstSize c
  if cpReduces c then
    match s.engRange q va 512 n with
    | .error e => .error (e, 0)
    | .ok (s1, old, _) =>
      let (w, cl) := joinRun c old v k
      (s1.putRun q va w 64 n).map fun s2 => (s2, cl)
  else (s.putRun q va v 64 n).map fun s1 => (s1, false)

/-- One byte into the reflected CRC-64 register (R161). -/
def crcByte (r : BitVec 64) (b : Byte) : BitVec 64 :=
  (List.range 8).foldl (fun r _ => if r.getLsbD 0 then (r >>> 1) ^^^ 0xC96C5795D7870F42#64 else r >>> 1) (r ^^^ b.zeroExtend 64)

/-- TAG (R161): the CRC-64 of flit 0 bytes 0 to 55, the mask flits and the data flits, the path fields as zero. -/
def copyTag (h : Packet) (ctrl compl : Word) (masks data : List Word) : Word :=
  let h0 := { h with via := 0#11, nm := false, ph := false, budget := 0#3, hop := 0#3 }
  let d := match h.desc with | some x => descWords x | none => [0#64, 0#64, 0#64]
  ((wordBytes (hdrWords h0 ++ d ++ [ctrl, compl] ++ masks ++ data)).foldl crcByte (BitVec.allOnes 64)) ^^^ BitVec.allOnes 64

/-- A COPYDATA packet of `n` bytes from byte `lo` of its first line on (R161); its descriptor names a window and an offset. -/
def State.dataPkt (s : State) (d dev die rw off lo : Nat) (ctrl compl : Word) (v n : Nat) : Packet :=
  let nl := max 1 ((lo + n + 63) / 64)
  let body := v * 2 ^ (8 * lo)
  let data := (List.range (8 * nl)).map fun i => W (body / 2 ^ (64 * i))
  let nm := if lo = 0 ∧ n ≠ 0 ∧ n % 64 = 0 then 0 else (nl + 7) / 8
  let bm := (2 ^ n - 1) * 2 ^ lo
  let masks := (List.range (8 * nm)).map fun i => if i < nl then W (bm / 2 ^ (64 * i)) else 0#64
  let h : Packet := { s.blank 0x20 (1 + nm + nl) dev false with
    seq := (s.txOf dev false).next, sdie := BitVec.ofNat 3 d, ddie := BitVec.ofNat 3 die, ks := BitVec.ofNat 45 (nl - 1 + 64 * nm),
    desc := some { rwin := BitVec.ofNat 16 rw, group := BitVec.ofNat 16 (s.fld 3 0 8 16 16), offset := BitVec.ofNat 40 off,
                   sz := 0#2, acq := false, rel := false, sc := 0#2, op := 0#4, slot := 0#4, cid := 0#6, mask := 0#64, zeroOk := true } }
  { h with pay := [ctrl, compl, copyTag h ctrl compl masks data] ++ masks ++ data }

/-- The COPYDATA packet of a run of `n` bytes of a channel's record at an offset of a peer window. -/
def State.copyPkt (s : State) (d c dev rw off v n : Nat) : Packet :=
  let x := s.chan d c
  s.dataPkt d dev 0 rw (off / 64 * 64) (off % 64) (bset (bset x.ctrl 63 1 0) 32 8 0) (x.w 4) v n

/-- A channel has a packet of its running record to send. -/
def State.hasPacket (s : State) (d c : Nat) : Bool :=
  let x := s.chan d c
  s.chState d c == 1 && x.begun && x.failing.isNone && decide (x.sentEls < recCount x.words)

/-- The next packet of a channel waits for room on its stream (R58), a page that is moved or a stack that rehashes (R234, R44). -/
def State.packetStalls (s : State) (d c : Nat) : Bool :=
  let x := s.chan d c
  let q := s.chPart d c
  let ws := x.words
  let i := x.sentEls
  let va := recDst ws i
  let k := runLen ws i va 2048 0
  (match s.engLoc q va (min (k * cpDstSize x.ctrl) (64 - va % 64)) rWR with
   | .ok (.peer dev _ _) => s.noRoom d dev false 37
   | .ok _ => s.engStall q va
   | .error _ => false) || (List.range k).any fun j => s.engStall q (recSrc ws (i + j))

/-- Channel `k` of engine `e` has a packet that can go: a software channel of its running record, the internal channel (4) of the steps of the die's
collectives, which any of the engines takes in their order (R103, R152; DESIGN CHOICE, log 24). -/
def State.engReady (s : State) (d e k : Nat) : Bool :=
  if k < 4 then s.hasPacket d (4 * e + k) && !s.packetStalls d (4 * e + k)
  else match (s.dieAt d).steps with
    | [] => false
    | x :: _ => x.dest / 8 == s.devId || !s.noRoom d (x.dest / 8) false 37

/-- It is a channel's turn at its engine: of the channels that have a packet to send it comes first behind the one served last (R152). -/
def State.engTurn (s : State) (d e k : Nat) : Bool :=
  let last := tget (fun _ => 4) (s.dieAt d).served e
  (((List.range 5).map fun i => (last + 1 + i) % 5).find? fun k => s.engReady d e k) == some k

/-- A channel served by its engine. -/
def State.serve (s : State) (d e k : Nat) : State := s.setDie d { s.dieAt d with served := tput (s.dieAt d).served e k }

/-- COPY_PACKET_SEND (R152, R156 to R161): the next run of the running record's elements read, and written or sent. -/
def State.packetSend (s0 : State) (d c : Nat) : State :=
  let x := s0.chan d c
  let q := s0.chPart d c
  let ws := x.words
  if !s0.hasPacket d c then s0
  else if x.aborting then s0.copyFail d c 6
  else if !s0.engTurn d (c / 4) (c % 4) then s0
  else
    let s := s0.serve d (c / 4) (c % 4)
    let i := x.sentEls
    let va := recDst ws i
    let k := runLen ws i va 2048 0
    let n := k * cpDstSize x.ctrl
    match s.engLoc q va (min n (64 - va % 64)) rWR with
    | .error e => (s.lineSeen q e va).copyFail d c (copyCode e)
    | .ok l =>
      match s.readRun q ws i k with
      | .error (y, e) => y.copyFail d c (copyCode e)
      | .ok (s0, v, p, cl) =>
        let s1 := ((List.range k).foldl (fun y j => y.charge d q (recSrc ws (i + j)) (cpSrcSize x.ctrl)) s0).chargeRange d q va n
        let note := fun (y : State) (n : Nat) (cl : Bool) (fl : List (Nat × Nat × Nat × Nat)) =>
          let z := y.chan d c
          y.setChan d c { z with sentEls := i + k, bytes := z.bytes + n, clip := z.clip || cl, poison := z.poison || p, flying := z.flying ++ fl }
        match l with
        | .peer dev rw off =>
          match s1.peerLoc q va n rWR with
          | .error e => (s1.lineSeen q e va).copyFail d c (copyCode e)
          | .ok _ =>
            let pk := s1.copyPkt d c dev rw off v n
            let (fr, s2) := s1.fresh
            ((note (s2.emit pk) n (cl || (cpClips x.ctrl && fr.getLsbD 0)) [(dev, pk.seq.toNat, va, n)])).sourceRead d c
        | _ => match s1.landRun q x.ctrl va v k with
          | .error ((y, e), m) => (note y m cl []).copyFail d c (copyCode e)
          | .ok (s2, cl2) => ((note s2 n (cl || cl2) []).copyLand d c s2.devId va n).sourceRead d c

/-- The packets of a channel that the destination has acknowledged have landed (R58, R163, R165). -/
def State.copyAcked (s : State) (d c : Nat) : State :=
  let x := s.chan d c
  let held := fun (e : Nat × Nat × Nat × Nat) => ((s.txOf e.1 false).unacked ++ (s.txOf e.1 false).waiting).any fun p => p.seq.toNat == e.2.1
  let done := x.flying.filter fun e => !held e
  done.foldl (fun s e => s.copyLand d c e.1 e.2.2.1 e.2.2.2) (s.setChan d c { x with flying := x.flying.filter held })

/-- The chain of a channel ends: CWM at the limit, idle, and the shadow set promoted (R153, R165). -/
def State.chainEnd (s : State) (d c : Nat) : State :=
  let o := 0x40 * c
  let s1 := ((s.chRelease d c).setFld 9 d (o + 0x10) 0 1 0).setFld 9 d (o + 0x18) 0 3 0
  (s1.setChan d c { CopyCh.init with shGid := (s1.chan d c).shGid }).promote d c

/-- COPY_RECORD_COMPLETE (R158, R163, R166): once every byte has landed, the write-back, the completion of the record's
kind, and the next record or the end of the chain; one whose event record finds the queue full waits (R141). -/
def State.recordComplete (s0 : State) (d c : Nat) : State :=
  let s := (s0.copyAcked d c).sourceRead d c
  let x := s.chan d c
  let o := 0x40 * c
  if let some code := x.failing then (if s.chState d c = 1 then s.copyFail d c code else s)
  else if s.chState d c ≠ 1 ∨ !x.begun ∨ x.sentEls < recCount x.words ∨ !x.flying.isEmpty then s
  else if (cpKind x.ctrl = 3 ∨ x.poison = true) ∧ !s.copyRoom d c then s
  else
    let code := x.poison.toNat
    let s2 := if cpKind x.ctrl = 2 then s.engBar d (s.chPart d c) (x.w 4).toNat x.bytes else s
    let s3 := if cpKind x.ctrl = 3 ∨ code = 1 then s2.copyEvent d c code else s2
    let s4 := (s3.bump 9 d (o + 0x38) 0 64 x.bytes).setFld 9 d (o + 0x18) 8 8 (code + 16 * x.clip.toNat)
    let nx := bf (x.w 1) 8 49 * 256
    if nx = 0 then s4.chainEnd d c
    else (s4.setChan d c { s4.chan d c with recAddr := W nx, words := [], begun := false, back := false, sentEls := 0, bytes := 0, clip := false, poison := false }).setReg 9 d (o + 0x10) (W (nx + 1))

/-- COPY_RECORD_COMPLETE. -/
def execCopyRecordComplete (d c : Nat) (s : State) : Host.Outcome State Fault Refusal := .next (s.recordComplete d c)

/-- The running record of a channel ends with ABORTED (R162, R167): between records, the next one does. -/
def State.copyAbort (s : State) (d c : Nat) : State :=
  let x := s.chan d c
  if s.chState d c ≠ 1 ∨ x.failing.isSome then s
  else if x.begun then s.copyFail d c 6
  else s.setChan d c { x with aborting := true }

/-- ABORT. -/
def execAbort (d c : Nat) (s : State) : Host.Outcome State Fault Refusal := .next (s.copyAbort d c)

/-- CCTL_EN_WRITE (R168): PART while EN is 0; EN 0 to 1 enables a channel and ends a halt, EN 1 to 0 stops it, and 0 clears
the shadow set; ABORT. -/
def execCctlEnWrite (d c : Nat) (v : Word) (s : State) : Host.Outcome State Fault Refusal :=
  .next (
    let o := 0x40 * c
    if writeBad 9 o v then s.refuse 9 d o
    else
      let en := s.chEn d c
      let s0 := if v.getLsbD 1 then s.copyAbort d c else s
      let s1 := if en then s0 else s0.setFld 9 d o 9 3 (bf v 9 3)
      let s2 := s1.setFld 9 d o 0 1 (bf v 0 1)
      if !v.getLsbD 0 then
        let s3 := (((s2.setReg 9 d (o + 8) 0#64).setReg 9 d (o + 0x28) 0#64).setReg 9 d (o + 0x30) 0#64).setFld 9 d (o + 0x18) 3 1 0
        if en then
          let s4 := (s3.chRelease d c).setFld 9 d (o + 0x10) 0 1 0
          let st := if s4.chState d c = 2 then 2 else 0
          ((s4.setFld 9 d (o + 0x18) 0 4 st).setChan d c CopyCh.init)
        else s3.setChan d c { s3.chan d c with shGid := none }
      else if !en && v.getLsbD 0 then
        (if s2.chState d c = 2 then s2.setFld 9 d (o + 0x18) 0 2 0 else s2).promote d c
      else s2)

/-- Every channel of a partition ends its record with ABORTED (R120, R162). -/
def State.abortPart (s : State) (q : Nat) : State :=
  (List.range 8).foldl (fun s d => (List.range 24).foldl (fun s c => if s.chPart d c = q then s.copyAbort d c else s) s) s

/-! ## Instructions -/

/-- The channel that an instruction names, with its checks (R334, R335). -/
def State.chanOk (s : State) (c : Nat) : Option Nat :=
  if 23 < c then some cFMT else if s.chPart s.dieNo c ≠ s.thr.part then some cPERM else none

/-- CPSUB (R334), its causes by their priorities (R252). -/
def execCpsub (la : BitVec 4) (x y z : GReg) (wait : Bool) (s : State) :=
  s.run (.cpsub la x y z wait) fun s =>
    let d := s.dieNo
    let c := (s.rd y).toNat
    let a := s.rd z
    if bf a 0 8 ≠ 0 then s.trap cALIGN a
    else if bf a 57 7 ≠ 0 then s.trap cXLATE a
    else match s.chanOk c with
    | some e => s.trap e 0#64
    | none =>
      if !s.thr.released d 1 s.thr.seqNo then s.park false
      else
        let ret := fun (s : State) (v : Nat) => s.long (.cpsub la x y z wait) 0#64 (.ret [.scalar x.toNat (W v)] 0#8) (some (W v)) none false
        if s.chState d c = 2 then ret s 2
        else if !s.chEn d c then ret s 3
        else if s.chFull d c then (if wait then s.park true else ret s 1)
        else
          let o := 0x40 * c
          let s1 := ((s.setReg 9 d (o + 8) (W (bf a 8 49 * 256 + 1))).setFld 9 d (o + 0x18) 3 1 1).setChan d c { s.chan d c with shGid := some s.thr.gid }
          ret (s1.promote d c) 0

/-- WMREAD (R335). -/
def execWmread (la : BitVec 4) (x y : GReg) (s : State) :=
  s.run (.wmread la x y) fun s =>
    let c := (s.rd y).toNat
    match s.chanOk c with
    | some e => s.trap e 0#64
    | none => s.long (.wmread la x y) 0#64 (.wmark c x.toNat) none none true

end Sys2Proof.Machine
end

