-- ==== Sys2Proof/Machine/Shapes.lean ====
section
/-! DEFINITION. Collective calls as data (spec/05 R97 to R110): the parameter block, and the steps into which a rank expands a call in each of
the three shapes (R103, R419). How a shape cuts and orders its steps beyond R103 is the model's choice (notes/assumptions/24.md); R102 makes
every shape give the same bits. -/
namespace Sys2Proof.Machine

/-! ## The parameter block -/

/-- OP. -/
def cbOp (b : List Word) : Nat := bf (b.getD 0 0#64) 0 8
/-- DTYPE. -/
def cbDt (b : List Word) : Nat := bf (b.getD 0 0#64) 8 8
/-- RED. -/
def cbRed (b : List Word) : Nat := bf (b.getD 0 0#64) 16 8
/-- GROUP. -/
def cbGroup (b : List Word) : Nat := bf (b.getD 0 0#64) 32 16
/-- FLAGS. -/
def cbFlag (b : List Word) (i : Nat) : Bool := (b.getD 0 0#64).getLsbD (56 + i)
/-- BEXP. -/
def cbBexp (b : List Word) : Int := sInt 16 (bf (b.getD 1 0#64) 0 16)
/-- D. -/
def cbD (b : List Word) : Nat := bf (b.getD 1 0#64) 16 16
/-- ROOT. -/
def cbRoot (b : List Word) : Nat := bf (b.getD 1 0#64) 32 16
/-- COUNT. -/
def cbCount (b : List Word) : Nat := (b.getD 2 0#64).toNat
/-- SEND. -/
def cbSend (b : List Word) : Nat := (b.getD 3 0#64).toNat
/-- RECV. -/
def cbRecv (b : List Word) : Nat := (b.getD 4 0#64).toNat
/-- COMPL. -/
def cbCompl (b : List Word) : Nat := (b.getD 5 0#64).toNat
/-- CSEQ. -/
def cbSeq (b : List Word) : Nat := bf (b.getD 6 0#64) 0 32

/-- Bytes of an item of SEND: an element, or a word of a row record for OP 7. -/
def cbItem (b : List Word) : Nat := if cbOp b = 7 then 4 else dtSize (cbDt b)

/-- Items of a rank's SEND among `n` ranks (R99, R107). -/
def cbSendLen (b : List Word) (n : Nat) : Nat :=
  match cbOp b with
  | 2 => n * cbCount b
  | 5 => n * cbCount b
  | 6 => 0
  | 7 => cbCount b * (16 + cbD b)
  | _ => cbCount b

/-- Items of RECV. -/
def cbRecvLen (b : List Word) (n : Nat) : Nat :=
  match cbOp b with
  | 3 => n * cbCount b
  | 5 => n * cbCount b
  | 6 => 0
  | 7 => cbCount b * (if cbFlag b 1 then cbD b else 16 + cbD b)
  | _ => cbCount b

/-- The fields of a block within R98 to R100, for a group of `n` ranks. -/
def cbOk (b : List Word) (n : Nat) : Bool :=
  let w0 := b.getD 0 0#64
  let op := cbOp b
  let dt := cbDt b
  let red := cbRed b
  let c := cbCount b
  let al := if op = 7 then 64 else dtSize dt
  let sb := cbSendLen b n * cbItem b
  let rb := cbRecvLen b n * cbItem b
  let dd := cbD b
  decide (1 ≤ op) && decide (op ≤ 7) && decide (dt ≤ 7) && decide (red ≤ 6) && decide (bf w0 24 8 ≤ 3) && bf w0 50 6 == 0 && bf w0 59 5 == 0 &&
    decide (-1100 ≤ cbBexp b) && decide (cbBexp b ≤ 1100) && (!dtInt dt || cbBexp b == 0) &&
    (if op = 7 then dd % 16 == 0 && decide (16 ≤ dd) && decide (dd ≤ 256) else dd == 0) &&
    (if op = 4 then decide (cbRoot b < n) else cbRoot b == 0) && bf (b.getD 1 0#64) 48 16 == 0 &&
    (if op = 6 then c == 0 && cbSend b == 0 && cbRecv b == 0 else if op = 7 then decide (1 ≤ c) && decide (c ≤ 65536) else decide (c ≤ 2 ^ 32)) &&
    (if op ≤ 2 then decide (1 ≤ red) && redOk red dt else red == 0) && (op != 7 || dt == 0) &&
    cbSend b % al == 0 && cbRecv b % al == 0 && ((op == 1 && cbSend b == cbRecv b) || decide (cbSend b + sb ≤ cbRecv b) ||
      decide (cbRecv b + rb ≤ cbSend b) || sb == 0 || rb == 0) &&
    cbCompl b % 16 == 0 && decide (1 ≤ cbSeq b) && bf (b.getD 6 0#64) 32 32 == 0 && ((b.drop 7).take 8).all (· == 0#64)

/-- What a CALL packet carries (R106). -/
def cbData (b : List Word) : CallData :=
  { cseq := cbSeq b, op := cbOp b, dtype := cbDt b, red := cbRed b, count := cbCount b, d := cbD b, root := cbRoot b }

/-! ## Step data -/

/-- Elementwise join of two lists of items. -/
def joinItems (f : Nat → Nat → Nat × Bool) (a x : List Item) : List Item :=
  (a.zip x).map fun (i, j) => let r := f i.v j.v; { v := r.1, p := i.p || j.p, c := i.c || j.c || r.2 }

/-- An element enters the reduction of a call: a SUM as a wide lane (R101). -/
def cbEnter (b : List Word) (x : Nat × Bool) : Item :=
  if cbOp b ≤ 2 ∧ cbRed b = 1 then
    let w := wfxW (bf (b.getD 0 0#64) 48 2)
    { v := (laneEnter w (cbBexp b) (cbDt b) x.1).num w, p := x.2, c := false }
  else { v := x.1, p := x.2, c := false }

/-- Two values of a reduction combined (R100, R101). -/
def cbCombine (b : List Word) (a x : Nat) : Nat × Bool :=
  if cbRed b = 1 then
    let w := wfxW (bf (b.getD 0 0#64) 48 2)
    ((laneAdd w (laneOf w a) (laneOf w x)).num w, false)
  else redOp (cbRed b) (cbDt b) a x

/-- A complete value of a reduction as an element: a SUM converts once (R101), a MAX or MIN is canonical (R84). -/
def cbConvert (b : List Word) (i : Item) : Item :=
  match cbRed b with
  | 1 =>
    let l := laneOf (wfxW (bf (b.getD 0 0#64) 48 2)) i.v
    let r := laneConvert (cbBexp b) (cbDt b) l
    { i with v := r.1, c := i.c || r.2 || l.fl / 8 % 2 == 1 }
  | 2 => { i with v := dtCanon (cbDt b) i.v }
  | 3 => { i with v := dtCanon (cbDt b) i.v }
  | _ => i

/-- Row `k` of row records (R107): the triple, and whether it is poisoned. -/
def rowOf (d k : Nat) (l : List Item) : Triple × Bool :=
  let r := (l.drop (k * (16 + d))).take (16 + d)
  ({ m := ((r.map (·.v)).getD 0 0), s := ((r.map (·.v)).getD 1 0), v := (r.drop 16).map (·.v) }, r.any (·.p))

/-- The items of a triple's row record, bytes 8 to 63 zero (R107). -/
def rowItems (t : Triple) (p : Bool) : List Item :=
  ([t.m, t.s] ++ List.replicate 14 0 ++ t.v).map fun v => { v := v, p := p, c := false }

/-- The current data of two neighbours of the tree joined (R108, R419): reduced, merged row by row, or one behind the other. -/
def cbJoin (b : List Word) (a x : List Item) : List Item :=
  match cbOp b with
  | 1 => joinItems (cbCombine b) a x
  | 2 => joinItems (cbCombine b) a x
  | 7 => (List.range (cbCount b)).flatMap fun k =>
      let r := rowOf (cbD b) k a
      let q := rowOf (cbD b) k x
      rowItems (r.1.merge q.1) (r.2 || q.2)
  | _ => a ++ x

/-- Complete data as RECV takes it (R99, R101, R107, R110). -/
def cbFinal (b : List Word) (l : List Item) : List Item :=
  match cbOp b with
  | 1 => l.map (cbConvert b)
  | 2 => l.map (cbConvert b)
  | 7 => (List.range (cbCount b)).flatMap fun k =>
      let r := rowOf (cbD b) k l
      if cbFlag b 1 then r.1.norm.map fun v => { v := v, p := r.2, c := false } else rowItems r.1 r.2
  | _ => l

/-- Part `j` of data in parts of `k` items. -/
def partOf (k j : Nat) (l : List Item) : List Item := (l.drop (j * k)).take k

/-- What rank `r` of `n` receives out of the complete data of a tree (R99). -/
def cbOwn (b : List Word) (n r : Nat) (l : List Item) : List Item :=
  match cbOp b with
  | 2 => partOf (cbCount b) r l
  | 5 => (List.range n).flatMap fun i => partOf (cbCount b) (i * n + r) l
  | _ => l

/-! ## Shapes -/

/-- A step that a rank sends: to a rank, of a stage, its items, and whether the receiver reduces with it. -/
structure StepData where
  dst : Nat
  stage : Nat
  reduces : Bool
  items : List Item

/-- A rank's part of a call, as far as what has arrived lets it run: the steps that it sends, in order, and RECV once it is complete. -/
structure CallRun where
  sends : List StepData
  out : Option (List Item)

/-- What has arrived at a rank: the items of a whole step, by the rank that sent it and its stage. -/
abbrev StepsIn := Nat → Nat → Option (List Item)

/-- The shape of a call's steps (R103): 1 direct, 2 ring, 3 tree. -/
def cbAlgo (b : List Word) : Nat :=
  let a := bf (b.getD 0 0#64) 24 8
  if cbOp b = 7 then 3 else if a = 0 then (if cbCount b * cbItem b ≤ 2 ^ 18 then 3 else 1) else a

/-- The ranks below a rank in the tree, in ascending level (R108). -/
def treeKids (n r : Nat) : List Nat :=
  (List.range 11).filterMap fun l => if r % 2 ^ (l + 1) = 0 ∧ r + 2 ^ l < n then some (r + 2 ^ l) else none

/-- The rank above a rank in the tree. -/
def treeUp (r : Nat) : Nat := ((List.range 11).find? fun l => r % 2 ^ (l + 1) != 0).elim 0 fun l => r - 2 ^ l

/-- The data of the ranks below joined level by level; nothing while one is missing. -/
def treeJoin (b : List Word) (inn : StepsIn) : List Nat → List Item → Option (List Item)
  | [], cur => some cur
  | k :: r, cur => match inn k 0 with
    | none => none
    | some x => treeJoin b inn r (cbJoin b cur x)

/-- The tree (R103, R108, R419): up to rank 0, which finishes, and back down in descending level. -/
def treeRun (b : List Word) (n r : Nat) (mine : List Item) (inn : StepsIn) : CallRun :=
  match treeJoin b inn (treeKids n r) mine with
  | none => { sends := [], out := none }
  | some cur =>
    let up := if r = 0 then [] else [{ dst := treeUp r, stage := 0, reduces := true, items := cur }]
    match (if r = 0 then some (cbFinal b cur) else inn (treeUp r) 1) with
    | none => { sends := up, out := none }
    | some fin =>
      { sends := up ++ (treeKids n r).reverse.map fun k => { dst := k, stage := 1, reduces := false, items := fin }, out := some (cbOwn b n r fin) }

/-- Items of a chunk of an all-reduce in the direct and the ring shape: COUNT split among the ranks, rounded up (DESIGN CHOICE, log 24). -/
def cbChunk (b : List Word) (n : Nat) : Nat :=
  match cbOp b with
  | 1 => (cbCount b + n - 1) / n
  | _ => cbCount b

/-- What a rank sends to rank `j` in the direct shape: its chunk `j` or all of its data (R99, R103). -/
def directPart (b : List Word) (n j : Nat) (mine : List Item) : List Item :=
  if cbOp b = 3 ∨ cbOp b = 4 then mine else partOf (cbChunk b n) j mine

/-- All of some steps that a rank takes from ranks, its own part among them; nothing while one is missing. -/
def takeAll (inn : StepsIn) (stage r : Nat) (own : List Item) : List Nat → Option (List (List Item))
  | [] => some []
  | i :: l => match (if i = r then some own else inn i stage) with
    | none => none
    | some x => (takeAll inn stage r own l).map (x :: ·)

/-- The direct shape (R103): each rank's parts to their ranks, and for an all-reduce the converted chunks to all. -/
def directRun (b : List Word) (n r : Nat) (mine : List Item) (inn : StepsIn) : CallRun :=
  let others := (List.range n).filter (· ≠ r)
  let first := if cbOp b = 4 ∧ cbRoot b ≠ r then [] else others.map fun j => { dst := j, stage := 0, reduces := decide (cbOp b ≤ 2), items := directPart b n j mine }
  match takeAll inn 0 r (directPart b n r mine) (if cbOp b = 4 then [cbRoot b] else List.range n) with
  | none => { sends := first, out := none }
  | some parts =>
    if cbOp b ≤ 2 then
      let sum := cbFinal b ((parts.drop 1).foldl (cbJoin b) (parts.headD []))
      if cbOp b = 2 then { sends := first, out := some sum }
      else
        let second := others.map fun j => { dst := j, stage := 1, reduces := false, items := sum }
        { sends := first ++ second, out := (takeAll inn 1 r sum (List.range n)).map (·.flatten) }
    else { sends := first, out := some (cbFinal b parts.flatten) }

/-- `n - 1` steps round the ring in which a rank passes on one part after the other, from part `off` downwards (R103): the steps sent, and the parts,
each joined with or replaced by what has arrived, or nothing while a step is missing. -/
def ringPhase (b : List Word) (n r off stage : Nat) (red : Bool) (inn : StepsIn) (cs : List (List Item)) : List StepData × Option (List (List Item)) :=
  (List.range (n - 1)).foldl (fun acc t => match acc.2 with
    | none => acc
    | some cs =>
      let out := (off + 2 * n - t) % n
      let idx := (off + 2 * n - t - 1) % n
      let sends := acc.1 ++ [{ dst := (r + 1) % n, stage := stage + t, reduces := red, items := cs.getD out [] }]
      (sends, (inn ((r + n - 1) % n) (stage + t)).map fun x => cs.set idx (if red then cbJoin b (cs.getD idx []) x else x))) ([], some cs)

/-- The ring (R103): reduce steps and gather steps round the ranks in ascending order; a broadcast passes from the root on. -/
def ringRun (b : List Word) (n r : Nat) (mine : List Item) (inn : StepsIn) : CallRun :=
  let parts := (List.range n).map fun j => partOf (cbChunk b n) j mine
  let alone := (List.range n).map fun j => if j = r then mine else []
  match cbOp b with
  | 1 =>
    match ringPhase b n r r 0 true inn parts with
    | (s1, none) => { sends := s1, out := none }
    | (s1, some cs) =>
      let k := (r + 1) % n
      let (s2, o) := ringPhase b n r k (n - 1) false inn (cs.set k (cbFinal b (cs.getD k [])))
      { sends := s1 ++ s2, out := o.map (·.flatten) }
  | 2 =>
    let (s1, o) := ringPhase b n r (r + n - 1) 0 true inn parts
    { sends := s1, out := o.map fun cs => cbFinal b (cs.getD r []) }
  | 4 =>
    match (if cbRoot b = r then some mine else inn ((r + n - 1) % n) 0) with
    | none => { sends := [], out := none }
    | some x => { sends := if (r + 1) % n = cbRoot b then [] else [{ dst := (r + 1) % n, stage := 0, reduces := false, items := x }], out := some x }
  | _ =>
    let (s1, o) := ringPhase b n r r 0 false inn alone
    { sends := s1, out := o.map fun cs => if cbOp b = 5 then cs.flatMap fun x => partOf (cbCount b) r x else cs.flatten }

/-- What a rank does in a call of `n` ranks with its SEND items and what has arrived (R103). -/
def callRun (b : List Word) (n r : Nat) (send : List (Nat × Bool)) (inn : StepsIn) : CallRun :=
  let mine := send.map (cbEnter b)
  match cbAlgo b with
  | 1 => directRun b n r mine inn
  | 2 => ringRun b n r mine inn
  | _ => treeRun b n r mine inn

/-- The steps that a rank takes in a call: by the ranks that send them, with their stages. -/
def callTakes (b : List Word) (n r : Nat) : List (Nat × Nat) :=
  let others := (List.range n).filter (· ≠ r)
  match cbAlgo b with
  | 1 =>
    let first := if cbOp b = 4 then (if cbRoot b = r then [] else [(cbRoot b, 0)]) else others.map fun i => (i, 0)
    if cbOp b = 1 then first ++ others.map fun i => (i, 1) else first
  | 2 =>
    let prev := (r + n - 1) % n
    let k := match cbOp b with
      | 1 => 2 * (n - 1)
      | 4 => if cbRoot b = r then 0 else 1
      | _ => n - 1
    (List.range k).map fun t => (prev, t)
  | _ => (treeKids n r).map (fun k => (k, 0)) ++ (if r = 0 then [] else [(treeUp r, 1)])

/-! ## Step packets -/

/-- CTRL of a step's record (R103, R155, R161): the reduction of the call where the receiver reduces, else plain elements. The bits 6 to 9, which are
zero in a record of software, mark a step, poisoned data, data that saturated, and the last packet of the step (DESIGN CHOICE, log 24). -/
def stepCtrl (b : List Word) (reduces last p c : Bool) : Word :=
  let marks := 64 + 128 * p.toNat + 256 * c.toNat + 512 * last.toNat
  if reduces ∧ cbOp b ≤ 2 then
    W (cbRed b * 2 ^ 57 + (if cbRed b = 1 then 2 else 0) * 2 ^ 54 + cbDt b * 2 ^ 50 + bf (b.getD 0 0#64) 48 2 * 2 ^ 48 + bf (b.getD 1 0#64) 0 16 * 2 ^ 16 + marks)
  else W ((match cbItem b with | 1 => 0 | 2 => 1 | 4 => 2 | _ => 3) * 2 ^ 40 + marks)

/-- The longest run of items with one pair of marks, up to `k`. -/
def markRun (k : Nat) : List Item → List Item
  | [] => []
  | i :: r => i :: (r.takeWhile fun j => j.p == i.p && j.c == i.c).take (k - 1)

/-- A step cut into packets of at most 32 lines (R161), an empty one into one. -/
def stepCut (b : List Word) (g dest : Nat) (d : StepData) : Nat → Nat → List Item → List StepOut
  | 0, _, _ => []
  | f + 1, first, l =>
    let now := markRun (2048 / cpDstSize (stepCtrl b d.reduces false false false)) l
    let rest := l.drop now.length
    let x := now.headD { v := 0, p := false, c := false }
    { dest := dest, group := g, cseq := cbSeq b, op := cbOp b, stage := d.stage, first := first, items := now, last := rest.isEmpty,
      ctrl := stepCtrl b d.reduces rest.isEmpty x.p x.c } :: (if rest.isEmpty then [] else stepCut b g dest d f (first + now.length) rest)

/-- COMPL of a step's packets names the call (R106; DESIGN CHOICE, log 24): CSEQ, OP and the group. -/
def stepCompl (cseq op group : Nat) : Word := W (cseq * 2 ^ 32 + op % 2 ^ 8 * 2 ^ 24 + group % 2 ^ 16 * 2 ^ 8)

/-- A COPYDATA packet whose CTRL marks a step of a collective. -/
def isStep (ctrl : Word) : Bool := ctrl.getLsbD 6

/-- The items of a step's packet: `n` bytes of a number, in items of the size that CTRL gives. -/
def stepItems (ctrl : Word) (n v : Nat) : List Item :=
  let z := cpDstSize ctrl
  (List.range (n / z)).map fun i => { v := v / 2 ^ (8 * z * i) % 2 ^ (8 * z), p := ctrl.getLsbD 7, c := ctrl.getLsbD 8 }

/-- The items of the step of a stage from a contributor, once all of its packets have arrived. -/
def stepWhole (l : List StepIn) (b : List Word) (src stage : Nat) : Option (List Item) :=
  let xs := sortBy (fun a c => decide (a.first ≤ c.first)) (l.filter fun e => e.src == src && e.stage == stage && e.group == cbGroup b && e.cseq == cbSeq b && e.op == cbOp b)
  let ok := xs.foldl (fun (acc : Option Nat) e => acc.bind fun k => if e.first = k then some (k + e.items.length) else none) (some 0)
  if ok.isSome && (xs.getLast?.map (·.last)).getD false then some (xs.flatMap (·.items)) else none

end Sys2Proof.Machine
end

