-- ==== Sys2Proof/Machine/Coll.lean ====
section
/-! DEFINITION. Collectives on a die (spec/05 R97 to R112, spec/16 R359 to R361): a call's start, matching, steps and end; and the polling of
rings (spec/06 R121, spec/07 R144). -/
namespace Sys2Proof.Machine

/-! ## Calls -/

/-- A call of a ring. -/
def Call.isOf (c : Call) (q bank r : Nat) : Bool := c.part == q && c.bank == bank && c.ring == r

/-- The call of a ring of a die (R359: one at a time). -/
def State.call? (s : State) (d q bank r : Nat) : Option Call := (s.dieAt d).calls.find? fun c => c.isOf q bank r

/-- The state with the call of a ring set. -/
def State.setCall (s : State) (d : Nat) (c : Call) : State :=
  s.setDie d { s.dieAt d with calls := (s.dieAt d).calls.filter (fun x => !x.isOf c.part c.bank c.ring) ++ [c] }

/-- A call that no block stands for yet. -/
def Call.init (q bank r : Nat) : Call :=
  { part := q, ring := r, bank := bank, cons := 0, slotVa := 0, block := [], started := false, heard := [],
    data := none, sent := 0, ending := none }

/-- A ring found invalid (R121): RINGERR, and it stays unpolled until its descriptor is written. DEDUCED, log 37. -/
def State.badRing (s : State) (d : Nat) (x : Ring) : State :=
  (s.ringErr x.part).setRing d { x with invalid := true, mapped := false, descAt := (s.paged x.part (s.ringAt x.part x.bank x.num) 0).toOption }

/-- A range of `n` bytes of a ring can be written: it translates, with the right, and meets no poison (R121). -/
def State.slotOk (s : State) (q va n : Nat) : Bool :=
  (match s.engLoc q va n rWR, s.engLoc q (va + n - 1) 1 rWR with | .ok _, .ok _ => true | _, _ => false) && !s.meetsPoison q va n

/-- Hardware can write CONS of a ring, and STATUS of a collective one (R121). -/
def State.consOk (s : State) (x : Ring) : Bool :=
  s.slotOk x.part (x.d1.toNat + 64) 4 && (bf x.d0 61 2 != 1 || s.slotOk x.part (x.d1.toNat + 128) 8)

/-- CONS of a ring stored, with the STATUS word of a collective ring (R121, R359). -/
def State.retireSlot (s : State) (d : Nat) (x : Ring) (cons : Nat) (status : Option Nat) : State :=
  let base := x.d1.toNat
  if !s.consOk x then s.badRing d x
  else
    let s0 := s.charge d x.part base 192
    let s1 := match status with
      | none => s0
      | some v => match s0.engWrite x.part (base + 128) 8 v with
        | .ok y => y
        | .error _ => s0
    match s1.engWrite x.part (base + 64) 4 ((cons + 1) % 2 ^ 32) with
    | .ok y => y
    | .error _ => s1.badRing d x

/-- What a die holds of a call's steps dropped when the call ends (R104, R106): what has arrived for it, and, where the rank sends nothing further,
what it has still to send. -/
def State.dropSteps (s : State) (d : Nat) (b : List Word) (code : Nat) : State :=
  let x := s.dieAt d
  let mine := fun (g n o : Nat) => g == cbGroup b && n == cbSeq b && o == cbOp b
  s.setDie d { x with arrived := x.arrived.filter (fun e => !mine e.group e.cseq e.op),
                      steps := if code = 2 ∨ code = 5 then x.steps.filter (fun e => !mine e.group e.cseq e.op) else x.steps }

/-- A COMPL that fails translation makes the code of a call that ran to its end XLATE (R104; DEDUCED, log 24). -/
def State.endCode (s : State) (q : Nat) (b : List Word) (code : Nat) : Nat :=
  match s.engLoc q (cbCompl b) 16 rWR with
  | .error _ => if code = 0 ∨ code = 4 then 5 else code
  | .ok _ => code

/-- The calls of other ranks that came after GO are for the ring's next call (R106). -/
def Call.later (c : Call) : List Call :=
  match c.heard.filter fun h => h.2.cseq != cbSeq c.block with
  | [] => []
  | l => if c.data.isSome then [{ Call.init c.part c.bank c.ring with heard := l }] else []

/-- A call ends at its rank with a code (R104, R359): the completion record, STATUS of the block, the event record, the
ring's STATUS and CONS. While the event queue is full the end of a call that has an event record waits (R141). -/
def State.endCall (s : State) (d : Nat) (c : Call) (code0 bytes : Nat) (clip : Bool) : State :=
  let b := c.block
  if cbFlag b 2 && !s.evRoom d then s.setCall d { c with ending := some (code0, bytes, clip) }
  else
  let code := s.endCode c.part b code0
  let w0 := cbSeq b * 2 ^ 32 + clip.toNat * 256 + code
  let s0 := ((s.dropSteps d b code).charge d c.part (cbCompl b) 16).charge d c.part (c.slotVa + 120) 8
  let s1 := if cbCompl b % 16 ≠ 0 then s0
    else match s0.engWrite c.part (cbCompl b + 8) 8 bytes with
      | .error _ => s0
      | .ok x => match x.engWrite c.part (cbCompl b) 8 w0 with
        | .error _ => x
        | .ok y => y
  let s2 := match s1.engWrite c.part (c.slotVa + 120) 8 w0 with
    | .ok x => x
    | .error _ => s1
  let s3 := if cbFlag b 2 then s2.devEvent d 0x11 code (cbSeq b) else s2
  let s4 := s3.setDie d { s3.dieAt d with calls := (s3.dieAt d).calls.filter (fun x => !x.isOf c.part c.bank c.ring) ++ c.later }
  match s4.ring? d c.part c.bank c.ring with
  | none => s4
  | some x =>
    let y := { x with doneCnt := x.doneCnt + 1 }
    (s4.setRing d y).retireSlot d y c.cons (some (cbSeq b * 2 ^ 32 + code * 2 ^ 24 + clip.toNat * 2 ^ 23 + y.doneCnt.toNat))

/-- `k` items of `z` bytes from an address, each with its poison mark, poisoned ones as zero; nothing where a translation
fails (R104). -/
def State.readItems (s : State) (q a z : Nat) : Nat → State × Option (List (Nat × Bool))
  | 0 => (s, some [])
  | k + 1 =>
    match s.engRead q a z with
    | .error _ => (s, none)
    | .ok r =>
      match r.s.readItems q (a + z) z k with
      | (s1, some l) => (s1, some ((if r.bad ≠ 0 then (0, true) else (r.v, false)) :: l))
      | (s1, none) => (s1, none)

/-- Matching is on for a call (R106): MATCH, or a partition in another mode than run. -/
def State.matching (s : State) (q : Nat) (b : List Word) : Bool := cbFlag b 0 || s.fld 5 0 (0x40 * q) 4 2 != 1

/-- The whole steps that have arrived at a rank of a group. -/
def State.stepsAt (s : State) (d : Nat) (c : Call) (mem : List Nat) : StepsIn := fun i stage =>
  stepWhole (s.dieAt d).arrived c.block (mem.getD i 0) stage

/-- The steps that a rank still waits for. -/
def State.stepsDue (s : State) (d : Nat) (c : Call) (mem : List Nat) : List (Nat × Nat) :=
  (callTakes c.block mem.length (mem.idxOf (s.contrib d))).filter fun e => (s.stepsAt d c mem e.1 e.2).isNone

/-- With matching off, a rank that still waits for a step finds another CSEQ or OP in its sender's next packet (R106): every packet before that one
on its stream has arrived. -/
def State.differs (s : State) (d : Nat) (c : Call) (mem : List Nat) : Bool :=
  !s.matching c.part c.block && (s.stepsDue d c mem).any fun e => (s.dieAt d).arrived.any fun x =>
    x.src == mem.getD e.1 0 && x.group == cbGroup c.block && !(x.cseq == cbSeq c.block && x.op == cbOp c.block) &&
      (x.src / 8 == s.devId || (let k := ((s.rxOf (x.src / 8) false).exp - x.seq).toNat; decide (0 < k) && decide (k < 2 ^ 15)))

/-- A call goes on as far as what has arrived lets it (R103): the steps that it can send join those that the die's engines have to send. -/
def State.callOn (s : State) (d : Nat) (c : Call) : State :=
  match c.data, s.readGroup d c.part (cbGroup c.block) with
  | some l, (s1, some g) =>
    if c.ending.isSome then s
    else if s1.differs d c g.mem then s1.endCall d c 2 0 false
    else
      let n := g.mem.length
      let run := callRun c.block n (g.mem.idxOf (s.contrib d)) l (s1.stepsAt d c g.mem)
      let new := (run.sends.drop c.sent).flatMap fun x => stepCut c.block (cbGroup c.block) (g.mem.getD x.dst 0) x (x.items.length + 1) 0 x.items
      let s2 := s1.setDie d { s1.dieAt d with steps := (s1.dieAt d).steps ++ new }
      s2.setCall d { c with sent := max c.sent run.sends.length }
  | _, _ => s

/-- The data steps of a call begin: its SEND is read (R103, R112); a failed translation ends the call with XLATE. -/
def State.beginSteps (s : State) (d : Nat) (c : Call) (n rank : Nat) : State :=
  let len := if cbOp c.block = 4 ∧ cbRoot c.block ≠ rank then 0 else cbSendLen c.block n
  match (s.chargeRange d c.part (cbSend c.block) (len * cbItem c.block)).readItems c.part (cbSend c.block) (cbItem c.block) len with
  | (s1, some l) => (s1.setCall d { c with data := some l }).callOn d { c with data := some l }
  | (s1, none) => s1.endCall d c 5 0 false

/-- A matching packet to a member (R106). -/
def State.matchPkt (s : State) (d kind peer : Nat) (ws : List Word) : State :=
  s.emit { s.blank kind 1 (peer / 8) false with ddie := BitVec.ofNat 3 peer, sdie := BitVec.ofNat 3 d, pay := ws }

/-- Rank 0 answers once, when it has heard every other rank (R106): GO where all are equal to its own, else MISMATCH. -/
def State.matchAll (s : State) (d : Nat) (g : GrpD) (c : Call) : State :=
  let others := (g.mem.drop 1)
  if c.block = [] ∨ !c.started ∨ c.data.isSome ∨ c.ending.isSome ∨ !(List.range g.mem.length).all (fun i => i == 0 || c.heard.any (·.1 == i)) then s
  else
    let same := c.heard.all fun h => h.2 == cbData c.block
    let s1 := others.foldl (fun s m => s.matchPkt d (if same then 0x49 else 0x4A) m [W (cbSeq c.block)]) s
    if same then s1.beginSteps d c g.mem.length 0 else s1.endCall d c 2 0 false

/-- The threads homed on a die have no unacknowledged posted access (R111). -/
def State.dieReleased (s : State) (d : Nat) : Bool :=
  s.cells.all fun (n, c) => n / 64 != d || c.slots.all fun (_, t) => match t with
    | some t => t.posted.isEmpty
    | none => true

/-- Under matching no step of another call of the group can be on its way when a call starts: what is left of such calls is dropped. -/
def State.dropStray (s : State) (d : Nat) (c : Call) : State :=
  if s.matching c.part c.block then
    s.setDie d { s.dieAt d with arrived := (s.dieAt d).arrived.filter fun e => e.group != cbGroup c.block || (e.cseq == cbSeq c.block && e.op == cbOp c.block) }
  else s

/-- COLLECTIVE_START (R103, R106, R111): the fields are checked, the release is performed, the matching begins where it is
on, else the data steps. -/
def State.startCall (s : State) (d : Nat) (c : Call) : State :=
  match s.readGroup d c.part (cbGroup c.block) with
  | (s1, none) => s1.endCall d c 1 0 false
  | (s1, some g) =>
    let me := s.contrib d
    if !g.mem.contains me ∨ !cbOk c.block g.mem.length then s1.endCall d c 1 0 false
    else if !s1.dieReleased d then s1.setCall d c
    else
      let rank := g.mem.idxOf me
      let c1 := { c with started := true }
      let s2 := (s1.setCall d c1).dropStray d c1
      if !s2.matching c.part c.block then s2.beginSteps d c1 g.mem.length rank
      else if rank = 0 then s2.matchAll d g c1
      else
        let x := cbData c.block
        s2.matchPkt d 0x48 (g.mem.headD 0) [W x.cseq, W (x.op + x.dtype * 2 ^ 8 + x.red * 2 ^ 16 + x.d * 2 ^ 32 + x.root * 2 ^ 48), W x.count]

/-! ## Steps and results -/

/-- The calls of a die whose steps run in a group, gone on with. -/
def State.callsOn (s : State) (d group : Nat) : State :=
  ((s.dieAt d).calls.filter fun c => c.data.isSome && c.started && cbGroup c.block == group).foldl (fun s c => s.callOn d c) s

/-- A packet of a step has arrived at a die with a good tag. -/
def State.stepArrive (s : State) (d : Nat) (x : StepIn) : State :=
  (s.setDie d { s.dieAt d with arrived := (s.dieAt d).arrived ++ [x] }).callsOn d x.group

/-- The internal channel of an engine sends the first of the packets of the die's collectives (R103, R152, R161): to another device as COPYDATA
whose descriptor holds the stage and the number of the first item (DESIGN CHOICE, log 24), to a die of this device at once. -/
def State.stepSend (s0 : State) (d e : Nat) : State :=
  match (s0.dieAt d).steps with
  | [] => s0
  | x :: r =>
    if !s0.engTurn d e 4 then s0
    else
      let s1 := s0.serve d e 4
      let s := s1.setDie d { s1.dieAt d with steps := r }
      if x.dest / 8 = s.devId then
        s.stepArrive (x.dest % 8) { src := s.contrib d, seq := 0#16, group := x.group, cseq := x.cseq, op := x.op, stage := x.stage, first := x.first,
                                    items := x.items, last := x.last }
      else
        let z := cpDstSize x.ctrl
        s.emit (s.dataPkt d (x.dest / 8) (x.dest % 8) x.stage x.first 0 x.ctrl (stepCompl x.cseq x.op x.group)
          (x.items.foldr (fun i a => i.v % 2 ^ (8 * z) + a * 2 ^ (8 * z)) 0) (z * x.items.length))

/-- COPY_PACKET_SEND (R152): of a software channel, 0 to 23, or of the internal channel of engine c - 24. -/
def execCopyPacketSend (d c : Nat) (s : State) : Host.Outcome State Fault Refusal :=
  .next (if c < 24 then s.packetSend d c else if c < 30 then s.stepSend d (c - 24) else s)

/-- The rank waits for a peer (R105): for the matching, or for a step. -/
def State.waitsPeer (s : State) (d : Nat) (c : Call) (g : GrpD) : Bool :=
  g.mem.length != 1 && (c.data.isNone || !(s.stepsDue d c g.mem).isEmpty)

/-- Items written in ascending address, the items of a line together (R33, R112): how many, and false where a translation fails. -/
def State.writeItems (s : State) (q a z : Nat) : Nat → List Nat → State × Nat × Bool
  | 0, _ => (s, 0, true)
  | _, [] => (s, 0, true)
  | f + 1, l =>
    let now := l.take (engStep a (z * l.length) / z)
    match s.engPutLine q a (z * now.length) (now.foldr (fun v r => v % 2 ^ (8 * z) + r * 2 ^ (8 * z)) 0) with
    | .error _ => (s, 0, false)
    | .ok s1 => match s1.writeItems q (a + z * now.length) z f (l.drop now.length) with
      | (s2, k, ok) => (s2, k + now.length, ok)

/-- A rank finishes its call (R102, R104): once every step that it takes has arrived, RECV and the completion. -/
def State.finishCall (s : State) (d : Nat) (c : Call) : State :=
  match s.readGroup d c.part (cbGroup c.block) with
  | (s1, none) => s1
  | (s1, some g) =>
    if s1.differs d c g.mem then s1.endCall d c 2 0 false
    else match (callRun c.block g.mem.length (g.mem.idxOf (s.contrib d)) (c.data.getD []) (s1.stepsAt d c g.mem)).out with
    | none => s1
    | some out =>
      let z := cbItem c.block
      match (s1.chargeRange d c.part (cbRecv c.block) (z * out.length)).writeItems c.part (cbRecv c.block) z out.length (out.map (·.v)) with
      | (s2, k, false) => s2.endCall d c 5 (k * z) (out.any (·.c))
      | (s2, _, true) => s2.endCall d c (if out.any (·.p) then 4 else 0) (out.length * z) (out.any (·.c))

/-- The active bank's call of a ring. -/
def State.callNow (s : State) (d q ring : Nat) : Option Call :=
  (s.dieAt d).calls.find? fun c => c.part == q && c.ring == ring && c.block != []

/-- COLLECTIVE_COMPLETE (R104): a call finishes, or one whose end waits for room in the event queue ends. -/
def execCollectiveComplete (d q ring : Nat) (s : State) : Host.Outcome State Fault Refusal :=
  .next (match s.callNow d q ring with
    | some c => match c.ending with
      | some (code, bytes, clip) => s.endCall d c code bytes clip
      | none => if c.data.isSome then s.finishCall d c else s
    | none => s)

/-- COLLECTIVE_PEER_TIMEOUT (R105): a call that waits for a peer ends. -/
def execCollectivePeerTimeout (d q ring : Nat) (s : State) : Host.Outcome State Fault Refusal :=
  .next (match s.callNow d q ring with
    | some c =>
      if !c.started ∨ c.ending.isSome then s
      else match s.readGroup d q (cbGroup c.block) with
        | (s1, some g) => if s1.waitsPeer d c g then s1.endCall d c 3 0 false else s1
        | (s1, none) => s1.endCall d c 3 0 false
    | none => s)

/-- CALL_PACKET (R106): rank 0 hears a rank's call, before or after its own. -/
def execCallPacket (d q ring rank : Nat) (c : CallData) (s : State) : Host.Outcome State Fault Refusal :=
  .next (s.onArrival 0x48 fun s => 
    let x := (s.call? d q (s.bankOf q) ring).getD (Call.init q (s.bankOf q) ring)
    let y := { x with heard := x.heard.filter (fun h => h.1 != rank) ++ [(rank, c)] }
    let s1 := s.setCall d y
    match s1.readGroup d q (cbGroup y.block) with
    | (s2, some g) => s2.matchAll d g y
    | (s2, none) => s2)

/-- GO (R106). -/
def execGo (d q ring : Nat) (s : State) : Host.Outcome State Fault Refusal :=
  .next (s.onArrival 0x49 fun s => match s.callNow d q ring with
    | none => s
    | some c =>
      if !c.started ∨ c.data.isSome ∨ c.ending.isSome then s
      else match s.readGroup d q (cbGroup c.block) with
        | (s1, some g) => s1.beginSteps d c g.mem.length (g.mem.idxOf (s.contrib d))
        | (s1, none) => s1)

/-- MISMATCH (R106). -/
def execMismatch (d q ring : Nat) (s : State) : Host.Outcome State Fault Refusal :=
  .next (s.onArrival 0x4A fun s => match s.callNow d q ring with
    | some c => if c.started ∧ c.data.isNone ∧ c.ending.isNone then s.endCall d c 2 0 false else s
    | none => s)

/-- The calls of which a step is among the packets that a failed stream has lost end with POISON at the rank that sent it (R104). -/
def State.collLost (s : State) (lost : List Packet) : State :=
  (lost.filter fun p => p.kind == 0x20#8 && isStep (p.pay.getD 0 0#64)).foldl (fun s p =>
    let d := p.sdie.toNat
    match (s.dieAt d).calls.find? fun c => c.started && c.data.isSome && c.ending.isNone && stepCompl (cbSeq c.block) (cbOp c.block) (cbGroup c.block) == p.pay.getD 1 0#64 with
    | some c => s.endCall d c 4 0 false
    | none => s) s

/-! ## Rings -/

/-- The context bank whose rings are polled (R144, R263). -/
def State.ringBank (s : State) (q : Nat) : Nat := if (s.partAt q).switching then 1 - s.bankOf q else s.bankOf q

/-- A ring that nothing has mapped. -/
def Ring.init (q bank r : Nat) (now : Nat) : Ring :=
  { part := q, bank := bank, num := r, mapped := false, since := now, invalid := false, d0 := 0#64, d1 := 0#64, rejects := 0#24, doneCnt := 0#23, descAt := none }

/-- Now on the timebase of a die. -/
def State.now (s : State) (d : Nat) : Nat := (s.tb d).toNat

/-- A ring's header read (R121), where CONS can be written too: its record and PROD and CONS; nothing where it is invalid, which is
recorded. -/
def State.ringCheck (s : State) (d : Nat) (x : Ring) : State × Option (Ring × Nat × Nat) :=
  match (s.charge d x.part x.d1.toNat 128).ringHead x.part x.d1.toNat with
  | (s1, none) => (s1.badRing d x, none)
  | (s1, some (prod, cons)) =>
    if !s1.consOk x ∨ 2 ^ bf x.d0 56 5 < (prod + 2 ^ 32 - cons) % 2 ^ 32 then (s1.badRing d x, none) else (s1, some (x, prod, cons))

/-- A ring's descriptor reread as at a mapping, and its header (R121, R144): the ring with a valid descriptor that is not
marked invalid. A changed descriptor clears the mark and the counts. -/
def State.ringLook (s : State) (d q bank r : Nat) : State × Option (Ring × Nat × Nat) :=
  let x := (s.ring? d q bank r).getD (Ring.init q bank r (s.now d))
  match (s.charge d q (s.ringAt q bank r) 32).ringWords q bank r with
  | (s1, none) => (s1, none)
  | (s1, some ws) =>
    let d0 := ws.getD 0 0#64
    let d1 := ws.getD 1 0#64
    let y := if x.d0 = d0 ∧ x.d1 = d1 then x else { x with d0 := d0, d1 := d1, invalid := false, rejects := 0#24, doneCnt := 0#23 }
    if !d0.getLsbD 63 then (s1.setRing d { y with mapped := false }, none)
    else if y.invalid then (s1.setRing d y, none)
    else if !ringOk ws then (s1.badRing d y, none)
    else (s1.setRing d y).ringCheck d y

/-- The rings that a die serves: partition, bank and number (R128). -/
def State.ringsOn (s : State) (d : Nat) : List (Nat × Nat × Nat) :=
  match s.partOfDie d with
  | none => []
  | some q => if s.running q then ((List.range 64).filter fun r => s.ringDie q r == d).map fun r => (q, s.ringBank q, r) else []

/-- Mapped rings of a die. -/
def State.mappedCount (s : State) (d : Nat) : Nat := ((s.dieAt d).rings.filter (·.mapped)).length

/-- RING_MAP (R144). -/
def State.mapRing (s : State) (d : Nat) (x : Ring) : State := s.setRing d { x with mapped := true, since := s.now d }

/-- RING_GETS_WORK (R144): mapped at once where a slot is free. -/
def execRingGetsWork (d q ring : Nat) (s : State) : Host.Outcome State Fault Refusal :=
  .next (
    if !(s.ringsOn d).contains (q, s.ringBank q, ring) then s
    else match s.ringLook d q (s.ringBank q) ring with
      | (s1, none) => s1
      | (s1, some (x, prod, cons)) =>
        if prod = cons ∨ x.mapped then s1
        else if s1.mappedCount d < 128 then s1.mapRing d x
        else s1)

/-- Rings in the order of their time, the lowest descriptor address on ties (R144). -/
def oldest (s : State) (xs : List Ring) : List Ring :=
  sortBy (fun a b => decide (a.since < b.since ∨ (a.since = b.since ∧ s.ringAt a.part a.bank a.num ≤ s.ringAt b.part b.bank b.num))) xs

/-- RING_ROTATION_TICK (R144). -/
def execRingRotationTick (d : Nat) (s : State) : Host.Outcome State Fault Refusal :=
  .next (
    let keys := s.ringsOn d
    let s0 := (s.dieAt d).rings.foldl (fun s x => if keys.contains (x.part, x.bank, x.num) then s else s.setRing d { x with mapped := false }) s
    let (s1, works) := keys.foldl (fun ((s, l) : State × List Ring) (k : Nat × Nat × Nat) =>
      match s.ringLook d k.1 k.2.1 k.2.2 with
      | (s', some (x, prod, cons)) => if prod = cons then (s'.setRing d { x with mapped := false }, l) else (s', l ++ [x])
      | (s', none) => (s', l)) (s0, [])
    let held := works.filter (·.mapped)
    let wait := works.filter fun x => !x.mapped
    let free := 128 - held.length
    let off := (oldest s1 held).take (min (wait.length - free) 128)
    let s2 := off.foldl (fun s x => s.setRing d { x with mapped := false, since := s.now d }) s1
    let waiting := wait ++ off.map fun x => { x with mapped := false, since := s1.now d }
    ((oldest s2 waiting).take (free + off.length)).foldl (fun s x => s.mapRing d x) s2)

/-- The slots of a graph ring consumed one by one (R121, R130); one whose header would be rejected waits while the event queue has no room for the
record (R141). -/
def State.drainRing (s : State) (d q bank r : Nat) : Nat → State
  | 0 => s
  | n + 1 =>
    match s.ring? d q bank r with
    | none => s
    | some x =>
      match s.ringCheck d x with
      | (s1, none) => s1
      | (s1, some (y, prod, cons)) =>
        if prod = cons then s1
        else match (s1.charge d q (slotVa y.d1.toNat (bf y.d0 56 5) cons) 128).engWords q (slotVa y.d1.toNat (bf y.d0 56 5) cons) 16 with
          | (s2, .error _) => s2.badRing d y
          | (s2, .ok h) =>
            let s3 := s2.admitGraph d y h
            let z := (s3.ring? d q bank r).getD y
            if 4096 < (s3.dieAt d).events.length then s1
            else (s3.retireSlot d z cons none).drainRing d q bank r n

/-- The slot of a collective ring consumed (R359): one call at a time. -/
def State.pollCall (s : State) (d : Nat) (x : Ring) : State :=
  match s.ringCheck d x with
  | (s1, none) => s1
  | (s1, some (y, prod, cons)) =>
    let c := (s1.call? d y.part y.bank y.num).getD (Call.init y.part y.bank y.num)
    if c.block ≠ [] then (match c.ending with
      | some (code, bytes, clip) => s1.endCall d c code bytes clip
      | none => if c.started then s1 else s1.startCall d c)
    else if prod = cons then s1
    else
      let a := slotVa y.d1.toNat (bf y.d0 56 5) cons
      if !s1.slotOk y.part a 128 then s1.badRing d y
      else match (s1.charge d y.part a 128).engWords y.part a 16 with
      | (s2, .error _) => s2.badRing d y
      | (s2, .ok b) => s2.startCall d { c with block := b, cons := cons, slotVa := a }

/-- RING_POLL (R121): a mapped ring's slots are consumed. -/
def execRingPoll (d q ring : Nat) (s : State) : Host.Outcome State Fault Refusal :=
  .next (
    let b := s.ringBank q
    match s.ring? d q b ring with
    | none => s
    | some x =>
      if !x.mapped ∨ !s.running q then s
      else if bf x.d0 61 2 = 2 then s.drainRing d q b ring (2 ^ 16)
      else s.pollCall d x)

/-! ## Instructions -/

/-- COLL (R360): the checks at issue; the release, the reading of the block and its arrival at the ring follow. -/
def execColl (la : BitVec 4) (x y z : GReg) (s : State) :=
  s.run (.coll la x y z) fun s =>
    let i : Instr := .coll la x y z
    let t := s.thr
    let q := t.part
    let va := s.eaOf (s.rd y)
    let r := (s.rd z).toNat
    if 63 < r then s.trap cXLATE 0#64
    else match s.ringWords q (s.cur / 16) r with
    | (s1, none) => s1.trap cXLATE 0#64
    | (s1, some ws) =>
      if !(ws.getD 0 0#64).getLsbD 63 || !ringOk ws then s1.trap cXLATE 0#64
      else if bf (ws.getD 0 0#64) 61 2 ≠ 1 then s1.trap cPERM 0#64
      else if va.toNat % 64 ≠ 0 then s1.trap cALIGN va
      else match s1.headerCheck va 128 with
      | .error c => s1.trap c va
      | .ok _ =>
        s1.long i va (.append 0 r 16 0 []) none none false

/-- CWAIT (R361): a wait is an issue that is tried again; the read acquires. -/
def execCwait (x y z : GReg) (poll : Bool) (s : State) :=
  s.run (.cwait x y z poll) fun s =>
    let va := s.eaOf (s.rd y)
    let q := s.thr.part
    if va.toNat % 16 ≠ 0 then s.trap cALIGN va
    else if va.toNat / 2 ^ 57 ≠ 0 ∨ !isPaged va.toNat then s.trap cXLATE va
    else match s.paged q va.toNat rRD with
    | .error c => s.trap c va
    | .ok l =>
      if s.watchHit s.thr va.toNat 8 1 then s.trap cWATCH va
      else if s.accessWaits va 8 l ∨ s.nowWaits [l] then s.park false
      else
        let r := (s.charge s.dieNo q va.toNat 8).memRead q l 8
        match trapOfCause (s.ptrap q) r.bad with
        | some tr => r.s.stopAt s.turn s.cur tr r.bad va s.thr.pc s.thr.pc none false
        | none =>
          let s1 := if r.bad = 7 then r.s.orSt flPZ else r.s
          if poll ∨ (r.v / 2 ^ 32 + 2 ^ 32 - (s.rd z).toNat % 2 ^ 32) % 2 ^ 32 < 2 ^ 31 then s1.wr x (W r.v) else s.park true

end Sys2Proof.Machine
end

