-- ==== Sys2Proof/Machine/Paging.lean ====
section
/-! DEFINITION. Translation commands, placement and page moves (spec/11 R229 to R236): the free frame pool, XCMD, the
qualifying pages of an interval, and the steps of a move and of a fill. Cached translations are not state: the rules of R229
leave a walk and a cached entry no different answer. -/
namespace Sys2Proof.Machine

/-- Bytes of a page of a size code (R230). -/
def pageBytes (z : Nat) : Nat := match z with | 0 => 2 ^ 16 | 1 => 2 ^ 21 | _ => 2 ^ 30

/-! ## The free frame pool -/

/-- The HPA of the bitmap byte of frame `i` of stack `k` (R230). -/
def State.poolByte (s : State) (q k i : Nat) : Nat := s.fld 10 0 (0x40 * q + 8) 21 19 * 2 ^ 21 + 0x20000 * k + i / 8

/-- Frame `i` of stack `k` is free for a partition (R230). -/
def State.frameFree (s : State) (q k i : Nat) : Bool := (s.seenUnder (· == s.keyOf q) (s.poolByte q k i)).getLsbD (i % 8)

/-- A run of `n` frames is free. -/
def State.runFree (s : State) (q k i n : Nat) : Bool := (List.range n).all fun j => s.frameFree q k (i + j)

/-- A run of `n` frames marked free or taken, by an atomic on a byte at a time (R230, R404). -/
def State.markFrames (s : State) (q k i n : Nat) (free : Bool) : State :=
  if n < 8 then
    let a := s.poolByte q k i
    let s := (s.hbmRead q a 1).s
    let b := (s.seenUnder (· == s.keyOf q) a).toNat
    let m := (2 ^ n - 1) * 2 ^ (i % 8)
    (s.hbmWrite q a 1 (if free then b ||| m else b - (b &&& m))).1
  else (List.range (n / 8)).foldl (fun x j =>
    ((x.hbmRead q (x.poolByte q k (i + 8 * j)) 1).s.hbmWrite q (x.poolByte q k (i + 8 * j)) 1 (if free then 255 else 0)).1) s

/-- The free frames of a stack. -/
def State.freeCount (s : State) (q k : Nat) : Nat :=
  (List.range 0x20000).foldl (fun c j => c + ((List.range 8).filter fun b => (s.seenUnder (· == s.keyOf q) (s.poolByte q k (8 * j))).getLsbD b).length) 0

/-- The first aligned free run for a page of a stack, as an HPA. -/
def State.findFrame (s : State) (q k z : Nat) : Option Nat :=
  let n := pageBytes z / 65536
  ((List.range (2 ^ 20 / n)).find? fun j => s.runFree q k (n * j) n).map fun j => k * 2 ^ 36 + 65536 * n * j

/-- The stack of die `d` with more free frames, stack 2d on a tie (R232). -/
def State.freerStack (s : State) (q d : Nat) : Nat := if s.freeCount q (2 * d) < s.freeCount q (2 * d + 1) then 2 * d + 1 else 2 * d

/-- The frame to which placement moves a page of die `d` (R232): on its stack with more free frames. -/
def State.placeOn (s : State) (q d z : Nat) : Option Nat := s.findFrame q (s.freerStack q d) z

/-- The frame that a command finds on die `d` (R231): on its stack with more free frames, or on the other one where that has no run
(DESIGN CHOICE, log 26). -/
def State.frameOn (s : State) (q d z : Nat) : Option Nat := (s.placeOn q d z).or (s.findFrame q (4 * d + 1 - s.freerStack q d) z)

/-- The frames of a page at an HPA marked. -/
def State.markPage (s : State) (q h z : Nat) (free : Bool) : State :=
  s.markFrames q (h / 2 ^ 36) (h % 2 ^ 36 / 65536) (pageBytes z / 65536) free

/-- Every line of a frame unfilled with zero as its source (R31, R235; DEDUCED, log 26): it reads as zero with its full/empty bits
full. -/
def State.zeroFrame (s : State) (h n : Nat) : State :=
  { s with lines := s.lines.filter fun e => !(decide (h / 64 ≤ e.1) && decide (e.1 < (h + n) / 64)) }

/-- A frame that is given up zero-filled (R231, R234), each line a write that its stack counts (R404). -/
def State.wipeFrame (s : State) (h n : Nat) : State :=
  (List.range (n / 64)).foldl (fun s i => s.countWrite (h + 64 * i)) (s.zeroFrame h n)

/-- The bundles held of a page dropped: a fetch through a new mapping reads memory (R235, R237). -/
def State.dropFetch (s : State) (q va n : Nat) : State :=
  { s with fetchBuf := s.fetchBuf.filter fun e => !(e.1 / 2 ^ 57 == q && decide (va ≤ e.1 % 2 ^ 57) && decide (e.1 % 2 ^ 57 < va + n)) }

/-- No die channel of the partition observes a page any more (R362). -/
def State.dropWatch (s : State) (q va n : Nat) : State :=
  { s with dies := s.dies.map fun (k, d) => (k, { d with chans := d.chans.map fun (i, c) =>
      (i, if c.part = q then { c with pages := c.pages.filter fun e => !(decide (va ≤ e.1 * 65536) && decide (e.1 * 65536 < va + n)) } else c) }) }

/-- Every line of a new frame unfilled with the line of the old frame as its source (R234). -/
def State.copyFrame (s : State) (new old n : Nat) : State :=
  { s with lines := s.lines.filter (fun e => decide (e.1 < new / 64)) ++
      (tofn (new / 64) (n / 64) fun i => { LineMeta.init with unfilled := some (.copy (old / 64 + i)) }) ++
      s.lines.filter (fun e => decide ((new + n) / 64 ≤ e.1)) }

/-- A frame has an unfilled line. -/
def State.anyUnfilled (s : State) (h n : Nat) : Option Nat :=
  (List.range (n / 64)).find? fun i => (s.lineOf (h + 64 * i)).unfilled.isSome

/-! ## Entries -/

/-- The address of the entry for a page of a size code, in the tables at PTROOT.BASE whatever EN says (R226, R231): `found` is a
leaf of a larger page on the path. -/
inductive Slot where
  | noTable
  | larger
  | at_ (a : Nat)
  deriving DecidableEq, Repr

/-- The place of a page's entry (R226, R231). -/
def State.entrySlot (s : State) (q va z : Nat) : Slot :=
  let root := s.fld 10 0 (0x40 * q) 20 20 * 2 ^ 20
  let e0 := s.seenWord q (root + 8 * (va / 2 ^ 39 % 2 ^ 17))
  if !ptrOk e0 4096 then .noTable
  else
    let a1 := entAddr e0 + 8 * (va / 2 ^ 30 % 512)
    if z = 2 then .at_ a1
    else
      let e1 := s.seenWord q a1
      if leafOk e1 (2 ^ 30) then .larger
      else if !ptrOk e1 4096 then .noTable
      else
        let a2 := entAddr e1 + 8 * (va / 2 ^ 21 % 512)
        if z = 1 then .at_ a2
        else
          let e2 := s.seenWord q a2
          if leafOk e2 (2 ^ 21) then .larger
          else if !ptrOk e2 256 then .noTable
          else .at_ (entAddr e2 + 8 * (va / 2 ^ 16 % 32))

/-- The valid leaf of exactly the commanded page, with its address (R231). -/
def State.leafOf (s : State) (q va z : Nat) : Option (Nat × Word) :=
  match s.entrySlot q va z with
  | .at_ a => let e := s.seenWord q a; if leafOk e (pageBytes z) then some (a, e) else none
  | _ => none

/-- An entry written by the device. -/
def State.putEntry (s : State) (q a : Nat) (e : Word) : State := (s.hbmWrite q a 8 e.toNat).1

/-- A move or fill of a page in progress. -/
def State.moveOf (s : State) (q va : Nat) : Option PageMove := (s.partAt q).moves.find? fun m => m.va == va

/-- A move's record set or removed. -/
def State.setMove (s : State) (q va : Nat) (m : Option PageMove) : State :=
  let x := s.partAt q
  s.setPart q { x with moves := match m with
    | some y => x.moves.map fun e => if e.va = va then y else e
    | none => x.moves.filter (·.va ≠ va) }

/-- A location lies in a range of HBM or of host memory. -/
def Loc.within (l : Loc) (host : Bool) (a n : Nat) : Bool :=
  match l with
  | .hbm h => !host && decide (a ≤ h) && decide (h < a + n)
  | .host h => host && decide (a ≤ h) && decide (h < a + n)
  | _ => false

/-- An outstanding access waits at its stack controller (R246). -/
def Act.isSync : Act → Bool
  | .cons _ _ _ => true
  | _ => false

/-- An access translated to a range has not performed, or is not acknowledged (R231, R234); `syncs` counts the synchronising
accesses that wait. -/
def State.inFlight (s : State) (host : Bool) (a n : Nat) (syncs : Bool) : Bool :=
  s.cells.any fun (_, c) => c.slots.any fun (_, t?) =>
    match t? with
    | none => false
    | some t => t.posted.any (fun p => p.loc.within host a n && (syncs || !p.sync || p.performed)) ||
        t.out.any (fun p => p.perf.isNone && p.act.locs.any (fun l => l.within host a n) && (syncs || !p.act.isSync))

/-! ## Commands -/

/-- A command completes (R231). -/
def State.xdone (s : State) (q r : Nat) : State :=
  let s1 := (s.setFld 10 0 (0x40 * q + 0x30) 8 1 0).setFld 10 0 (0x40 * q + 0x30) 0 4 r
  s1.setPart q { s1.partAt q with xcmd := none }

/-- A command that every page command answers with FIELD (R231). -/
def State.xfield (s : State) (q : Nat) (x : XCmd) : Bool :=
  decide (x.size = 3) || x.va % pageBytes x.size != 0 || !isPaged x.va ||
  (x.op == 1 && x.arg.getLsbD 63 && x.arg.getLsbD 62) ||
  (((x.op == 1 && x.arg.getLsbD 63) || x.op == 4) && !s.dieIn q (bf x.arg 52 3)) ||
  (x.op == 1 && !x.arg.getLsbD 63 && bf x.arg 16 36 * 65536 % pageBytes x.size != 0)

/-- The leaf that MAP writes (R227, R231). -/
def xleaf (arg : Word) (frame : Nat) (moving : Bool) : Word :=
  W (2 ^ 63 + 2 ^ 62 + bf arg 57 5 * 2 ^ 57 + bf arg 62 1 * 2 ^ 56 + frame / 256 * 256 + if moving then 128 else 0)

/-- A page of HBM mapped to a frame (R235). -/
def State.mapHbm (s : State) (q : Nat) (x : XCmd) (a h : Nat) : State :=
  let s1 := ((s.markPage q h x.size false).zeroFrame h (pageBytes x.size)).putEntry q a (xleaf x.arg h true)
  let y := s1.partAt q
  (s1.setPart q { y with moves := y.moves ++ [{ va := x.va, size := x.size, leaf := a, old := none, new := h, stalled := false, isCmd := false }] }).xdone q 0

/-- MAP (R231). -/
def State.xmap (s : State) (q : Nat) (x : XCmd) : State :=
  match s.entrySlot q x.va x.size with
  | .noTable => s.xdone q 6
  | .larger => s.xdone q 4
  | .at_ a =>
    let s := s.dropFetch q x.va (pageBytes x.size)
    if (s.seenWord q a).getLsbD 63 then s.xdone q 4
    else if x.arg.getLsbD 63 then
      match s.frameOn q (bf x.arg 52 3) x.size with
      | none => s.xdone q 2
      | some h => s.mapHbm q x a h
    else
      let f := bf x.arg 16 36 * 65536
      if x.arg.getLsbD 62 then (s.putEntry q a (xleaf x.arg f false)).xdone q 0
      else if f / 2 ^ 40 = 0 && s.dieIn q (f / 2 ^ 37) && s.runFree q (f / 2 ^ 36) (f % 2 ^ 36 / 65536) (pageBytes x.size / 65536) then
        s.mapHbm q x a f
      else s.xdone q 7

/-- The last part of UNMAP and PROTECT: the command waits until every access translated through the entry has performed; an
unmapped frame, and the old frame of a page that was being filled, are zero-filled and freed (R231, R236). -/
def State.xflush (s : State) (q : Nat) (x : XCmd) : State :=
  match x.flushed with
  | none => s
  | some (host, a, n) =>
    if s.inFlight host a n true then s
    else if x.op = 2 ∧ !host then
      let s1 := match s.moveOf q x.va with
        | some m => (match m.old with
          | some o => (s.wipeFrame o n).markPage q o x.size true
          | none => s).setMove q x.va none
        | none => s
      ((s1.wipeFrame a n).markPage q a x.size true).xdone q 0
    else s.xdone q 0

/-- An entry changed and flushed by a command, which then waits (R231); its page is observed no more (R362). -/
def State.xchange (s : State) (q : Nat) (x : XCmd) (a : Nat) (old new : Word) : State :=
  let y := { x with flushed := some (old.getLsbD 56, entAddr old / pageBytes x.size * pageBytes x.size, pageBytes x.size) }
  let s1 := ((s.putEntry q a new).dropFetch q x.va (pageBytes x.size)).dropWatch q x.va (pageBytes x.size)
  (s1.setPart q { s1.partAt q with xcmd := some y }).xflush q y

/-- A page's move begins (R234): the frame is taken, MOVING set, and its translations stall. -/
def State.beginMove (s : State) (q va z a : Nat) (e : Word) (h : Nat) (cmd : Bool) : State :=
  let s1 := (s.markPage q h z false).putEntry q a (bset e 7 1 1)
  let y := s1.partAt q
  s1.setPart q { y with moves := y.moves ++ [{ va := va, size := z, leaf := a, old := some (entAddr e / pageBytes z * pageBytes z), new := h,
                                               stalled := true, isCmd := cmd }] }

/-- A page meets the replica state of a valid object of a die of the partition (R233). -/
def State.meetsReplica (s : State) (q va n : Nat) : Bool :=
  (s.diesOf q).any fun d => (List.range (2 ^ s.fld 4 d (0x40 * q) 0 5)).any fun i =>
    match (s.readObj d q i).2 with
    | some (o, g) => decide (o.addr < va + n) && decide (va < o.addr + stateBytes o g.mem.length)
    | none => false

/-- A frame meets the window of an armed die channel (R197, R233). -/
def State.meetsChannel (s : State) (h n : Nat) : Bool :=
  (s.dieAt (h / 2 ^ 37)).chans.any fun (_, c) => c.mode != 0 && c.pages.any fun e => decide (e.2 < h + n) && decide (h < e.2 + 65536)

/-- MOVE (R231, R233, R234); a page that placement may not move otherwise gives PINNED. -/
def State.xmove (s : State) (q : Nat) (x : XCmd) (a : Nat) (e : Word) : State :=
  let n := pageBytes x.size
  let h := entAddr e / n * n
  if x.size = 2 ∨ e.getLsbD 56 then s.xdone q 1
  else if e.getLsbD 57 ∨ s.meetsReplica q x.va n ∨ s.meetsChannel h n then s.xdone q 5
  else match s.frameOn q (bf x.arg 52 3) x.size with
    | none => (s.bump 10 0 (0x40 * q + 0x38) 0 32 1).xdone q 2
    | some f => s.beginMove q x.va x.size a e f true

/-- A command begins or tries again (R231). DEDUCED, log 43. -/
def State.xgo (s : State) (q : Nat) (x : XCmd) : State :=
  if x.flushed.isSome then s.xflush q x
  else if x.op = 7 then s.xdone q 0
  else if s.xfield q x then s.xdone q 1
  else
    let moving := s.moveOf q x.va
    if (match moving with | some m => x.op != 2 || m.stalled | none => false) then s
    else if x.op = 1 then s.xmap q x
    else match s.leafOf q x.va x.size with
      | none => s.xdone q 3
      | some (a, e) =>
        match x.op with
        | 2 => s.xchange q x a e (bset e 63 1 0)
        | 3 => s.xchange q x a e (bset e 58 4 (bf x.arg 58 4))
        | 4 => s.xmove q x a e
        | 5 => (s.putEntry q a (bset e 57 1 1)).xdone q 0
        | _ => (s.putEntry q a (bset e 57 1 0)).xdone q 0

/-- A write of XCMD (R230, R231): ERR while a command is in progress. -/
def State.xcmd (s : State) (q op : Nat) : State :=
  let o := 0x40 * q
  if s.fld 10 0 (o + 0x30) 8 1 = 1 then (s.setFld 10 0 (o + 0x30) 9 1 1).recordRefusal 10 0 (o + 0x28)
  else if op = 0 then s
  else
    let v := s.reg 10 0 (o + 0x18)
    let x : XCmd := { op := op, va := bf v 16 41 * 65536, size := bf v 0 2, arg := s.reg 10 0 (o + 0x20), flushed := none }
    let s1 := s.setFld 10 0 (o + 0x30) 8 1 1
    (s1.setPart q { s1.partAt q with xcmd := some x }).xgo q x

/-- MAP. -/
def execMap (q : Nat) (s : State) : Host.Outcome State Fault Refusal := .next (s.xcmd q 1)
/-- UNMAP. -/
def execUnmap (q : Nat) (s : State) : Host.Outcome State Fault Refusal := .next (s.xcmd q 2)
/-- PROTECT. -/
def execProtect (q : Nat) (s : State) : Host.Outcome State Fault Refusal := .next (s.xcmd q 3)
/-- MOVE. -/
def execMove (q : Nat) (s : State) : Host.Outcome State Fault Refusal := .next (s.xcmd q 4)
/-- PIN. -/
def execPin (q : Nat) (s : State) : Host.Outcome State Fault Refusal := .next (s.xcmd q 5)
/-- UNPIN. -/
def execUnpin (q : Nat) (s : State) : Host.Outcome State Fault Refusal := .next (s.xcmd q 6)
/-- FLUSH. -/
def execFlush (q : Nat) (s : State) : Host.Outcome State Fault Refusal := .next (s.xcmd q 7)

/-- XCMD_COMPLETE: a command that waits tries again (R231). -/
def execXcmdComplete (q : Nat) (s : State) : Host.Outcome State Fault Refusal :=
  .next (match (s.partAt q).xcmd with
    | none => s
    | some x => if x.op = 4 ∧ (s.moveOf q x.va).isSome then s else s.xgo q x)

/-- PTROOT_WRITE (R230). -/
def execPtrootWrite (q : Nat) (v : Word) (s : State) : Host.Outcome State Fault Refusal :=
  .next (if writeBad 10 (0x40 * q) v then s.refuse 10 0 (0x40 * q) else s.storeReg 10 0 (0x40 * q) v)

/-! ## Placement -/

/-- A page that has been accessed in the interval (R232): VA, size code, entry with its address, and accesses by die. -/
structure Hot where
  va : Nat
  size : Nat
  leaf : Nat
  e : Word
  n : Tab Nat
  deriving DecidableEq, Repr

/-- The pages of 64 KiB and 2 MiB that the counts of an interval name (R232). -/
def State.hotPages (s : State) (q : Nat) : List Hot :=
  (s.partAt q).counts.foldl (fun l (k, c) =>
    let va := k / 8 * 65536
    match s.walkRaw q va with
    | none => l
    | some f =>
      if f.e.getLsbD 56 ∨ f.size = 2 ^ 30 then l
      else
        let b := va / f.size * f.size
        let d := k % 8
        if l.any fun h => h.va == b then l.map fun h => if h.va = b then { h with n := tput h.n d (tget (fun _ => 0) h.n d + c) } else h
        else l ++ [{ va := b, size := if f.size = 2 ^ 21 then 1 else 0, leaf := f.at_, e := f.e, n := [(d, c)] }]) []

/-- The HPA of a page's frame. -/
def Hot.frame (h : Hot) : Nat := entAddr h.e / pageBytes h.size * pageBytes h.size

/-- The die for which a page qualifies, with its count (R232): the one with most accesses, the lowest on a tie. -/
def Hot.wants (h : Hot) (thr : Nat) : Option (Nat × Nat) :=
  let own := h.frame / 2 ^ 37
  let o := tget (fun _ => 0) h.n own
  (h.n.filter fun (d, c) => d != own && decide (thr ≤ c) && decide (2 * o ≤ c)).foldl (fun b (d, c) =>
    match b with
    | none => some (d, c)
    | some (d', c') => if c' < c ∨ (c' = c ∧ d < d') then some (d, c) else some (d', c')) none

/-- A page that placement may move now (R232, R233). -/
def State.mayMove (s : State) (q : Nat) (h : Hot) : Bool :=
  let n := pageBytes h.size
  !h.e.getLsbD 57 && (s.moveOf q h.va).isNone && !s.meetsReplica q h.va n && !s.meetsChannel h.frame n &&
  !((s.partAt q).moved.any fun (v, t) => v == h.va && decide ((s.tb ((s.diesOf q).headD 0)).toNat < t + 10000000))

/-- Up to `k` moves started in order (R232). -/
def State.startMoves (s : State) (q : Nat) : Nat → List (Nat × Nat × Hot) → State
  | 0, _ => s
  | _, [] => s
  | k + 1, (d, _, h) :: r =>
    match s.placeOn q d h.size with
    | none => (s.bump 10 0 (0x40 * q + 0x38) 0 32 1).startMoves q (k + 1) r
    | some f => (s.beginMove q h.va h.size h.leaf h.e f false).startMoves q k r

/-- PLACEMENT_INTERVAL: the qualifying pages of the last 1 ms, up to 16 moves (R232, R233); the counts start again. -/
def execPlacementInterval (q : Nat) (s : State) : Host.Outcome State Fault Refusal :=
  .next (
    let thr := max 1 (s.fld 10 0 (0x40 * q + 0x10) 16 16)
    let l := if s.fld 10 0 (0x40 * q + 0x10) 0 1 = 1 then
        (s.hotPages q).foldl (fun l h => match h.wants thr with
          | some (d, c) => if s.dieIn q d ∧ s.mayMove q h then l ++ [(d, c, h)] else l
          | none => l) []
      else []
    let s1 := s.setPart q { s.partAt q with counts := [] }
    s1.startMoves q 16 (sortBy (fun x y => decide (y.2.1 < x.2.1 ∨ (y.2.1 = x.2.1 ∧ x.2.2.va ≤ y.2.2.va))) l))

/-! ## Moves and fills -/


/-- A location in the old frame as one in the new frame. -/
def Loc.moved (old new n : Nat) (l : Loc) : Loc :=
  match l with
  | .hbm h => if old ≤ h ∧ h < old + n then .hbm (new + (h - old)) else l
  | _ => l

/-- The synchronising accesses that wait on a page's words wait on the new frame's words; a barrier wait leaves the old list and is tried again
(R234, DEDUCED, log 26). -/
def State.moveWaits (s : State) (old new n : Nat) : State :=
  let hit := fun (w : SyncWait) => decide (old ≤ w.hpa) && decide (w.hpa < old + n)
  let x := s.stackAt (old / 2 ^ 36)
  let left := fun (t : Thread) => match t.wait with
    | .barHeld _ l _ => l.within false old n
    | _ => false
  let s1 := s.setStack (old / 2 ^ 36) { x with syncs := x.syncs.filter (fun w => !hit w), bars := x.bars.filter fun b => !left (s.thrAt b.1 b.2) }
  let y := s1.stackAt (new / 2 ^ 36)
  let s2 := s1.setStack (new / 2 ^ 36) { y with syncs := y.syncs ++ (x.syncs.filter hit).map fun w => { w with hpa := new + (w.hpa - old) } }
  { s2 with cells := s2.cells.map fun (i, c) => (i, { c with slots := c.slots.map fun (k, t?) => (k, t?.map fun t =>
      { t with wait := if left t then .none else t.wait,
               posted := t.posted.map (fun p => if p.sync && !p.performed then { p with loc := p.loc.moved old new n } else p),
               out := t.out.map (fun p => match p.act with
                 | .cons l d sc => if p.perf.isNone then { p with act := .cons (l.moved old new n) d sc } else p
                 | _ => p) }) }) }

/-- PAGE_MOVE_SWITCH: once every access through the old entry has performed, the new address is in force (R234, steps 3
and 4). -/
def execPageMoveSwitch (q : Nat) (va : Word) (s : State) : Host.Outcome State Fault Refusal :=
  .next (match s.moveOf q va.toNat with
    | none => s
    | some m =>
      match m.old with
      | none => s
      | some o =>
        let n := pageBytes m.size
        if !m.stalled ∨ s.inFlight false o n false then s
        else
          let e := s.seenWord q m.leaf
          let e1 := W (e.toNat - bf e 8 44 * 256 + m.new / 256 * 256)
          let s1 := ((s.copyFrame m.new o n).putEntry q m.leaf e1).moveWaits o m.new n
          let s2 := s1.setMove q m.va (some { m with stalled := false })
          if m.isCmd then s2.xdone q 0 else s2)

/-- BACKGROUND_FILL: the next unfilled line in ascending address (R234, R235); it stalls with a rehash (R236). -/
def execBackgroundFill (q : Nat) (va : Word) (s : State) : Host.Outcome State Fault Refusal :=
  .next (match s.moveOf q va.toNat with
    | none => s
    | some m =>
      if m.stalled || s.rehashing m.new || (m.old.map fun o => s.rehashing o).getD false then s
      else match s.anyUnfilled m.new (pageBytes m.size) with
        | none => s
        | some i => s.touch (m.new + 64 * i) (s.keyOf q))

/-- PAGE_MOVE_FINISH: no line is unfilled; the old frame is zero-filled and freed, MOVING clears (R234); a fill of MAP only
clears MOVING (R235). -/
def execPageMoveFinish (q : Nat) (va : Word) (s : State) : Host.Outcome State Fault Refusal :=
  .next (match s.moveOf q va.toNat with
    | none => s
    | some m =>
      let n := pageBytes m.size
      if m.stalled ∨ (s.anyUnfilled m.new n).isSome then s
      else
        let s1 := (s.setMove q m.va none).putEntry q m.leaf (bset (s.seenWord q m.leaf) 7 1 0)
        match m.old with
        | none => s1
        | some o =>
          let s2 := ((s1.wipeFrame o n).markPage q o m.size true).bump 10 0 (0x40 * q + 0x38) 32 32 1
          s2.setPart q { s2.partAt q with moved := tput (s2.partAt q).moved m.va (s2.tb ((s2.diesOf q).headD 0)).toNat })

end Sys2Proof.Machine
end

