-- ==== Sys2Proof/Machine/Peer.lean ====
section
/-! DEFINITION. The end-to-end streams (spec/03 R57 to R59), the target side of peer access (R61, R62, R71, R72; spec/11 R244 to
R246; spec/08 R160, R161), and the answers to a thread's peer accesses. -/
namespace Sys2Proof.Machine

/-! ## Receiving -/

/-- The access of a request waits at its target: its page, or that of the device bitmap, is being moved (R234, R236), or the stack of either or of the
window entry rehashes (R44). -/
def State.peerStall (s : State) (x : Desc) : Bool :=
  let a := s.fld 3 0 0x48 21 36 * 2 ^ 21 + 32 * x.rwin.toNat
  let q := bf (s.tableAt a) 51 3
  let va := bf (s.tableAt (a + 8)) 0 57 + x.offset.toNat
  s.engStall q va || s.rehashing a || ((s.tableAt a).getLsbD 50 && s.engStall q (bf (s.tableAt (a + 16)) 0 57))

/-- A request that arrives: carried out if its stream accepts it. -/
def State.onPacket (s : State) (p : Packet) (f : State → State) : Host.Outcome State Fault Refusal :=
  .next (if (p.desc.map s.peerStall).getD false then s
    else match s.accept p with
    | (s1, true) => f s1
    | (s1, false) => s1)

/-- SYN (R59). -/
def execSyn (dev : Nat) (user : Bool) (nonce : Word) (i : BitVec 16) (s : State) : Host.Outcome State Fault Refusal :=
  .next (s.letIn 0x03 fun s => 
    let x := s.rxOf dev user
    if x.nonce ≠ some nonce ∨ (i - x.exp).toNat < 2 ^ 15 then s.setRx dev user { nonce := some nonce, exp := i, map := 0#64 }
    else s)

/-- E2E_GAP_TIMEOUT: a later number has been accepted and EXP is missing: NAK(EXP) (R57). -/
def execE2eGapTimeout (dev : Nat) (user : Bool) (s : State) : Host.Outcome State Fault Refusal :=
  .next (
    let x := s.rxOf dev user
    if x.nonce.isSome && x.map != 0#64 then s.sendNum 0x02 dev user x.exp else s)

/-! ## Sending -/

/-- The lowest unacknowledged number of a stream. -/
def TxStream.low (x : TxStream) : BitVec 16 := (x.unacked.head?.map (·.seq)).getD x.next

/-- A location lies behind a device's window. -/
def Loc.onDev (l : Loc) (dev : Nat) : Bool :=
  match l with
  | .peer d _ _ => d == dev
  | _ => false

/-- Every posted access of a thread to a device answered with UNREACH (R58, R72). -/
def State.failPosted (s : State) (n k dev : Nat) : State :=
  (List.range (s.thrAt n k).posted.length).foldl (fun s _ =>
    match (s.thrAt n k).posted.findIdx? fun p => p.loc.onDev dev with
    | some i => s.ackPosted n k i 8
    | none => s) s

/-- What a thread awaits from a device whose stream failed ends with UNREACH (R58, R72, R187). -/
def State.failThread (s : State) (n k dev : Nat) : State :=
  let t := s.thrAt n k
  if t.site = .peer dev then
    let s1 := (((s.dropGuest n k).setThrAt n k { t with site := .home, refusals := 0, wait := .none, homeAt := s.cycle + 1 }).applyFills n k)
    (s1.answer n k t.lastOut.1 0#64 8).dstopOn t.part
  else
    let s1 := s.failPosted n k dev
    match (s1.thrAt n k).out.findIdx? fun p => p.perf.isNone && p.act.locs.any (·.onDev dev) with
    | some i => s1.answer n k i 0#64 8
    | none => s1

/-- A frame that its origin has to offer again (R256): a notification to its partition's list, a thread's frame to the
thread. -/
def State.unsend (s : State) (p : Packet) : State :=
  let f := frameOfWords p.pay
  let q := bf f.origin 37 3
  if f.notify then s.keepNote q f (some (p.ddev.toNat, p.ks.toNat % 8))
  else
    let n := 64 * bf f.origin 50 3 + bf f.origin 44 6
    let k := 16 * bf f.origin 36 1 + bf f.origin 40 4
    let t := s.thrAt n k
    if (t.stop.map (·.token)) = some f.token then s.setThrAt n k { t with sent := false } else s

/-- STREAM_FAIL (R58, R59): every waiting request gets UNREACH, copies halt and collectives end (R104, R162), unsent frames stay with their origin, and the
stream is reopened with the next unused number. -/
def State.streamFail (s : State) (dev : Nat) (user : Bool) : State :=
  let x := s.txOf dev user
  let lost := x.unacked ++ x.waiting
  let s1 := s.setTx dev user { x with unacked := [], waiting := [], again := [], base := x.next, resends := 0 }
  let s2 := if user then
      s1.cells.foldl (fun s (n, c) => c.slots.foldl (fun s (k, t) => if t.isSome then s.failThread n k dev else s) s) s1
    else s1.chans.foldl (fun s (i, c) => if c.flying.any (fun e => e.1 == dev) then s.copyFail (i / 32) (i % 32) 5 else s) (s1.collLost lost)
  let s3 := lost.foldl (fun s p => if p.kind = 0x34#8 then s.unsend p else s) s2
  s3.emitSyn dev user x.next

/-- The packets of a stream from number `n` on sent again in order, routed afresh; the eighth resend without progress
having passed, the stream fails (R58). -/
def State.resend (s : State) (dev : Nat) (user : Bool) (n : BitVec 16) : State :=
  let x := s.txOf dev user
  if x.unacked.isEmpty then s
  else if 8 ≤ x.resends then s.streamFail dev user
  else
    let l := x.unacked.filter fun p => decide ((p.seq - n).toNat < 2 ^ 15)
    l.foldl (fun s p => s.launchPkt p) (s.setTx dev user { x with resends := x.resends + 1, again := l.map (·.seq) })

/-- ACK (R58): every packet below the number is freed, and packets that wait take the room; copies to the device move on (R163,
R165). -/
def execAck (dev : Nat) (user : Bool) (a : BitVec 16) (s : State) : Host.Outcome State Fault Refusal :=
  .next (s.letIn 0x01 fun s => 
    let x := s.txOf dev user
    if 2 ^ 15 ≤ (x.next - a).toNat then s
    else
      let l := x.unacked.filter fun p => decide ((p.seq - a).toNat < 2 ^ 15)
      if x.unacked.length ≤ l.length then s
      else
        let s1 := (s.setTx dev user { x with unacked := l, base := a, again := x.again.filter fun m => l.any fun p => p.seq == m, resends := 0 }).admitAll dev user
        if user then s1
        else s1.chans.foldl (fun s (i, c) => if c.flying.any (fun e => e.1 == dev) then s.copyAcked (i / 32) (i % 32) else s) s1)

/-- NAK (R58): below the lowest unacknowledged number it is stale; during a resend that has not yet passed the number it is
ignored: the resent packet is still queued at a port. -/
def execNak (dev : Nat) (user : Bool) (n : BitVec 16) (s : State) : Host.Outcome State Fault Refusal :=
  .next (s.letIn 0x02 fun s => 
    let x := s.txOf dev user
    if 2 ^ 15 ≤ (n - x.low).toNat ∨ (x.again.contains n ∧ s.queuedPkt dev user n) then s else s.resend dev user n)

/-- RETRANSMIT_TIMEOUT (R58). DESIGN CHOICE, log 60. -/
def execRetransmitTimeout (dev : Nat) (user : Bool) (s : State) : Host.Outcome State Fault Refusal :=
  .next (s.resend dev user (s.txOf dev user).low)

/-- RESYNC (R59): SYN with the lowest unacknowledged number, then the resend. -/
def execResync (dev : Nat) (user : Bool) (_nonce : Word) (s : State) : Host.Outcome State Fault Refusal :=
  .next (s.letIn 0x04 fun s => 
    let x := s.txOf dev user
    let s1 := (s.setTx dev user { x with opened := true }).emitSyn dev user x.low
    x.unacked.foldl (fun s p => s.launchPkt p) s1)

/-! ## The target's checks -/

/-- The bit of a device in the bitmap of a MODE 1 window, or nothing where it cannot be read (R71). -/
def State.mapBit (s : State) (q map dev : Nat) : State × Option Bool :=
  match s.engRead q (map + dev / 8) 1 with
  | .error _ => (s, none)
  | .ok r => if r.bad ≠ 0 then (r.s, none) else (r.s, some (r.v / 2 ^ (dev % 8) % 2 == 1))

/-- PEER_CHECK (R71, R72): the window entry's line is read under its owner's key (R33, R34); the checks of a request for `n` bytes at an offset of a window, with the rights needed: the
first cause that fails, or the partition and the HPA. -/
def State.peerCheck (s : State) (x : Desc) (dev off n need : Nat) : State × Except Nat (Nat × Nat) :=
  let tw := s.reg 3 0 0x48
  if !x.zeroOk || !tw.getLsbD 0 then (s, .error 1)
  else
    let a := bf tw 21 36 * 2 ^ 21 + 32 * x.rwin.toNat
    let s0 := s.openLine (s.ownerKey a) a
    let (w0, w1, w2, w3) := s0.window x.rwin.toNat
    if s0.lineBad a || !windowOk (w0, w1, w2, w3) then (s0, .error 1)
    else
      let (s1, peer) := if w0.getLsbD 50 then s0.mapBit (bf w0 51 3) w2.toNat dev else (s0, some (w2.toNat == x.group.toNat))
      match peer with
      | none => (s1, .error 1)
      | some false => (s1, .error 2)
      | some true => (s1, s1.windowPage w0 w1 off n need)

/-- The extent of a byte mask: one past its highest set bit. -/
def maskEnd (m : Nat) : Nat := if m = 0 then 1 else Nat.log2 m + 1

/-- A line written under a byte mask for partition `q` (R33); a whole line takes a fresh tag. -/
def State.maskedWrite (s : State) (q h mask v : Nat) : State × Nat :=
  let b := h / 64 * 64
  if mask = 2 ^ 64 - 1 then (s.hbmWriteLine q b (BitVec.ofNat 512 v), 0) else s.hbmWriteMask q b mask v

/-- The answer to a request: a packet of a kind to its sender, poisoned with a cause where that is not 0 (R72). -/
def State.reply (s : State) (p : Packet) (kind len cause : Nat) (pay : List Word) : State :=
  s.emit { s.blank kind (if cause = 0 then len else 1) p.sdev.toNat true with
    ddie := p.sdie, sdie := p.ddie, ks := BitVec.ofNat 45 p.seq.toNat, poison := cause != 0, cause := BitVec.ofNat 4 cause,
    pay := if cause = 0 then pay else [] }

/-- A packet without a descriptor is answered as one with a nonzero zero field. -/
def descOr (p : Packet) : Desc :=
  p.desc.getD { rwin := 0#16, group := 0#16, offset := 0#40, sz := 0#2, acq := false, rel := false, sc := 0#2, op := 0#4, slot := 0#4, cid := 0#6, mask := 0#64, zeroOk := false }

/-- Bytes of a descriptor's size code. -/
def descN (x : Desc) : Nat := 2 ^ x.sz.toNat

/-- A consuming read of another device at its stack: it performs, waits in the list, or stays to be tried again where the list is full. -/
def State.consArrive (s : State) (p : Packet) (q h : Nat) : State :=
  let k := h / 2 ^ 36
  let w : SyncWait := { cell := 0, slot := q, seq := p.seq.toNat, store := false, hpa := h, pkt := some p }
  let s0 := s.openLine (s.keyOf q) h
  if s0.lineBad h || (s0.feBit h && !(s0.stackAt k).syncs.any (fun v => v.hpa == h && !v.store)) then s0.consPkt k w p
  else if (s0.stackAt k).syncs.length < 1024 then s0.setStack k { s0.stackAt k with syncs := (s0.stackAt k).syncs ++ [w] }
  else { s0 with outbox := s0.outbox ++ [p] }

/-- A RDREQ is the consuming read of an ldsy: of acquire and release class (R326; DESIGN CHOICE, log 68). -/
def consRead (x : Desc) : Bool := x.acq && x.rel

/-- RDREQ (R61, R71): the bytes of one line that the mask selects. -/
def execRdreq (p : Packet) (s : State) : Host.Outcome State Fault Refusal :=
  s.onPacket p fun s =>
    let x := descOr p
    let b := x.offset.toNat / 64 * 64
    match s.peerCheck x p.sdev.toNat b (maskEnd x.mask.toNat) (if consRead x then rRD + rWR else rRD) with
    | (s1, .error c) => s1.reply p 0x11 2 c []
    | (s1, .ok (q, h)) =>
      if consRead x then s1.consArrive p q (h / 64 * 64 + x.offset.toNat % 64 / 8 * 8)
      else
      let r := s1.hbmRead q (h / 64 * 64) 64
      if r.bad ≠ 0 then r.s.reply p 0x11 2 7 []
      else
        let v := (maskRuns x.mask.toNat).foldl (fun a (i, n) => a + (r.v / 2 ^ (8 * i) % 2 ^ (8 * n)) * 2 ^ (8 * i)) 0
        r.s.reply p 0x11 2 0 (wordsOf v 8)

/-- WRITE (R61, R71, R244). -/
def execWrite (p : Packet) (s : State) : Host.Outcome State Fault Refusal :=
  s.onPacket p fun s =>
    let x := descOr p
    let b := x.offset.toNat / 64 * 64
    match s.peerCheck x p.sdev.toNat b (maskEnd x.mask.toNat) rWR with
    | (s1, .error c) => s1.reply p 0x13 1 c []
    | (s1, .ok (q, h)) =>
      let (s2, bad) := s1.maskedWrite q h x.mask.toNat (numWords (p.pay.take 8))
      s2.reply p 0x13 1 bad []

/-- The atomic of an AMO or AMOREQ packet (R62, R328): the cause, or the old value. -/
def State.amoPacket (s : State) (p : Packet) : State × Except Nat Nat :=
  let x := descOr p
  match s.peerCheck x p.sdev.toNat x.offset.toNat (descN x) rAT with
  | (s1, .error c) => (s1, .error c)
  | (s1, .ok (q, h)) =>
    match AOp.ofCode x.op.toNat with
    | none => (s1, .error 1)
    | some o =>
      let r := s1.atomic q (.hbm h) (descN x) o (p.pay.getD 0 0#64).toNat (p.pay.getD 1 0#64).toNat
      if r.bad ≠ 0 then (r.s, .error r.bad) else (r.s, .ok r.v)

/-- An AMO is an engine's add to a barrier object (R163, R164; DESIGN CHOICE, log 69). -/
def barAmo (p : Packet) : Bool := (descOr p).op == 0#4 && p.pay.getD 1 0#64 == BitVec.allOnes 64

/-- An add to a barrier object from the copy engine of another device, answered once it has performed (R163, R164, R244). -/
def State.barPacket (s : State) (p : Packet) : State :=
  let x := descOr p
  match s.peerCheck x p.sdev.toNat x.offset.toNat 16 rWR with
  | (s1, .error c) => s1.reply p 0x13 1 c []
  | (s1, .ok (q, h)) => (s1.barAt q (.hbm h) (p.pay.getD 0 0#64).toNat).reply p 0x13 1 0 []

/-- An AMO is the count of a copy for a mailbox (R163; DESIGN CHOICE, log 69). -/
def mboxAmo (p : Packet) : Bool := p.desc.isNone && p.pay.getD 1 0#64 == BitVec.allOnes 64 - 1#64

/-- AMO (R328): the posted form, an engine's add to a barrier object, or a copy's count for a mailbox. -/
def execAmo (p : Packet) (s : State) : Host.Outcome State Fault Refusal :=
  s.onPacket p fun s => if barAmo p then s.barPacket p
    else if mboxAmo p then
      (s.mboxAdd (64 * p.ddie.toNat + p.ks.toNat / 64 % 64) (p.ks.toNat % 64) (p.pay.getD 0 0#64).toNat).reply p 0x13 1 0 []
    else match s.amoPacket p with
    | (s1, .error c) => s1.reply p 0x13 1 c []
    | (s1, .ok _) => s1.reply p 0x13 1 0 []

/-- AMOREQ (R328): the returning form. -/
def execAmoreq (p : Packet) (s : State) : Host.Outcome State Fault Refusal :=
  s.onPacket p fun s => match s.amoPacket p with
    | (s1, .error c) => s1.reply p 0x16 1 c []
    | (s1, .ok v) => s1.reply p 0x16 1 0 [W v]

/-- A producing store of another device at its stack (R245, R246): it performs, waits in the list, or stays to be tried
again where the list is full. -/
def State.syncArrive (s : State) (p : Packet) (q h : Nat) : State :=
  let k := h / 2 ^ 36
  let w : SyncWait := { cell := 0, slot := q, seq := p.seq.toNat, store := true, hpa := h, pkt := some p }
  let s0 := s.openLine (s.keyOf q) h
  if s0.lineBad h then
    let (s1, bad) := s0.hbmWrite q h 8 (p.pay.getD 0 0#64).toNat
    s1.reply p 0x13 1 bad []
  else if !s0.feBit h && !(s0.stackAt k).syncs.any (fun v => v.hpa == h && v.store) then s0.syncPkt k w p
  else if (s0.stackAt k).syncs.length < 1024 then s0.setStack k { s0.stackAt k with syncs := (s0.stackAt k).syncs ++ [w] }
  else { s0 with outbox := s0.outbox ++ [p] }

/-- SYNCST (R245, R326). -/
def execSyncst (p : Packet) (s : State) : Host.Outcome State Fault Refusal :=
  s.onPacket p fun s =>
    let x := descOr p
    match s.peerCheck x p.sdev.toNat x.offset.toNat 8 rWR with
    | (s1, .error c) => s1.reply p 0x13 1 c []
    | (s1, .ok (q, h)) => s1.syncArrive p q h

/-! ## Contexts of other devices -/

/-- The rights that a migrating access needs (R228). -/
def accNeed : MigAcc → Nat
  | .load => rRD
  | .sync => rRD + rWR
  | .atom => rAT

/-- MIGRATE (R37, R71, R186): a thread of this device arrives at its core; a context of another device is checked with the rights of
its access, then takes a slot, joins the queue, or is refused. -/
def execMigrate (k j : Nat) (m : Migrant) (s : State) : Host.Outcome State Fault Refusal :=
  .next (match m with
    | .own cell slot => s.depart cell slot
    | .peer sdev sdie cid slot ctx acc desc =>
      let n := farCell sdev.toNat sdie.toNat
      let key := 16 * cid.toNat + slot.toNat
      if s.peerStall desc then s else s.onArrival 0x30 fun s => match s.peerCheck desc sdev.toNat desc.offset.toNat (descN desc) (accNeed acc) with
      | (s1, .error c) => s1.tellHome n key 0x31 8 c ctx
      | (s1, .ok (q, _)) =>
        if 16 ≤ (s1.coreOf k j).slots.length ∧ 64 ≤ (s1.coreOf k j).queue.length then s1.tellHome n key 0x32 1 0 ctx
        else (s1.setThrAt n key (farThread ctx desc q (k / 2) k j)).arriveCore k j n key)

/-! ## Answers -/

/-- Bytes of a line. -/
def lineBytes (l : Line) (off n : Nat) : Nat := l.toNat / 2 ^ (8 * (off % 64)) % 2 ^ (8 * n)

/-- The next line of a tile load arrived from another device (R371); the lines after it that lie in this device are read
in turn. -/
def State.lineArrive (s : State) (n k i v : Nat) : State :=
  let t := s.thrAt n k
  match t.out[i]? with
  | none => s
  | some p => match p.act with
    | .rows ls _ _ _ => (s.setThrAt n k { t with out := t.out.set i { p with held := p.held ++ [v] } }).rowsGo n k i (ls.length + 1)
    | _ => s

/-- The element of a block move arrived from another device (R332): stored, and the move goes on; a poisoned one ends it
at the element, with the registers describing the remainder (R333). -/
def State.elemArrive (s : State) (n k i : Nat) (m : Loc) (nb x y z v cause : Nat) : State :=
  let t := s.thrAt n k
  let s1 := s.setThrAt n k { t with out := t.out.eraseIdx i }
  match trapOfCause (s.ptrap t.part) cause with
  | some tr => s1.stopAt n k tr cause ((t.out[i]?.map (·.addr)).getD 0#64) t.pc t.pc none false
  | none =>
    let s2 := s1.at n k
    let s3 := if cause = 7 then s2.orSt flPZ else s2
    (s3.moveElem (BitVec.ofNat 6 x) (BitVec.ofNat 6 y) (BitVec.ofNat 6 z) nb v m).back s

/-- A barrier wait answered by its object's memory (R340): where PHASE has not changed yet, the wait stays. -/
def Pend.waitsPhase (p : Pend) (v : Word) : Bool := v.getLsbD 63 == p.opB.getLsbD 0

/-- RDRESP (R72): the data of a read of another device, or a poisoned response. -/
def execRdresp (cell slot idx : Nat) (line : Line) (cause : Nat) (s : State) : Host.Outcome State Fault Refusal :=
  .next (s.onArrival 0x11 fun s => match (s.thrAt cell slot).out[idx]? with
    | none => s
    | some p =>
      if p.perf.isSome then s
      else match p.act with
      | .load (.peer _ _ off) n sg _ _ _ =>
        if cause ≠ 0 then s.answer cell slot idx 0#64 cause else s.answer cell slot idx (extend n sg (lineBytes line off n)) 0
      | .cons (.peer _ _ off) _ _ =>
        if cause ≠ 0 then s.answer cell slot idx 0#64 cause else s.answer cell slot idx (W (lineBytes line off 8)) 0
      | .bar (.peer _ _ off) _ _ =>
        if cause ≠ 0 then s.answer cell slot idx 0#64 cause else s.answer cell slot idx (W (lineBytes line off 8)) 0
      | .phase (.peer d rw off) sc =>
        let v := W (lineBytes line off 8)
        if cause ≠ 0 then s.answer cell slot idx 0#64 cause
        else if p.waitsPhase v then
          if s.reachable d true then ((s.at cell slot).emit ((s.at cell slot).reqPkt 0x10 1 d rw off 8 true false sc 0 (lineMask off 8) [])).back s
          else s.answer cell slot idx 0#64 8
        else s.answer cell slot idx v 0
      | .rows ls _ _ _ =>
        let s1 := s.rowsGo cell slot idx (ls.length + 1)
        let t := s1.thrAt cell slot
        match t.out[idx]? with
        | none => s1
        | some p1 =>
          match ls[p1.held.length]? with
          | some (va, .peer _ _ _) =>
            match trapOfCause (s.ptrap t.part) cause with
            | some tr => (s1.setThrAt cell slot { t with out := t.out.set idx { p1 with faddr := W va } }).lateTrap cell slot idx tr cause
            | none =>
              if cause = 7 then (s1.setThrAt cell slot { t with st := t.st ||| 0x80#8 }).lineArrive cell slot idx 0
              else s1.lineArrive cell slot idx line.toNat
          | _ => s1
      | .elem (.peer _ _ off) m n x y z => s.elemArrive cell slot idx m n x y z (lineBytes line off n) cause
      | _ => s)

/-- A copy packet that its target refused ends its record (R162): the channel that has it on its way. -/
def State.copyRefused (s : State) (p : Packet) : State :=
  let hit := fun (e : Nat × Nat × Nat × Nat) => e.1 == p.sdev.toNat && e.2.1 == (p.ks.setWidth 16).toNat
  let code := if p.cause = 6#4 then 3 else if p.cause = 7#4 ∨ p.cause = 8#4 then 5 else 4
  s.chans.foldl (fun s (i, c) => if c.flying.any hit then s.copyFail (i / 32) (i % 32) code else s) s

/-- The acknowledgement of a posted access of a thread (R244). -/
def State.wrDone (s : State) (cell slot idx cause : Nat) : State :=
  match (s.thrAt cell slot).posted[idx]? with
  | none => s
  | some p => match p.loc with
    | .peer _ _ _ => s.ackPosted cell slot idx cause
    | _ => if p.performed then s.ackPosted cell slot idx 0 else s

/-- WRDONE (R244): the acknowledgement of a posted access to another device; one with bit 16 of the kind-specific field set refuses a
copy packet (R162; DESIGN CHOICE, log 69). -/
def execWrdone (cell slot idx cause : Nat) (s : State) : Host.Outcome State Fault Refusal :=
  .next (s.onArrival 0x13 fun x => match s.heldPkt 0x13 with
    | some p => if p.ks.getLsbD 16 then x.copyRefused p else x.wrDone cell slot idx cause
    | none => x.wrDone cell slot idx cause)

/-- AMORESP (R328). -/
def execAmoresp (cell slot idx : Nat) (old : Word) (cause : Nat) (s : State) : Host.Outcome State Fault Refusal :=
  .next (s.onArrival 0x16 fun s => match (s.thrAt cell slot).out[idx]? with
    | none => s
    | some p => match p.act, p.perf with
      | .atom (.peer _ _ _) _ _ _ _ _ _ _ _, none => s.answer cell slot idx (if cause = 0 then old else 0#64) cause
      | _, _ => s)

/-- LOAD_RETURN (R171, R181): the result of an outstanding instruction reaches its destination, once its access has
performed. -/
def execLoadReturn (cell slot idx : Nat) (s : State) : Host.Outcome State Fault Refusal :=
  .next ((s.performOut cell slot idx).completeOut cell slot idx)

/-! ## Copy packets at their destination -/

/-- Line `i` of a packet is written in full and lands early (R160). -/
def earlyLine (p : CopyPkt) (i : Nat) : Bool := cpRed p.ctrl == 0 && (p.masks.isEmpty || p.masks.getD i 0#64 == BitVec.allOnes 64)

/-- The early lines of a packet whose tag failed poisoned, and counted in CPOIS (R160). -/
def State.poisonEarly (s : State) (d q va : Nat) (p : CopyPkt) : State :=
  ((List.range p.lines.length).filter (earlyLine p)).foldl (fun s i =>
    match s.engLoc q (va + 64 * i) 1 rWR with
    | .ok (.hbm h) => ((s.touch h (s.keyOf q)).setLine h { (s.touch h (s.keyOf q)).lineOf h with tag := .code }).bump 9 d 0x800 0 64 1
    | _ => s) s

/-- The runs of set bits among the low `n` bits of a mask, as start and length. -/
def bitRuns (n m : Nat) : List (Nat × Nat) :=
  if m % 2 ^ n = 2 ^ n - 1 then [(0, n)]
  else (List.range ((n + 63) / 64)).flatMap fun j => (maskRuns (m % 2 ^ n / 2 ^ (64 * j) % 2 ^ 64)).map fun (i, k) => (64 * j + i, k)

/-- Runs that follow one another without a gap joined. -/
def joinRuns (l : List (Nat × Nat)) : List (Nat × Nat) :=
  l.foldr (fun e r => match r with
    | f :: r' => if e.1 + e.2 = f.1 then (e.1, e.2 + f.2) :: r' else e :: r
    | [] => [e]) []

/-- The bytes of a packet that its masks select: the runs of them (R161). -/
def copyRuns (p : CopyPkt) : List (Nat × Nat) :=
  let n := 64 * p.lines.length
  joinRuns (bitRuns n (if p.masks.isEmpty then 2 ^ n - 1 else numWords p.masks))

/-- A packet lands at a virtual address of a partition, under its masks (R157, R160): each run of bytes they select is written, or, for a
reducing record, is a whole number of elements that are joined. -/
def State.landPacket (s : State) (q va : Nat) (p : CopyPkt) : Except (EngErr × Nat) State :=
  let v := p.lines.foldr (fun (l : Line) a => l.toNat + a * 2 ^ 512) 0
  (copyRuns p).foldl (fun r (i, n) => match r with
    | .error e => .error e
    | .ok s =>
      if cpReduces p.ctrl then (s.landRun q p.ctrl (va + i) (v / 2 ^ (8 * i)) (n / cpDstSize p.ctrl)).map (·.1)
      else s.putRun q (va + i) (v / 2 ^ (8 * i) % 2 ^ (8 * n)) 64 n) (.ok s)

/-- Bytes that the masks of a packet select (R163). -/
def copyBytes (p : CopyPkt) : Nat := ((copyRuns p).map (·.2)).sum

/-- A copy packet that fails its target's checks is refused with its cause (R72, R162): by a WRDONE whose bit 16 of the kind-specific field is set, ahead of the packet's
acknowledgement (DESIGN CHOICE, log 69). -/
def State.copyRefuse (s : State) (p : Packet) (cause : Nat) : State :=
  (s.emit { s.blank 0x13 1 p.sdev.toNat true with
    ddie := p.sdie, sdie := p.ddie, ks := BitVec.ofNat 45 (2 ^ 16 + p.seq.toNat), poison := true, cause := BitVec.ofNat 4 cause }).accept p |>.1

/-- The step data of a collective in a packet (R103). -/
def stepOfPkt (p : CopyPkt) : StepIn :=
  let x := descOr p.hdr
  { src := 8 * p.hdr.sdev.toNat + p.hdr.sdie.toNat, seq := p.hdr.seq, group := bf p.compl 8 16, cseq := bf p.compl 32 32, op := bf p.compl 24 8,
    stage := x.rwin.toNat, first := x.offset.toNat,
    items := stepItems p.ctrl (copyBytes p) (p.lines.foldr (fun (l : Line) a => l.toNat + a * 2 ^ 512) 0), last := p.ctrl.getLsbD 9 }

/-- COPYDATA (R57, R71, R160, R161, R163): taken by its stream, checked at its target, its tag compared; it lands and advances the
completion that the receiver performs, or its early lines are poisoned and it is asked for again. Step data of a collective (R103) goes to the
collective unit of the die. -/
def execCopydata (p : CopyPkt) (s : State) : Host.Outcome State Fault Refusal :=
  .next (
    let x := descOr p.hdr
    let dev := p.hdr.sdev.toNat
    let n := 64 * p.lines.length
    let tag := copyTag p.hdr p.ctrl p.compl p.masks (p.lines.flatMap fun l => wordsOf l.toNat 8)
    if isStep p.ctrl then
      if !(s.accept p.hdr).2 then (s.accept p.hdr).1
      else if tag ≠ p.tag then s.sendNum 0x02 dev false p.hdr.seq
      else (s.accept p.hdr).1.stepArrive p.hdr.ddie.toNat (stepOfPkt p)
    else if s.peerStall x then s
    else if !(s.accept p.hdr).2 then (s.accept p.hdr).1
    else match s.peerCheck x dev x.offset.toNat n rWR with
    | (s1, .error c) => s1.copyRefuse p.hdr c
    | (s1, .ok (q, h)) =>
      let a := bf (s1.tableAt (bf (s1.reg 3 0 0x48) 21 36 * 2 ^ 21 + 32 * x.rwin.toNat + 8)) 0 57 + x.offset.toNat
      if tag ≠ p.tag then (s1.poisonEarly (h / 2 ^ 37) q a p).sendNum 0x02 dev false p.hdr.seq
      else match s1.landPacket q a p with
        | .error ((y, c), _) => y.copyRefuse p.hdr (if c = cXLATE then 6 else if c = cPERM then 3 else 7)
        | .ok s2 =>
          let s3 := (s2.accept p.hdr).1
          match cpKind p.ctrl with
          | 1 => if bf p.compl 53 11 = s3.devId then s3.mboxAdd (64 * bf p.compl 50 3 + bf p.compl 44 6) (bf p.ctrl 0 6) (copyBytes p) else s3
          | _ => s3)

end Sys2Proof.Machine
end

