-- ==== Sys2Proof/Machine/Ports.lean ====
section
/-! DEFINITION. The Dunwick ports and routers (spec/03 R46 to R56, R64, R67, R68, R73): bursts and replay, live lane repair,
enabling and disabling, bulk allowance, forwarding, the route table and the identity register. -/
namespace Sys2Proof

open Machine

/-! ## Bursts and their CRCs -/

/-- A packet of the gossip engines (R61, R91). -/
def Packet.gossip (p : Packet) : Bool := decide (0x40 ≤ p.kind.toNat) && decide (p.kind.toNat ≤ 0x43)

/-- A link control flit, which occupies no receive buffer slot (R47). -/
def Flit.isLink : Flit → Bool
  | .part _ _ => false
  | _ => true

/-- CFLIT (R47): one bit per flit. -/
def Burst.cflit (b : Burst) : BitVec 8 := BitVec.ofNat 8 ((List.range 8).map fun i => ((b.flits.getD i .idle).isLink.toNat) * 2 ^ i).sum

/-- A control-only burst (R48): it carries no flit of a packet. -/
def Burst.controlOnly (b : Burst) : Bool := b.flits.all Flit.isLink

/-- The totals that a burst carries, if any (R54). -/
def Burst.totals (b : Burst) : Option (List (BitVec 48)) := b.flits.findSome? fun f => match f with
  | .totals ts => some ts
  | _ => none

/-- A burst carries a DISABLE flit (R53). -/
def Burst.disable (b : Burst) : Bool := b.flits.contains .disable

/-- The bulk flits of a burst on a virtual channel. -/
def Burst.bulk (b : Burst) (v : Nat) : Nat := b.flits.countP fun f => match f with
  | .part p _ => !p.user && pktVc p == v
  | _ => false

/-- The packets whose last flit a burst carries. -/
def Burst.pkts (b : Burst) : List Packet := b.flits.filterMap fun f => match f with
  | .part p i => if i + 1 = pktFlits p then some p else none
  | _ => none

/-- One byte into the reflected CRC-32C register (R47). -/
def crc32Byte (r : BitVec 32) (b : Byte) : BitVec 32 :=
  (List.range 8).foldl (fun r _ => if r.getLsbD 0 then (r >>> 1) ^^^ 0x82F63B78#32 else r >>> 1) (r ^^^ b.zeroExtend 32)

/-- CRC-32C of words, the lowest byte of each first (DEDUCED, log 21). -/
def crc32c (ws : List Word) : BitVec 32 := (wordBytes ws).foldl crc32Byte (BitVec.allOnes 32) ^^^ BitVec.allOnes 32

/-- The eight words of a flit. -/
def Flit.words : Flit → List Word
  | .part p i => ((pktWords p).drop (8 * i)).take 8
  | .totals ts => wordsOf (Config.linkFlit (some ts) false).toNat 8
  | .disable => wordsOf (Config.linkFlit none true).toNat 8
  | .idle => wordsOf (Config.linkFlit none false).toNat 8

/-- The flits that lane `l` of a two-lane port carries (R47): the even ones on lane 0. -/
def Burst.lane (b : Burst) (l : Nat) : List Flit := (List.range 4).map fun i => b.flits.getD (2 * i + l) .idle

/-- Control bits [127:64] (R47). -/
def Burst.ctrl (b : Burst) : Word := b.bseq ++ b.aseq ++ (if b.nak then 1#1 else 0#1) ++ b.cflit ++ 0#31

/-- CRC0 and CRC1 of a burst on a port of two lanes or of one (R47). -/
def Burst.crcs (b : Burst) (one : Bool) : BitVec 32 × BitVec 32 :=
  if one then (crc32c (b.ctrl :: b.flits.flatMap Flit.words), 0#32)
  else (crc32c (b.ctrl :: (b.lane 0).flatMap Flit.words), crc32c ((b.lane 1).flatMap Flit.words))

/-- A burst with the CRCs that its sender computes. -/
def Burst.sealed (b : Burst) (one : Bool) : Burst := { b with crc0 := (b.crcs one).1, crc1 := (b.crcs one).2 }

namespace Machine

/-- The offset of PSTAT of a port; PCTL lies 8 below and PERR 8 above (R73). -/
def pst (p : Nat) : Nat := 0x1008 + 0x20 * p

/-- PSTAT.STATE set. -/
def State.setPstate (s : State) (p v : Nat) : State := s.setFld 3 0 (pst p) 0 2 v

/-- The fabric die of a port (R46). -/
def portDie (p : Nat) : Nat := p / 24

/-- Everything queued for a port and its replay buffer discarded, and the port down (R49, R53); the bulk counters are
credited when it comes up again (R55). -/
def State.portDown (s : State) (p : Nat) : State :=
  let x := s.portAt p
  let s1 := s.setPort p { x with replay := [], replayEnd := none, gap := false, reqs := 0, asked := 0, bulkQ := [], userQ := [],
                                 sending := none, paused := none, switching := false, rewidening := false, out0 := false, out1 := false, recredit := true }
  ((s1.setPstate p 0).setFld 3 0 (pst p) 3 2 0).setFld 3 0 (pst p) 2 1 0

/-- PORT_FAIL (R49): counted, recorded and notified (R141, R260). -/
def State.portFail (s : State) (p : Nat) : State :=
  let s1 := (s.portDown p).bump 3 0 (pst p + 8) 32 16 1
  let s2 := s1.devEvent (2 * portDie p) 0x21 2 p
  (List.range 8).foldl (fun s q => if s.running q then s.notify (2 * portDie p) 0x21 p q else s) s2

/-! ## Sending bursts -/

/-- The flits that a sender may still send on a bulk virtual channel (R54). -/
def Port.allow (x : Port) (v : Nat) : Int :=
  1024 + (vcGet x.reported v - vcGet x.sent v).toInt

/-- The share, in 1/256 of a port's bulk flits, that PXCTL reserves for a gossip packet of this device (R92, R96): none in MODE 0. -/
def State.share (s : State) (p : Packet) : Nat :=
  let d := p.sdie.toNat
  if p.sdev.toNat ≠ s.devId then 0
  else match s.partOfDie d with
    | some q => if s.fld 4 d (0x40 * q + 0x10) 0 1 = 1 then min 64 (s.fld 4 d (0x40 * q + 0x10) 8 8) else 0
    | none => 0

/-- The packet that a port sends next: a user packet before a bulk one, a bulk one only with allowance (R54); a gossip packet
before other bulk packets only within its reserved share, else behind them (R92). -/
def Port.next (x : Port) (share : Packet → Nat) : Option (Packet × Port) :=
  match x.userQ with
  | p :: r => some (p, { x with userQ := r })
  | [] =>
    let may := x.bulkQ.filter fun p => decide (0 < x.allow (pktVc p))
    let g := may.find? Packet.gossip
    let o := may.find? fun p => !p.gossip
    let first := match g with
      | some p => if 256 * x.gossipSent < share p * (x.bulkSent + 1) then some p else o.or g
      | none => o
    first.map fun p => (p, { x with bulkQ := x.bulkQ.erase p })

/-- The packet whose flit a port sends next, with the flits that it still has: a user packet that is begun or queued, then the bulk packet that is begun,
which a user packet sets aside (R92), then the next one; nothing where a begun bulk packet has no allowance (R54). -/
def Port.current (x : Port) (share : Packet → Nat) : Option (Packet × Nat × Port) :=
  let begun := match x.sending with
    | some (p, k) => if p.user then none else some (p, k)
    | none => x.paused
  match x.sending, x.userQ, begun with
  | some (p, k), u, b => if p.user then some (p, k, x) else match u, b with
    | v :: r, _ => some (v, pktFlits v, { x with userQ := r, paused := some (p, k) })
    | [], _ => if x.allow (pktVc p) ≤ 0 then none else some (p, k, x)
  | none, v :: r, _ => some (v, pktFlits v, { x with userQ := r })
  | none, [], some (p, k) => if x.allow (pktVc p) ≤ 0 then none else some (p, k, { x with paused := none })
  | none, [], none => (x.next share).map fun (p, y) => (p, pktFlits p, y)

/-- Up to a number of flits taken for one burst, and the port after them (R47, R54). -/
def Port.fill (x : Port) (share : Packet → Nat) : Nat → List Flit × Port
  | 0 => ([], x)
  | n + 1 =>
    match x.current share with
    | none => ([], x)
    | some (p, k, y) =>
      let v := pktVc p
      let y1 := if p.user then y
        else { y with sent := tput y.sent v (vcGet y.sent v + 1#48), bulkSent := y.bulkSent + 1, gossipSent := y.gossipSent + p.gossip.toNat }
      let (fs, z) := ({ y1 with sending := if k ≤ 1 then none else some (p, k - 1) } : Port).fill share n
      (.part p (pktFlits p - k) :: fs, z)

/-- The ASEQ of a port's receiver (R47): the last burst received in order. -/
def Port.aseq (x : Port) : BitVec 12 := x.want - 1#12

/-- A control-only burst: without flits of packets, outside the sequence numbering (DEDUCED, log 21). -/
def Port.control (x : Port) : Burst :=
  { bseq := x.nextSeq, aseq := x.aseq, nak := false, flits := List.replicate 8 .idle, crc0 := 0#32, crc1 := 0#32 }

/-- A control-only burst with a link control flit. -/
def Port.link (x : Port) (f : Flit) : Burst := { x.control with flits := f :: List.replicate 7 .idle }

/-- A burst put on the wire of a port that is up and not switching lanes (R51). -/
def State.sendBurst (s : State) (p : Nat) (b : Burst) : State :=
  let x := s.portAt p
  if s.portUp p && !x.switching then s.setPort p { x with wire := x.wire ++ [b.sealed (s.pstate p == 3)] } else s

/-- A port sends: a burst of queued flits where it has some and its replay buffer has room, else a control-only burst
(R48). -/
def State.portSend (s : State) (p : Nat) : State :=
  let x := s.portAt p
  if !s.portUp p || x.switching then s
  else
    let (fs, y) := x.fill s.share 8
    if 512 ≤ x.replay.length ∨ fs = [] then s.sendBurst p x.control
    else
      let b : Burst := { x.control with flits := fs ++ List.replicate (8 - fs.length) .idle }
      (s.setPort p { y with replay := y.replay ++ [b], nextSeq := y.nextSeq + 1#12 }).sendBurst p b

/-- ASEQ_TIMER (R48). -/
def execAseqTimer (p : Nat) (s : State) : Host.Outcome State Fault Refusal := .next (s.portSend p)

/-- TOTALS_FLIT_SEND (R54): SENT, then FREED, of the four channels. -/
def execTotalsFlitSend (p : Nat) (s : State) : Host.Outcome State Fault Refusal :=
  .next (
    let x := s.portAt p
    s.sendBurst p (x.link (.totals ((List.range 4).map (vcGet x.sent) ++ (List.range 4).map (vcGet x.freed)))))

/-- The bursts of a port from a number on resent in order (R48). -/
def Port.resendFrom (x : Port) (one : Bool) (n : BitVec 12) : Port :=
  { x with wire := x.wire ++ (x.replay.filter fun b => decide ((b.bseq - n).toNat < 2048)).map fun b => b.sealed one }

/-! ## Receiving bursts -/

/-- The request that a receiver repeats for the burst it needs (R48, R49): the thirty-second in a row fails the port. -/
def State.sendNak (s : State) (p : Nat) : State :=
  let x := s.portAt p
  if 31 ≤ x.asked then s.portFail p
  else (s.setPort p { x with gap := true, asked := x.asked + 1 }).sendBurst p { x.control with aseq := x.want, nak := true }

/-- The bursts below a number are acknowledged: they leave the replay buffer, and a replay whose last burst is among them
is over (R48, R51). -/
def State.ackBelow (s : State) (p : Nat) (n : BitVec 12) : State :=
  let x := s.portAt p
  let below := fun (b : BitVec 12) => decide (0 < (n - b).toNat) && decide ((n - b).toNat ≤ 2048)
  let finished : Bool := match x.replayEnd with
    | some e => below e
    | none => false
  let moved := x.replay.any fun b => below b.bseq
  let s1 := s.setPort p { x with replay := x.replay.filter (fun b => !below b.bseq), replayEnd := if finished then none else x.replayEnd,
                                 reqs := if moved then 0 else x.reqs }
  if finished then s1.setFld 3 0 (pst p) 3 1 0 else s1

/-- A NAK for burst `n` (R48, R49): the replay of the bursts from it on, counted. -/
def State.nakBurst (s : State) (p : Nat) (n : BitVec 12) : State :=
  let s1 := s.ackBelow p n
  let x := s1.portAt p
  if !x.replay.any fun b => b.bseq == n then s1
  else
    let r := if x.lastReq = n then x.reqs + 1 else 1
    if 32 ≤ r then s1.portFail p
    else
      let y := ({ x with reqs := r, lastReq := n, replayEnd := x.replay.getLast?.map (fun (b : Burst) => b.bseq) } : Port).resendFrom (s1.pstate p == 3) n
      ((s1.setPort p y).setFld 3 0 (pst p) 3 1 1).bump 3 0 (pst p + 8) 48 16 1

/-- ALLOWANCE_UPDATE and BULK_RECREDIT (R54, R55): the totals of the other end, SENT and FREED. The flits of a bulk packet that a failure of the port
cut short count as received where they had arrived, and their slots are not freed (DESIGN CHOICE, log 21: R55 credits the flits that were not
received, and the spec does not say who frees the slots of the others). -/
def State.takeTotals (s : State) (p : Nat) (ts : List (BitVec 48)) : State :=
  let x := s.portAt p
  let y := (List.range 4).foldl (fun (y : Port) v =>
    let snt := ts.getD v 0#48
    let y1 := { y with reported := tput y.reported v (ts.getD (4 + v) 0#48) }
    if y.recredit then { y1 with freed := tput y1.freed v (vcGet y1.freed v + (snt - vcGet y1.got v)), got := tput y1.got v snt } else y1) x
  s.setPort p { y with recredit := false }

/-- A packet kind that R61 lists. -/
def kindKnown (k : Nat) : Bool :=
  [1, 2, 3, 4, 0x10, 0x11, 0x12, 0x13, 0x14, 0x15, 0x16, 0x17, 0x20, 0x30, 0x31, 0x32, 0x34, 0x35, 0x36, 0x40, 0x41, 0x42, 0x43,
   0x48, 0x49, 0x4A, 0x50, 0x51, 0x52, 0x60].contains k

/-- Flits of user packets that a port holds on a virtual channel, ACK and NAK apart, which have slots of their own (R56). -/
def Port.userHeld (x : Port) (v : Nat) : Nat :=
  (x.inbox.filterMap fun p => if p.user && p.kind.toNat > 2 && pktVc p == v then some (pktFlits p) else none).sum

/-- A packet that a burst completes (R56, R60): held for its router or endpoint; a user packet that finds no room is
discarded whole with a NAK to its source, whose SDEV is this router (DESIGN CHOICE, log 21: R56 does not say which stream the NAK names); one of unknown
kind for this device is discarded. -/
def State.takeIn (s : State) (p : Nat) (pk : Packet) : State :=
  let x := s.portAt p
  let v := pktVc pk
  if pk.ddev.toNat = s.devId ∧ !kindKnown pk.kind.toNat then
    let s1 := s.bump 3 0 0x30 0 64 1
    if pk.user then s1 else s1.setPort p { x with freed := tput x.freed v (vcGet x.freed v + BitVec.ofNat 48 (pktFlits pk)) }
  else if pk.user ∧ 2 < pk.kind.toNat ∧ 256 < x.userHeld v + pktFlits pk then
    (s.bump 3 0 0x38 0 64 1).emitCtl { s.blank 0x02 1 pk.sdev.toNat true with seq := pk.seq }
  else s.setPort p { x with inbox := x.inbox ++ [pk] }

/-- DISABLE_FLIT (R53): the far end disabled the port. -/
def State.disabled (s : State) (p : Nat) : State :=
  if s.pstate p = 0 then s else (s.portDown p).setFld 3 0 (pst p) 6 1 1

/-- A burst taken in order (R48): its flits are counted and its packets held. -/
def State.takeBurst (s : State) (p : Nat) (b : Burst) : State :=
  let x := s.portAt p
  let got := (List.range 4).foldl (fun t v => tput t v (vcGet t v + BitVec.ofNat 48 (b.bulk v))) x.got
  b.pkts.foldl (fun s pk => s.takeIn p pk) (s.setPort p { x with want := x.want + 1#12, gap := false, asked := 0, got := got })

/-- The control field and the link control flits of a burst that passed its CRCs (R47, R54). -/
def State.takeControl (s : State) (p : Nat) (b : Burst) : State :=
  let s1 := if b.nak then s.nakBurst p b.aseq else s.ackBelow p (b.aseq + 1#12)
  match b.totals with
  | some ts => s1.takeTotals p ts
  | none => s1

/-- A lane CRC failure counted (R50): the count that comes to equal the threshold makes a repair of the lane pending; one that stands above it already,
since LTHR was lowered or the lane rewidened, makes none within the interval (DESIGN CHOICE, log 67). -/
def State.laneFail (s : State) (p : Nat) (lane1 : Bool) : State :=
  let s1 := s.bump 3 0 (pst p + 8) (if lane1 then 16 else 0) 16 1
  let x := s1.portAt p
  let n := (if lane1 then x.err1 else x.err0) + 1
  let s2 := s1.setPort p (if lane1 then { x with err1 := n } else { x with err0 := n })
  if n = max (s.fld 3 0 0 8 8) 1 then
    let y := { s2.portAt p with pendAt := (s.tb (2 * portDie p)).toNat }
    (s2.setPort p (if lane1 then { y with out1 := true } else { y with out0 := true })).setFld 3 0 (pst p) 4 1 1
  else s2

/-- BURST_RECEIVE (R47 to R50, R54, R262): both CRCs that arrive are compared with those of the burst, on one lane CRC0 alone. A burst that fails one is asked for
again, also while a gap is open. -/
def execBurstReceive (p : Nat) (b : Burst) (crc0 crc1 : BitVec 32) (s : State) : Host.Outcome State Fault Refusal :=
  .next (
    if !s.portUp p || (s.portAt p).switching then s
    else
      let a := s.reg 11 0 0x810
      let inj : Bool := s.fld 11 0 0x808 3 1 == 1 && s.fld 11 0 0x808 0 3 == 5 && bf a 0 7 == p
      let s0 := if inj then s.setReg 11 0 0x808 0#64 else s
      let one : Bool := s.pstate p == 3
      let lane := s.fld 3 0 (pst p) 2 1
      let bad0 := crc0 != (b.crcs one).1 || (inj && bf a 7 1 == (if one then lane else 0))
      let bad1 := !one && (crc1 != (b.crcs one).2 || (inj && bf a 7 1 == 1))
      if bad0 || bad1 then
        let s1 := if bad0 then s0.laneFail p (one && lane == 1) else s0
        let s2 := if bad1 then s1.laneFail p true else s1
        if (s2.portAt p).gap && b.bseq != (s2.portAt p).want then s2 else s2.sendNak p
      else
        let s1 := s0.takeControl p b
        if b.disable then s1.disabled p
        else if !s1.portUp p ∨ b.controlOnly then s1
        else if b.bseq = (s1.portAt p).want then s1.takeBurst p b
        else if (s1.portAt p).gap ∨ 2048 ≤ (b.bseq - (s1.portAt p).want).toNat then s1
        else s1.sendNak p)

/-- NAK_REPEAT (R48). -/
def execNakRepeat (p : Nat) (s : State) : Host.Outcome State Fault Refusal :=
  .next (if s.portUp p && (s.portAt p).gap then s.sendNak p else s)

/-- PORT_SILENCE_TIMEOUT (R49). -/
def execPortSilenceTimeout (p : Nat) (s : State) : Host.Outcome State Fault Refusal :=
  .next (if s.portUp p then s.portFail p else s)

/-! ## Lanes -/

/-- LANE_COUNT_CLEAR (R50). -/
def execLaneCountClear (s : State) : Host.Outcome State Fault Refusal :=
  .next { s with ports := s.ports.map fun (k, x) => (k, { x with err0 := 0, err1 := 0 }) }

/-- A repair that is pending at this end waits for a replay to complete, of its own bursts or of those that it asked for, for at most 256 flit times,
which are 102.4 ns of the timebase (R51; DEDUCED, log 67). -/
def State.repairWaits (s : State) (p : Nat) : Bool :=
  s.fld 3 0 (pst p) 4 1 == 1 && (s.fld 3 0 (pst p) 3 1 == 1 || (s.portAt p).gap) &&
    decide (10 * ((s.tb (2 * portDie p)).toNat - (s.portAt p).pendAt) < 1024)

/-- LANE_REPAIR_START (R51): both ends stop sending; without a surviving lane the port fails (R49). Where no repair is pending
at this end it is the far end's, and which lane it drops is a free value (DESIGN CHOICE, log 67). -/
def execLaneRepairStart (p : Nat) (s : State) : Host.Outcome State Fault Refusal :=
  .next (
    let x := s.portAt p
    if !s.portUp p ∨ x.switching ∨ s.repairWaits p then s
    else if s.pstate p = 3 ∨ (x.out0 ∧ x.out1) then s.portFail p
    else if s.fld 3 0 (pst p) 4 1 = 1 then s.setPort p { x with switching := true }
    else
      let (w, s1) := s.fresh
      s1.setPort p { x with switching := true, out0 := w.getLsbD 0, out1 := !w.getLsbD 0 })

/-- LANE_SWITCH_COMPLETE (R51). -/
def execLaneSwitchComplete (p : Nat) (s : State) : Host.Outcome State Fault Refusal :=
  .next (
    let x := s.portAt p
    if !x.switching then s
    else
      let y := { x with switching := false, wire := x.wire ++ x.replay.map fun b => b.sealed true }
      (((s.setPort p y).setPstate p 3).setFld 3 0 (pst p) 4 1 0).setFld 3 0 (pst p) 2 1 x.out0.toNat)

/-- REWIDEN (R52). -/
def execRewiden (p : Nat) (s : State) : Host.Outcome State Fault Refusal :=
  .next (if s.pstate p = 3 then s.setPort p { s.portAt p with rewidening := true } else s)

/-- REWIDEN_COMPLETE (R52). -/
def execRewidenComplete (p : Nat) (ok : Bool) (s : State) : Host.Outcome State Fault Refusal :=
  .next (
    let x := s.portAt p
    if !x.rewidening ∨ s.pstate p ≠ 3 then s
    else if ok then
      let lane := s.fld 3 0 (pst p) 2 1
      ((s.setPort p { x with rewidening := false, out0 := x.out0 && lane == 0, out1 := x.out1 && lane == 1 }).setPstate p 2).setFld 3 0 (pst p) 2 1 0
    else (s.setPort p { x with rewidening := false }).setFld 3 0 (pst p) 5 1 1)

/-! ## Enabling and disabling -/

/-- A port that is up or training disabled (R53): eight control-only bursts with DISABLE, then down. -/
def State.portOff (s : State) (p : Nat) : State :=
  if s.pstate p = 0 then s
  else
    let x := s.portAt p
    let s1 := s.setPort p { x with wire := x.wire ++ List.replicate 8 ((x.link .disable).sealed (s.pstate p == 3)) }
    s1.portDown p

/-- A port that is down starts training, if the device has its identity (R64). -/
def State.portTrain (s : State) (p : Nat) : State :=
  if s.fld 3 0 8 11 1 = 1 ∧ s.pstate p = 0 then s.setPstate p 1 else s

/-- PORT_DISABLE (R53). -/
def execPortDisable (p : Nat) (s : State) : Host.Outcome State Fault Refusal :=
  .next ((s.setFld 3 0 (pst p - 8) 0 1 0).portOff p)

/-- PORT_ENABLE (R53). -/
def execPortEnable (p : Nat) (s : State) : Host.Outcome State Fault Refusal :=
  .next ((s.setFld 3 0 (pst p - 8) 0 1 1).portTrain p)

/-- DISABLE_FLIT (R53). -/
def execDisableFlit (p : Nat) (s : State) : Host.Outcome State Fault Refusal := .next (s.disabled p)

/-- FAR_END_TRAINING (R53). -/
def execFarEndTraining (p : Nat) (s : State) : Host.Outcome State Fault Refusal :=
  .next (if s.fld 3 0 (pst p) 6 1 = 1 ∧ s.fld 3 0 (pst p - 8) 0 1 = 1 then s.portTrain p else s)

/-- PORT_TRAINED (R55). -/
def execPortTrained (p : Nat) (s : State) : Host.Outcome State Fault Refusal :=
  .next (
    if s.pstate p ≠ 1 then s
    else
      let x := s.portAt p
      let y := { x with nextSeq := 0#12, want := 0#12, gap := false, reqs := 0, asked := 0, out0 := false, out1 := false }
      ((s.setPort p y).setPstate p 2).setFld 3 0 (pst p) 6 1 0)

/-! ## Forwarding, routes and identity -/

/-- A packet in transit dropped at fabric die `f` (R67, R141). -/
def State.dropTransit (s : State) (f : Nat) (pk : Packet) : State :=
  (s.bump 3 0 0x30 0 64 1).devEvent (2 * f) 0x21 1 pk.ddev.toNat

/-- PACKET_FORWARD (R67): a packet in transit at fabric die `f`. -/
def execPacketForward (f : Nat) (pkt : Packet) (s : State) : Host.Outcome State Fault Refusal :=
  .next (
    if pkt.ddev.toNat = s.devId then s
    else
      let s1 := s.takePacket pkt
      let p : Packet := if pkt.nm ∧ pkt.via.toNat = s.devId then { pkt with ph := true } else pkt
      let e := s.route (if p.nm ∧ !p.ph then p.via.toNat else p.ddev.toNat)
      if p.budget = 0#3 ∨ !rtValid e ∨ (s.pairPort (rtHop e) p.user 0).isNone then s1.dropTransit f p
      else s1.enqueue { p with budget := p.budget - 1#3, hop := p.hop + 1#3 } (rtHop e))

/-- RTCMD_WRITE (R68, R18): ignored and recorded while a write propagates. DEDUCED, log 47. -/
def execRtcmdWrite (s : State) : Host.Outcome State Fault Refusal :=
  .next (
    if s.fld 3 0 0x28 2 1 = 1 then s.recordRefusal 3 0 0x28
    else { s.setFld 3 0 0x28 2 1 1 with routePend := some (s.fld 3 0 0x10 0 11, s.reg 3 0 0x20 ++ s.reg 3 0 0x18) })

/-- RTCMD_WRITE_COMPLETE (R68). -/
def execRtcmdWriteComplete (s : State) : Host.Outcome State Fault Refusal :=
  .next (match s.routePend with
    | none => s
    | some (d, e) => { s.setFld 3 0 0x28 2 1 0 with routePend := none, routes := tput s.routes d e })

/-- RTCMD_READ (R73). -/
def execRtcmdRead (s : State) : Host.Outcome State Fault Refusal :=
  .next (
    let e := s.route (s.fld 3 0 0x10 0 11)
    (s.setReg 3 0 0x18 (e.setWidth 64)).setReg 3 0 0x20 (e.extractLsb' 64 64))

/-- Any port is up. -/
def State.anyUp (s : State) : Bool := (List.range 96).any fun p => s.portUp p

/-- FID_WRITE (R64, R73): DEVID is kept while a port is up; ASSIGNED cleared disables the ports, set trains those with EN. -/
def execFidWrite (v : Word) (s : State) : Host.Outcome State Fault Refusal :=
  .next (
    if writeBad 3 8 v then s.refuse 3 0 8
    else
      let was := s.fld 3 0 8 11 1
      let dev := if s.anyUp then s.devId else bf v 0 11
      let s1 := s.setReg 3 0 8 (bset v 0 11 dev)
      let now := bf v 11 1
      if was = 1 ∧ now = 0 then (List.range 96).foldl (fun s p => s.portOff p) s1
      else if was = 0 ∧ now = 1 then (List.range 96).foldl (fun s p => if s.fld 3 0 (pst p - 8) 0 1 = 1 then s.portTrain p else s) s1
      else s1)

end Machine

end Sys2Proof
end

