-- ==== Sys2Proof/Machine/Trap.lean ====
section
/-! DEFINITION. Traps beyond their taking: the trap instruction and the return from a trap (spec/14 R313, R314; spec/12
R258, R259), delivery of frames (R254, R256), stops (R269), pre-emption (R263 to R265), error injection (R262), timebases
(R266, R318), trace (R267) and the telemetry controls (R270). -/
namespace Sys2Proof.Machine

/-- TRAP (R313): SYSCALL with the operand as FADDR. -/
def execTrap (e : BitVec 26) (s : State) := s.run (.trap e) fun s => s.trap cSYSCALL (e.zeroExtend 64)

/-- RDTB (R318). -/
def execRdtb (x : GReg) (sel : BitVec 2) (s : State) :=
  s.run (.rdtb x sel) fun s => s.wr x (if sel = 0#2 then s.tb s.dieNo else s.reg 11 0 (0xA18 + 0x40 * s.dieNo))

/-! ## The return of a frame at its origin -/

/-- The cell that ORIGIN names. -/
def originCell (o : Word) : Nat := 64 * bf o 50 3 + bf o 44 6

/-- The slot key that ORIGIN names. -/
def originKey (o : Word) : Nat := 16 * bf o 36 1 + bf o 40 4

/-- The scalar destination of a replay entry. -/
def entryDst (e : REntry) : Option GReg := (instrOf e.slot e.inst).bind scalarDst

/-- The entries of a thread's replay queue that complete with RESULT do so; the others are still to be reissued (R258). -/
def State.applyActions (s : State) (n k : Nat) : State :=
  let es := (s.thrAt n k).replay
  let s1 := s.setThrAt n k { s.thrAt n k with replay := es.filter fun e => !e.action }
  (es.filter (·.action)).foldl (fun s e => match entryDst e with
    | some d => ((s.at n k).wrN d.toNat e.result).back s
    | none => s) s1

/-- The context that a frame restores (R258); gid, class and lane stay. -/
def Thread.restore (t : Thread) (f : Frame) : Thread :=
  { t.withCtx f.ctx with stop := none, sent := false, noBreak := true, replay := f.entries }

/-- A stopped thread resumes from a frame (R258): the context, the entries that complete, then the others and the pc; the
lanes of a gang share the pc (DESIGN CHOICE, log 16). -/
def State.resume (s : State) (n k : Nat) (f : Frame) : State :=
  let t := (s.thrAt n k).restore f
  let s1 := (s.setThrAt n k t).applyActions n k
  let s2 := t.lanes.foldl (fun s c => s.setThrAt c k { s.thrAt c k with pc := f.ctx.pc, npc := f.ctx.pc }) s1
  (s2.applyFills n k).traceAt 7 0 n k f.ctx.pc

/-- The task of a gid has been killed, as its live graph says (R145). -/
def State.killedTask (s : State) (gid : Word) : Bool :=
  match (s.graphOf gid).bind fun g => g.tasks[bf gid 0 32]? with
  | some t => t.state == .killed
  | none => false

/-- A frame returned to its origin on this device, with the code that answers it (R258, R259, R265, R314). One whose pc names no bundle, which
tret does not send (R273), is refused. -/
def State.returnFrame (s : State) (f : Frame) : State × Nat :=
  let q := bf f.origin 37 3
  if f.dead || f.notify || s.killedTask f.ctx.gid then (s, 3)
  else if (s.partAt q).killed.contains (f.origin, f.token) then
    (s.setPart q { s.partAt q with killed := (s.partAt q).killed.erase (f.origin, f.token) }, 3)
  else
    let n := originCell f.origin
    let k := originKey f.origin
    match s.thr? n k with
    | none => (s, 2)
    | some t =>
      let q := t.part
      let held := (s.partAt q).returned.any fun x => x.origin == f.origin && x.token == f.token
      match t.stop with
      | none => (s, 2)
      | some g =>
        if g.token ≠ f.token ∨ !t.sent ∨ held ∨ bf f.origin 37 3 ≠ q then (s, 2)
        else if f.ctx.pc.toNat % 8 ≠ 0 || f.entries.any fun e => e.action && (entryDst e).isNone then (s, 1)
        else if k / 16 ≠ s.bankOf q ∨ (s.partAt q).switching then
          (s.setPart q { s.partAt q with returned := (s.partAt q).returned ++ [f] }, 0)
        else (s.resume n k f, 0)

/-- The words of a frame read by a thread in ascending order: state, words and the first poisoned cause (R314, R261). -/
def State.frameRead (s : State) (q : Nat) (l : Loc) : Nat → State × List Word × Nat
  | 0 => (s, [], 0)
  | n + 1 =>
    let r := s.memRead q l 8
    let next := match l with
      | .hbm a => Loc.hbm (a + 8)
      | .host a => Loc.host (a + 8)
      | .scr c o => Loc.scr c (o + 8)
      | .peer d w o => Loc.peer d w (o + 8)
    let (s1, ws, b) := r.s.frameRead q next n
    (s1, W r.v :: ws, if r.bad ≠ 0 then r.bad else b)

/-- The 16 lines of a frame at a location. -/
def frameLines (l : Loc) : List Loc :=
  (List.range 16).map fun i => match l with
    | .hbm a => .hbm (a + 64 * i)
    | .host a => .host (a + 64 * i)
    | .scr c o => .scr c (o + 64 * i)
    | .peer d w o => .peer d w (o + 64 * i)

/-- The slot address of a tret lies in the queue of partition `q` (R314): PERM outside it, ALIGN between slots. -/
def State.slotCheck (s : State) (q : Nat) (va : Word) : Except Nat Unit :=
  let lo := s.tqBase q + 4096
  if s.tqLog q < 2 ∨ 12 < s.tqLog q ∨ va.toNat < lo ∨ lo + 1024 * 2 ^ s.tqLog q ≤ va.toNat then .error cPERM
  else if (va.toNat - lo) % 1024 ≠ 0 then .error cALIGN
  else .ok ()

/-- TRET (R314): a pc that names no bundle raises ALIGN (R273); a frame of this device reaches its thread at the end of the cycle (State.returnAll,
R319), one of another device is sent to it as TRETFRAME; the answer is awaited (DEDUCED, log 22). -/
def execTret (x y : GReg) (s : State) :=
  s.run (.tret x y) fun s =>
    let va := s.eaOf (s.rd y)
    let q := s.thr.part
    match s.slotCheck q va with
    | .error c => s.trap c va
    | .ok _ => match s.access va 1024 rRD 1 with
      | .error c => s.locTrap c va
      | .ok l =>
        if (frameLines l).any s.thr.lineBusy || s.accessWaits va 1024 l || s.nowWaits (frameLines l) || decide (8 ≤ s.thr.out.length) then s.park false
        else
          let (s1, ws, bad) := (s.charge s.dieNo q va.toNat 1024).frameRead q l 128
          match trapOfCause (s.ptrap q) bad with
          | some tr => s1.stopAt s.turn s.cur tr bad va s.thr.pc s.thr.pc none false
          | none =>
            let s2 := if bad = 7 then s1.orSt flPZ else s1
            let f := frameOfWords ws
            let dev := bf f.origin 53 11
            if f.ctx.pc.toNat % 8 ≠ 0 ∧ !f.dead ∧ !f.notify then s2.trap cALIGN f.ctx.pc
            else if dev = s.devId ∨ f.dead ∨ f.notify then s2.long (.tret x y) va (.back f) none none false
            else if s2.noRoom s2.dieNo dev true 17 then s.park false
            else
              let s3 := s2.long (.tret x y) va (.bar (.peer dev 0 0) x.toNat 0) none none false
              s3.emit { s3.blank 0x35 17 dev true with ddie := BitVec.ofNat 3 (bf f.origin 50 3), sdie := BitVec.ofNat 3 s.dieNo, pay := ws }

/-- The frames that threads have returned to this device reach their threads at the end of the cycle, behind a kill of it (R259, R319), in ascending
order of die, cell and slot. -/
def State.returnAll (s : State) : State :=
  let fs := s.cells.flatMap fun (n, c) => c.slots.flatMap fun (k, t) => match t with
    | some t => t.out.filterMap fun p => match p.act, p.perf with
      | .back f, none => some (n, k, p.seq, f)
      | _, _ => none
    | none => []
  fs.foldl (fun s (n, k, seq, f) =>
    let (s1, c) := s.returnFrame f
    let t := s1.thrAt n k
    s1.setThrAt n k { t with out := t.out.map fun p => if p.seq = seq then { p with perf := some (W c) } else p }) s

/-- TRETFRAME: a frame returned by a server on another device (R258), to which the code goes back as a RDRESP (DESIGN CHOICE, log 22). -/
def execTretframe (fr : Frame) (s : State) : Host.Outcome State Fault Refusal :=
  .next (
    let from_ := s.heldPkt 0x35
    s.onArrival 0x35 fun s =>
      if bf fr.origin 53 11 = s.devId then
        let (s1, c) := s.returnFrame fr
        match from_ with
        | some p => s1.reply p 0x11 2 0 [W c]
        | none => s1
      else s)

/-! ## Delivery -/

/-- The frame of a stopped thread offered to its server once every posted access is acknowledged (R254, R256); without a valid
server its cell stops issuing (R122). -/
def State.sendFrame (s : State) (n k : Nat) : State :=
  let t := s.thrAt n k
  match t.stop with
  | none => s
  | some f =>
    if !t.posted.isEmpty then s
    else match s.offerFrame t.part f t.dest with
      | (s1, ok) =>
        let s2 := s1.setThrAt n k { s1.thrAt n k with sent := ok }
        if (t.dest.or (s.server t.part)).isNone then s2.setCell n { s2.cellAt n with stopped := true } else s2

/-- TRAP_FRAME_SEND (R254). -/
def execTrapFrameSend (cell slot : Nat) (s : State) : Host.Outcome State Fault Refusal :=
  .next (if (s.thrAt cell slot).sent then s else s.sendFrame cell slot)

/-- TRAP_FRAME_RETRY (R256): a refused frame is offered again, with the notifications that its partition keeps. A server on
another device refuses without a packet of its own: the retry is how a refusal comes to the origin (DEDUCED, log 22). -/
def execTrapFrameRetry (cell slot : Nat) (s : State) : Host.Outcome State Fault Refusal :=
  .next (
    let t := s.thrAt cell slot
    let s1 := s.offerNotes t.part
    let away := ((t.dest.or (s.server t.part)).map fun d => d.1 != s.devId).getD false
    if !t.sent || away then s1.sendFrame cell slot else s1)

/-- TRAPFRAME: a frame of another device at the trap queue of partition `q` (R256). -/
def execTrapframe (q : Nat) (fr : Frame) (s : State) : Host.Outcome State Fault Refusal := 
  .next (if s.tqStalls q then s else s.onArrival 0x34 fun s => (s.tqAccept q fr).1)

/-- FRAMEDEAD (R259). -/
def execFramedead (q : Nat) (origin token : Word) (s : State) : Host.Outcome State Fault Refusal :=
  .next (if s.tqStalls q then s else s.onArrival 0x36 fun s => s.frameDead q origin token)

/-! ## Stops and injection -/

/-- DSTOP_WRITE (R269, R271): refused while a stop is in progress. -/
def execDstopWrite (q : Nat) (gid : Word) (s : State) : Host.Outcome State Fault Refusal :=
  .next (
    let o := 0x100 * q
    if s.fld 11 0 (o + 0x30) 8 1 = 1 then (s.recordRefusal 11 0 (o + 0x28)).setFld 11 0 (o + 0x30) 9 1 1
    else
      let s1 := s.setReg 11 0 (o + 0x28) gid
      if (s1.lanesOf gid).isEmpty then s1.setFld 11 0 (o + 0x30) 0 1 1
      else (s1.setFld 11 0 (o + 0x30) 0 1 0).dstopGo q)

/-- A write of EINJ (R262, R271): refused with DBGCTL.ERR unless debug is unlocked. -/
def State.einjWrite (s : State) (v : Word) : State :=
  if s.fld 11 0 0x800 0 1 = 0 then (s.recordRefusal 11 0 0x808).setFld 11 0 0x800 1 1 1
  else s.setReg 11 0 0x808 v

/-- EINJ_ARM. -/
def execEinjArm (kind : BitVec 3) (s : State) : Host.Outcome State Fault Refusal :=
  .next (if kind.toNat = 0 ∨ 6 ≤ kind.toNat then s.einjWrite 0#64 else s.einjWrite (W (8 + kind.toNat)))

/-- EINJ_DISARM. -/
def execEinjDisarm (_kind : BitVec 3) (s : State) : Host.Outcome State Fault Refusal := .next (s.einjWrite 0#64)

/-! ## Pre-emption -/

/-- A thread stops at its bundle boundary for a switch (R263): its replay queue is formed and stays with it; the cells of
another device keep a context that is there. -/
def State.pause (s : State) (n k bank : Nat) : State :=
  let t := s.thrAt n k
  match t.site with
  | .peer _ => s
  | _ =>
    if t.stop.isSome then s
    else
      let t1 := { t with replay := t.entries none ++ t.replay, out := [], site := .home, latch := none, issued := false,
                         ea := none, refusals := 0, wait := t.wait.issuedPart }
      (((s.setThrAt n k t1).withdraw n k true).leaveCore n k ((t.out.getLast?.map (·.addr)).getD 0#64)).traceAt 8 bank n k t.pc

/-- The cells of a partition that have held a thread. -/
def State.cellsIn (s : State) (q : Nat) : List Nat := (s.cells.map (·.1)).filter fun n => s.dieIn q (n / 64)

/-- The threads of a partition in a context bank: cell and slot key. -/
def State.threadsIn (s : State) (q b : Nat) : List (Nat × Nat) :=
  (s.cellsIn q).flatMap fun n => (s.threadsOf n b).filterMap fun (k, t) => if t.part = q then some (n, k) else none

/-- BANK_SWITCH (R263, R265). -/
def execBankSwitch (q : Nat) (s : State) : Host.Outcome State Fault Refusal :=
  .next (
    let o := 0x100 * q + 0x18
    if s.fld 11 0 o 8 1 = 1 ∨ !s.running q then (s.recordRefusal 11 0 o).setFld 11 0 o 9 1 1
    else
      let b := s.bankOf q
      let s1 := (s.threadsIn q b).foldl (fun s (n, k) => s.pause n k (1 - b)) s
      (s1.setPart q { s1.partAt q with switching := true }).setFld 11 0 o 8 1 1)

/-- The units of a cell that a switch leaves to be swapped (R264): tile and stream registers but those of a bank that is off (R183), scratch
blocks and pairs of accumulator rows. -/
def State.unitsOf (s : State) (n : Nat) : List Nat :=
  ((List.range 32).filter fun r => s.bankPower n (r / 8) != 2) ++
  (((List.range 16).filter fun q => s.bankPower n (4 + q / 8) != 2).map (32 + ·)) ++
  ((List.range 1024).map (64 + ·)) ++ ((List.range 256).map (2048 + ·))

/-- BANK_SWITCH_COMPLETE (R263 to R265): BANK flips, the incoming threads' replay queues go on, frames that returned for
them are re-injected, and their units are still to be swapped. -/
def execBankSwitchComplete (q : Nat) (s : State) : Host.Outcome State Fault Refusal :=
  .next (
    if !(s.partAt q).switching then s
    else
      let b := 1 - s.bankOf q
      let s1 := s.setFld 5 0 (0x40 * q) 1 1 b
      let back := (s1.partAt q).returned.filter fun f => originKey f.origin / 16 == b
      let s2 := s1.setPart q { s1.partAt q with
        switching := false, lazyLeft := true, returned := (s1.partAt q).returned.filter fun f => originKey f.origin / 16 != b }
      let s3 := (s2.threadsIn q b).foldl (fun s (n, k) => if (s.thrAt n k).stop.isSome then s else s.applyActions n k) s2
      let s4 := back.foldl (fun s f => (s.returnFrame f).1) s3
      let s5 := (s4.cellsIn q).foldl (fun s n => s.setCell n { s.cellAt n with swap := s.unitsOf n }) s4
      s5.swapsOver q)

/-- LAZY_SWAP_UNIT (R264). -/
def execLazySwapUnit (q cell : Nat) (s : State) : Host.Outcome State Fault Refusal :=
  .next (if s.dieIn q (cell / 64) then s.swapUnit q cell else s)

/-! ## Timebases, trace and telemetry -/

/-- A skew register's value: VALID and a signed offset of 40 bits (R271). -/
def skewWord (v : Word) : Word := W (2 ^ 63 + v.toNat % 2 ^ 40)

/-- SKEW_MEASURE (R266): the offsets measured of the dies, and of the neighbours whose link pair is up. -/
def execSkewMeasure (dies peers : List Word) (s : State) : Host.Outcome State Fault Refusal :=
  .next (
    let s1 := (List.range 8).foldl (fun s d => match dies[d]? with
      | some v => s.setReg 11 0 (0xA18 + 0x40 * d) (skewWord v)
      | none => s) s
    (List.range 48).foldl (fun s j => match peers[j]? with
      | some v => if (s.pairPort j true 0).isSome then s.setReg 11 0 (0xC00 + 8 * j) (skewWord v) else s
      | none => s) s1)

/-- A sample of a thread at the site where it stands on die `d`, if it stands there (R267). DESIGN CHOICE, log 14. -/
def State.sample (s : State) (d n k : Nat) : State :=
  let t := s.thrAt n k
  match t.site with
  | .dahlia i j =>
    if i / 2 = d then s.traceCore 1 n k i j t.pc else s
  | .peer _ => s
  | _ => if n / 64 = d then s.traceAt 1 0 n k t.pc else s

/-- TRACE_SAMPLE (R267). -/
def execTraceSample (d : Nat) (s : State) : Host.Outcome State Fault Refusal :=
  .next (
    if s.fld 11 0 0x818 1 1 = 0 then s
    else
      s.cells.foldl (fun s (n, c) => c.slots.foldl (fun s (k, t) => if t.isSome then s.sample d n k else s) s) s)

/-- TRACE: a record written into the trace ring of die `d` (R267). -/
def execTrace (d : Nat) (r : TraceRec) (s : State) : Host.Outcome State Fault Refusal :=
  .next (s.onArrival 0x60 fun s => 
    let o := 0xA00 + 0x40 * d
    let s1 : State := { s with trace := s.trace.erase (d, r) }
    let l := s1.fld 11 0 o 0 5
    let k := (s1.reg 11 0 (o + 8)).toNat
    match s1.partOfDie d with
    | none => s1
    | some q =>
      if l < 4 ∨ 24 < l then s1
      else match (s1.charge d q (s1.fld 11 0 o 12 45 * 4096 + 32 * (k % 2 ^ l)) 32).engPut q (s1.fld 11 0 o 12 45 * 4096 + 32 * (k % 2 ^ l)) [r.w0, r.gid, r.tb, r.pc] with
        | .ok s2 => s2.setReg 11 0 (o + 8) (W (k + 1))
        | .error _ => s1)

/-- TCTL_CLEAR (R270). -/
def execTctlClear (s : State) : Host.Outcome State Fault Refusal :=
  .next { s with regs := s.regs.filter fun e => !(decide (rk 7 0 0 ≤ e.1) && decide (e.1 < rk 7 0 0x80200)) }

/-- TCTL_FREEZE (R270). -/
def execTctlFreeze (on : Bool) (s : State) : Host.Outcome State Fault Refusal := .next (s.setFld 7 0 0x80200 1 1 on.toNat)

end Sys2Proof.Machine
end

