-- ==== Sys2Proof/Machine/Host.lean ====
section
/-! DEFINITION. The host interface (spec/06 R113 to R126; spec/01 R20 to R26): partitions, the mailbox with its images and
reports, start-up and reset, reads and writes of the BAR0 space with the effects of each register, management packets, and the
instructions rdpr and wrpr (spec/14 R315, R316). -/
namespace Sys2Proof.Machine

/-- The state that an event leaves. -/
def State.after (s : State) : Host.Outcome State Fault Refusal → State
  | .next x => x
  | _ => s

/-! ## Partitions -/

/-- An aligned set of 1, 2, 4 or 8 dies (R119), as a mask. -/
def diesOk (m : Nat) : Bool := [1, 2, 4, 8, 16, 32, 64, 128, 3, 12, 48, 192, 15, 240, 255].contains m

/-- A set of dies shares a die with another partition (R120). -/
def State.diesTaken (s : State) (q m : Nat) : Bool :=
  (List.range 8).any fun p => p != q && s.fld 5 0 (0x40 * p) 0 1 == 1 && (s.fld 5 0 (0x40 * p) 8 8 &&& m) != 0

/-- A write of PARTCTL refused by its own rule (R6, R18, R120). -/
def State.partRefuse (s : State) (q : Nat) : State :=
  (s.recordRefusal 5 0 (0x40 * q)).partStat q 1

/-- Cells of a set of dies changed. -/
def State.mapCells (s : State) (ds : List Nat) (f : Cell → Cell) : State :=
  { s with cells := s.cells.map fun (n, c) => (n, if ds.contains (n / 64) then f c else c) }

/-- Partition `q` created with the value written (R120): fresh keys, its dies released, RUNNING; accumulators and mailbox
counters are zero (R193, R336), the channels of its dies are disarmed (R363), and every spread pointer starts at its own die (R133). -/
def State.partCreate (s : State) (q : Nat) (v : Word) : State :=
  let s1 := s.storeReg 5 0 (0x40 * q) v
  let ds := s1.diesOf q
  let s2 := s1.mapCells ds fun c => { c with acc := [], mbc := [], chans := [] }
  let s3 := (List.range 8).foldl (fun s d =>
    let x := s.dieAt d
    s.setDie d { x with chans := if ds.contains d then [] else x.chans, spread := x.spread.filter (·.1 ≠ q) }) s2
  let s4 := { s3.setPart q { Part.init with key := some s3.keyEpoch } with keyEpoch := s3.keyEpoch + 1 }
  (s4.setFld 5 0 (0x40 * q + 8) 0 1 1).raisePart q

/-- What a die holds for a partition dropped: its graphs' tasks in the ready queues, its rings, calls and replicas, and its
channels (R120, R363). -/
def Die.dropPart (x : Die) (q : Nat) : Die :=
  { x with ready := x.ready.map (fun (c, l) => (c, l.filter (·.part ≠ q))), rings := x.rings.filter (·.part ≠ q),
           calls := x.calls.filter (·.part ≠ q), steps := [], arrived := [], replicas := x.replicas.filter (·.part ≠ q), views := x.views.filter (·.part ≠ q),
           gone := x.gone.filter (·.1 ≠ q), chans := [] }

/-- Partition `q` ended with the value written (R120): issue and polling stop, its contexts, graphs, rings, calls and
replicas are gone, running copy records end with ABORTED (R162), the keys are destroyed, RUNNING clears. -/
def State.partEnd (s : State) (q : Nat) (v : Word) : State :=
  let ds := s.diesOf q
  let keys := s.cells.flatMap fun (n, c) => if ds.contains (n / 64) then c.slots.map fun e => (n, e.1) else []
  let s1 := keys.foldl (fun s (n, k) => (s.withdraw n k true).dropGuest n k) s
  let s2 := s1.mapCells ds fun c => { c with slots := [], mq := [], fills := [], swap := [], chans := [], stopped := false }
  let s3 := ds.foldl (fun s d => s.setDie d ((s.dieAt d).dropPart q)) s2
  let s4 : State := { s3 with
    graphs := s3.graphs.filter (·.part ≠ q), flights := s3.flights.filter (fun f => !ds.contains (f.cell / 64)),
    fetchBuf := s3.fetchBuf.filter (fun e => e.1 / 2 ^ 57 ≠ q),
    hbmStacks := s3.hbmStacks.map fun (i, x) => (i, { x with bsq := x.bsq.filter (·.part ≠ q) }) }
  let s5 := (List.range 8).foldl (fun s d => (List.range 24).foldl (fun s c =>
    if s.chPart d c = q ∧ s.chState d c = 1 then s.copyFail d c 6 else s) s) s4
  let s6 := (s5.setPart q Part.init).storeReg 5 0 (0x40 * q) v
  let s7 := ((s6.setFld 10 0 (0x40 * q + 0x30) 8 1 0).setFld 11 0 (0x100 * q + 0x18) 8 1 0).setFld 11 0 (0x100 * q + 0x30) 8 1 0
  (s7.setFld 5 0 (0x40 * q + 8) 0 1 0).raisePart q

/-- A write of PARTCTL (R119, R120): DIES is written only while EN is 0. -/
def State.partctl (s : State) (q : Nat) (v : Word) : State :=
  let o := 0x40 * q
  let en := s.fld 5 0 o 0 1
  if writeBad 5 o v then s.refuse 5 0 o
  else if en = 1 then
    if bf v 8 8 ≠ s.fld 5 0 o 8 8 then s.partRefuse q
    else if v.getLsbD 0 then s.storeReg 5 0 o v
    else s.partEnd q v
  else if v.getLsbD 0 then
    if !diesOk (bf v 8 8) || s.diesTaken q (bf v 8 8) || (List.range 8).any (fun d => v.getLsbD (8 + d) && s.dieHalted d) then s.partRefuse q
    else s.partCreate q v
  else s.storeReg 5 0 o v

/-- PARTITION_CREATE. -/
def execPartitionCreate (q : Nat) (v : Word) (s : State) : Host.Outcome State Fault Refusal := .next (s.partctl q v)
/-- PARTITION_END. -/
def execPartitionEnd (q : Nat) (v : Word) (s : State) : Host.Outcome State Fault Refusal := .next (s.partctl q v)

/-- FSRV_WRITE (R122): with V set, the frames that are held are delivered again: the notifications now, the frames of stopped
threads as they are sent; the cells that waited for it issue again. -/
def execFsrvWrite (q : Nat) (v : Word) (s : State) : Host.Outcome State Fault Refusal :=
  .next (
    let o := 0x40 * q + 0x18
    if writeBad 5 o v then s.refuse 5 0 o
    else
      let s1 := s.storeReg 5 0 o v
      if v.getLsbD 16 then ((s1.mapCells (s1.diesOf q) fun c => { c with stopped := false }).bindFrames q).offerNotes q else s1)

/-! ## Images, the mailbox and start-up -/

/-- Bytes `a` to `a + n - 1` of an image. -/
def part (l : List Byte) (a n : Nat) : List Byte := (l.drop a).take n

/-- A little-endian number of bytes. -/
def leNat (l : List Byte) : Nat := l.foldr (fun b a => b.toNat + 256 * a) 0

/-- `n` little-endian bytes of a number. -/
def leBytes (v n : Nat) : List Byte := (List.range n).map fun i => BitVec.ofNat 8 (v / 256 ^ i)

/-- The body of an image (R21). -/
def imageBody (im : List Byte) : List Byte := part im 4096 (leNat (part im 24 8))

/-- The SHAKE256 digest of bytes, as 64 bytes. -/
def digest (l : List Byte) : List Byte := leBytes (Config.shake256 l).toNat 64

/-- The verifier (R21, R22): the step that fails, if one does; the key digest covers the key block, the padded key. DESIGN CHOICE,
log 45: a layout that R21 does not allow fails at step 1. -/
def State.imageStep (s : State) (im : List Byte) (kinds : List Nat) : Option Nat :=
  let kind := leNat (part im 4 4)
  let body := imageBody im
  if leNat (part im 0 4) ≠ 0x45384649 ∨ im.length < 4096 ∨ !kinds.contains kind ∨ leNat (part im 12 4) ≠ 0 ∨ (part im 160 96).any (· != 0#8) ∨
      (part im 3329 767).any (· != 0#8) ∨ body.length ≠ leNat (part im 24 8) ∨ (kind = 5 ∧ (body.length ≠ 4 ∨ leNat (part im 16 8) ≠ 0)) then some 1
  else
    let block := part im 1536 1800
    let dig := Config.shake256 block
    if part im 96 64 ≠ digest block ∨ !(List.range 4).any (fun i => Config.rootDigest i == dig && !Config.rootRevoked i) then some 2
    else if !Config.falconVerify (block.take 1793) (part im 0 256) (part im 256 1280) then some 3
    else if leNat (part im 8 4) < s.service.minLevel then some 4
    else if digest body ≠ part im 32 64 then some 5
    else none

/-- The digest of a verified image appended to the measurement slots (R25). DESIGN CHOICE, log 45: with all 16 slots filled
nothing is appended. -/
def Service.measure (x : Service) (im : List Byte) : Service :=
  if x.measurements.length < 16 then { x with measurements := x.measurements ++ [part im 32 64] } else x

/-- A verified image measured, and its body copied to its load address (R22, R25). -/
def Service.load (x : Service) (im : List Byte) : Service :=
  let y := x.measure im
  { y with loaded := y.loaded ++ [{ kind := leNat (part im 4 4), addr := leNat (part im 16 8), body := imageBody im }] }

/-- The images that lie one behind the other in a flash slot or a buffer. DESIGN CHOICE, log 45. -/
def imagesIn : Nat → List Byte → List (List Byte)
  | 0, _ => []
  | n + 1, l =>
    if l.length < 4096 then []
    else l.take (4096 + leNat (part l 24 8)) :: imagesIn n (l.drop (4096 + leNat (part l 24 8)))

/-- The images of a slot or buffer whose first one is verified: each is checked in turn, and those that pass are measured and
loaded, in load order (R20 step 4, R22, R25); a kind-5 body is never loaded. -/
def State.loadAll (s : State) (l : List Byte) : Service :=
  (imagesIn (l.length / 4096) l).foldl (fun x im => if (s.imageStep im [1, 2, 3, 4]).isNone then x.load im else x) s.service

/-- Secure boot (R20 to R23): the slot tried first, then the other, then recovery mode. DESIGN CHOICE, log 45: the first image of a slot may be of
any kind that is verified. -/
def State.boot (s : State) : State :=
  let x := s.service
  let try_ := fun (b : Bool) =>
    let im := if b then x.slotB else x.slotA
    if (if b then x.okB else x.okA) && (s.imageStep im [1, 2, 3, 4]).isNone then some im else none
  match try_ x.firstB with
  | some im => { s with service := { s.loadAll im with booted := some x.firstB, up := true } }
  | none => match try_ (!x.firstB) with
    | some im => { s with service := { s.loadAll im with booted := some (!x.firstB), up := true } }
    | none => { s with service := { x with recovery := true } }

/-- The links of the base dies trained with fresh session keys, and the device's identity from the pod record (R20, R35,
R123). -/
def State.bringUp (s : State) : State :=
  let s1 := (List.range 16).foldl (fun s k =>
    let s' := s.setFld 2 0 (0x1000 * k + 8) 0 1 1
    { s'.setStack k { s'.stackAt k with session := s'.free, frames := 0#64 } with free := s'.free + 1 }) s
  s1.setReg 3 0 8 (W (s1.service.assigned.toNat * 2 ^ 11 + s1.service.devId.toNat))

/-- The module after a reset, before start-up (R20, R59, R120, R126): everything at its reset value, memory unfilled, a fresh
boot nonce; flash and fuses, the host's memory, and what the model keeps outside the module stay, and with each die that it lost the
replica groups that it took part in (R94, log 23). -/
def State.cleared (s : State) : State :=
  let x := s.service
  let y : Service := { Service.reset with slotA := x.slotA, slotB := x.slotB, okA := x.okA, okB := x.okB, firstB := x.firstB,
                                          minLevel := x.minLevel, podV := x.podV, podDev := x.podDev, devId := x.devId, assigned := x.assigned }
  { State.reset with agenda := s.agenda, free := s.free + 1, stamp := s.stamp, keyEpoch := s.keyEpoch, caps := s.caps,
                     hostMem := s.hostMem, hostLink := s.hostLink, nonce := Config.freeWord s.free, service := y,
                     dies := s.dies.map fun (k, d) => (k, { Die.init with gone := (d.gone ++ d.views.map fun v => (v.part, v.group)).eraseDups }),
                     regs := [(rk 5 0 0x400, W (x.podV.toNat * 2 ^ 11 + x.podDev.toNat))] }

/-- The start-up of R20 up to the release of the cells, which CELL_RELEASE makes die by die. DEDUCED, log 45. -/
def State.startUp (s : State) : State :=
  let s1 := s.cleared.boot
  if s1.service.up then s1.bringUp else s1

/-- POWER_ON (R20): the host link is not trained yet. -/
def execPowerOn (s : State) : Host.Outcome State Fault Refusal := .next { s.startUp with hostLink := false }

/-- MODULE_RESET (R20, R23, R126): a slot that STAGE was writing stays unbootable. -/
def execModuleReset (s : State) : Host.Outcome State Fault Refusal := .next s.startUp

/-- HOST_LINK_TRAINING (R113, R225). -/
def execHostLinkTraining (up : Bool) (s : State) : Host.Outcome State Fault Refusal := .next { s with hostLink := up }

/-- MBADDR. -/
def State.mbAddr (s : State) : Nat := (s.reg 6 0 8).toNat

/-- MBLEN. -/
def State.mbLen (s : State) : Nat := s.fld 6 0 0x10 0 32

/-- `n` bytes of the mailbox buffer at an address of its space (R125): host memory, or HBM for the pod manager. -/
def State.mbRead (s : State) (host : Bool) (a n : Nat) : List Byte :=
  (List.range n).map fun i => if host then s.hostByte (a + i) else s.ownByte (a + i)

/-- The lines of a mailbox buffer in HBM, as addresses. -/
def mbLines (host : Bool) (a n : Nat) : List Nat := if host || n = 0 then [] else (List.range ((a + n - 1) / 64 + 1 - a / 64)).map fun i => 64 * (a / 64 + i)

/-- What reading a mailbox buffer does to its lines: each is opened under its owner's key and counted (R33, R34, R262, R404). -/
def State.mbOpen (s : State) (host : Bool) (a n : Nat) : State :=
  (mbLines host a n).foldl (fun s l => (s.openLine (s.ownerKey l) l).countRead l) s

/-- A mailbox buffer lies in a stack that rehashes: the access stalls (R44). -/
def State.mbStall (s : State) (host : Bool) (a n : Nat) : Bool := (mbLines host a n).any fun l => s.locStall (.hbm l)

/-- Bytes written to the mailbox buffer (R125), and seen by the channels and rings that watch them (R121, R198); each byte's line counts one
write, as the model carries it out (DESIGN CHOICE, log 45). -/
def State.mbWrite (s : State) (host : Bool) (a : Nat) : List Byte → State
  | [] => s
  | b :: r =>
    (if host then ({ s with hostMem := tset memDefault s.hostMem a b } : State).observeRings true a 1
     else
       let s1 := (s.openLine (s.ownerKey a) a).countWrite a
       if s1.lineBad a then s1 else State.observeHbm s1 { s1 with hbm := tset memDefault s1.hbm a b } a 1).mbWrite host (a + 1) r

/-- A buffer that its requester's space does not reach. -/
def State.mbGone (s : State) (host : Bool) (a n : Nat) : Bool := if host then !s.hostLink else decide (2 ^ 40 < a + n)

/-- A mailbox command starts (R125), or is ignored with ERR while one runs (R18). One with a buffer whose accesses stall starts once they
do not (R44): `buf` says whether the buffer is the host's. -/
def State.mbGo (s : State) (f : State → State × Mbox) (buf : Option Bool := none) : State :=
  if s.fld 6 0 0x18 0 1 = 1 then (s.setFld 6 0 0x18 1 1 1).recordRefusal 6 0 0
  else if (buf.map fun h => s.mbStall h s.mbAddr s.mbLen).getD false then s
  else
    let (s1, m) := f s
    { s1.setFld 6 0 0x18 0 1 1 with service := { s1.service with mbox := some m } }

/-- A completion code without a step. -/
def mbCode (c : Nat) : Mbox := { code := c, step := 0, image := none }

/-- STAGE (R126): the image is checked; the slot not booted from is unbootable until it is written. -/
def execStage (host : Bool) (s : State) : Host.Outcome State Fault Refusal :=
  .next (s.mbGo (fun s =>
    if s.mbGone host s.mbAddr s.mbLen then (s, mbCode 2)
    else
      let im := s.mbRead host s.mbAddr s.mbLen
      let s := s.mbOpen host s.mbAddr s.mbLen
      match s.imageStep im [1, 2, 3, 4] with
      | some k => (s, { code := 1, step := k, image := none })
      | none =>
        let x := s.service
        let y := if x.booted = some false then { x with okB := false } else { x with okA := false }
        ({ s with service := y }, { code := 0, step := 0, image := some im })) (some host))

/-- ACTIVATE (R126). -/
def execActivate (_host : Bool) (s : State) : Host.Outcome State Fault Refusal :=
  .next (s.mbGo fun s => ({ s with service := { s.service with firstB := s.mbAddr % 2 == 1 } }, mbCode 0))

/-- The attestation report for a nonce (R26): 120 + 64·m + 1,280 bytes. DESIGN CHOICE, log 45: before any image is verified, m is 0. -/
def State.report (s : State) (nonce : List Byte) : List Byte :=
  let x := s.service
  let m := x.measurements.length
  let fl := s.fld 1 0 0x300 0 2 + 4 * x.recovery.toNat + 8 * s.fld 11 0 0x800 0 1
  let b := leBytes 0x45384154 4 ++ leBytes m 2 ++ leBytes fl 2 ++ leBytes Config.serial.toNat 8 ++ leBytes s.devId 2 ++ leBytes 0 2 ++
    leBytes x.minLevel 4 ++ nonce ++ digest (leBytes Config.identityKey.toNat 1793) ++ x.measurements.flatten
  b ++ leBytes (Config.falconSign b).toNat 1280

/-- ATTEST (R26, R126). -/
def execAttest (host : Bool) (s : State) : Host.Outcome State Fault Refusal :=
  .next (s.mbGo (fun s =>
    if s.mbLen < 64 + 120 + 64 * s.service.measurements.length + 1280 ∨ s.mbGone host s.mbAddr s.mbLen then (s, mbCode 2)
    else ((s.mbOpen host s.mbAddr 32).mbWrite host (s.mbAddr + 64) (s.report (s.mbRead host s.mbAddr 32)), mbCode 0)) (some host))

/-- RAISEMIN (R21, R22, R126). DESIGN CHOICE, log 45: its image is not measured. -/
def execRaisemin (host : Bool) (s : State) : Host.Outcome State Fault Refusal :=
  .next (s.mbGo (fun s =>
    if s.mbGone host s.mbAddr s.mbLen then (s, mbCode 2)
    else
      let im := s.mbRead host s.mbAddr s.mbLen
      let s := s.mbOpen host s.mbAddr s.mbLen
      match s.imageStep im [5] with
      | some k => (s, { code := 1, step := k, image := none })
      | none =>
        let l := leNat (imageBody im)
        if l ≤ s.service.minLevel then (s, mbCode 4) else ({ s with service := { s.service with minLevel := l } }, mbCode 0)) (some host))

/-- RECOVER (R22, R23, R126): in recovery mode a verified image runs without being written to flash. -/
def execRecover (host : Bool) (s : State) : Host.Outcome State Fault Refusal :=
  .next (s.mbGo (fun s =>
    if !s.service.recovery then (s, mbCode 3)
    else if s.mbGone host s.mbAddr s.mbLen then (s, mbCode 2)
    else
      let im := s.mbRead host s.mbAddr s.mbLen
      let s := s.mbOpen host s.mbAddr s.mbLen
      match s.imageStep im [1, 2, 3, 4] with
      | some k => (s, { code := 1, step := k, image := none })
      | none =>
        let s1 : State := { s with service := { s.loadAll im with up := true } }
        (if s.service.up then s1 else s1.bringUp, mbCode 0)) (some host))

/-- MBCMD_UNKNOWN (R126). -/
def execMbcmdUnknown (_host : Bool) (_cmd : BitVec 8) (s : State) : Host.Outcome State Fault Refusal :=
  .next (s.mbGo fun s => (s, mbCode 2))

/-- MAILBOX_COMPLETE (R125, R126): BUSY clears, CODE and STEP are set, vector 0 is raised; STAGE's slot is written. -/
def execMailboxComplete (s : State) : Host.Outcome State Fault Refusal :=
  .next (match s.service.mbox with
    | none => s
    | some m =>
      let x := s.service
      let y := match m.image with
        | none => x
        | some im => if x.booted = some false then { x with slotB := im, okB := true } else { x with slotA := im, okA := true }
      let s1 : State := { s with service := { y with mbox := none }, msix := s.msix ||| 1#16 }
      ((s1.setFld 6 0 0x18 0 1 0).setFld 6 0 0x18 8 8 m.code).setFld 6 0 0x18 16 8 m.step)

/-! ## Reads of the BAR0 space -/

/-- A word of the capability list (R117). -/
def State.capWord (s : State) (off : Nat) : Word :=
  let i := off / 16
  match s.caps[i]? with
  | none => 0#64
  | some c =>
    if off % 16 = 0 then
      W ((if i + 1 < s.caps.length then (off + 16) * 2 ^ 16 else 0) + c.inst * 2 ^ 12 + c.ver * 2 ^ 8 + c.id)
    else W (c.size * 2 ^ 32 + c.base)

/-- QDEPTH of a die (R151). -/
def State.qdepth (s : State) (d : Nat) : Word :=
  W ((List.range 4).foldl (fun v c => v + min 0xFFFF (s.ready d c).length * 2 ^ (16 * c)) 0)

/-- Rings with work on a die (R121, R151). -/
def State.ringsWork (s : State) (d : Nat) : Nat :=
  ((s.ringsOn d).filter fun k => match (s.ringLook d k.1 k.2.1 k.2.2).2 with
    | some (_, prod, cons) => prod != cons
    | none => false).length

/-- A register as a read gives it (R6): write-only fields read as zero; two registers of the scheduler count what it holds. -/
def State.regRead (s : State) (b i o : Nat) : Word :=
  if b = 8 ∧ o = 0x28 then s.qdepth i
  else if b = 8 ∧ o = 0x30 then W (s.ringsWork i * 2 ^ 32 + s.mappedCount i)
  else match regMask b o with
    | none => 0#64
    | some m => s.reg b i o &&& W (m.ro ||| m.rw ||| m.w1c)

/-- An 8-byte read of an aligned BAR0 offset (R115, R117): nothing where no block covers it. -/
def State.barRead (s : State) (off : Nat) : Option Word :=
  if off < 16 * s.caps.length then some (s.capWord off)
  else (s.blockAt off).map fun (b, i, o) => s.regRead b i o

/-! ## Writes of the BAR0 space -/

/-- A write of MBCMD (R125, R126). -/
def State.mbcmd (s : State) (host : Bool) (v : Word) : State :=
  s.after (match bf v 0 8 with
    | 1 => execStage host s
    | 2 => execActivate host s
    | 3 => execAttest host s
    | 4 => execRaisemin host s
    | 5 => execRecover host s
    | c => execMbcmdUnknown host (BitVec.ofNat 8 c) s)

/-- A write of PCTL of port `p` (R52, R53, R73). -/
def State.pctl (s : State) (p : Nat) (v : Word) : State :=
  let s1 := if v.getLsbD 1 then s.after (execRewiden p s) else s
  if v.getLsbD 0 then (if s1.pstate p = 0 then s1.after (execPortEnable p s1) else s1.setFld 3 0 (pst p - 8) 0 1 1)
  else s1.after (execPortDisable p s1)

/-- A write of SCMD of die `d` (R145, R151). -/
def State.scmdWrite (s : State) (d : Nat) (v : Word) : State :=
  if s.fld 8 d 0x10 8 1 = 1 then (s.setFld 8 d 0x10 9 1 1).recordRefusal 8 d 8
  else match bf v 0 2 with
    | 0 => s
    | c => s.scmd d c

/-- A register whose field EN goes from 0 to 1 in a write. -/
def State.sets (s : State) (b i o k : Nat) (v : Word) : Bool := s.fld b i o k 1 == 0 && v.getLsbD k

/-- The state `t` with REGERR and REGERRA as they were: a write of which only some fields are ignored is performed in the others and
not recorded (R18). -/
def State.unrecorded (s t : State) : State := (t.setReg 1 0 0x500 (s.reg 1 0 0x500)).setReg 1 0 0x508 (s.reg 1 0 0x508)

/-- An accepted write of a register with the effects of its own (R6, R18 and the register tables). DEDUCED, log 46. -/
def State.regWrite (s : State) (host : Bool) (b i o : Nat) (v : Word) : State :=
  match b with
  | 1 => let s1 := s.storeReg 1 i o v
         if o = 0x308 ∧ 4800 < v.toNat then s1.setFld 1 0 0x318 2 1 1 else s1
  | 2 =>
    let k := o / 0x1000
    let r := o % 0x1000
    if r = 0 then
      let s1 := if v.getLsbD 1 then s.after (execClrcnt k s) else s
      if v.getLsbD 0 then (if v.getLsbD 1 then s1.unrecorded (s1.after (execApply k s1)) else s1.after (execApply k s1)) else s1
    else if 0x10 ≤ r ∧ r ≤ 0x38 then s.after (execHxmWrite k ((r - 0x10) / 8) v s)
    else if r = 0x50 then s.after (execElheadWrite k v s)
    else s.storeReg 2 i o v
  | 3 =>
    if o = 8 then s.after (execFidWrite v s)
    else if o = 0x28 then
      let s1 := if v.getLsbD 1 then s.after (execRtcmdRead s) else s
      if v.getLsbD 0 then (if v.getLsbD 1 then s1.unrecorded (s1.after (execRtcmdWrite s1)) else s1.after (execRtcmdWrite s1)) else s1
    else if 0x1000 ≤ o ∧ o % 0x20 = 0 then s.pctl ((o - 0x1000) / 0x20) v
    else s.storeReg 3 i o v
  | 5 =>
    let q := o / 0x40
    if 0x200 ≤ o then s.storeReg 5 i o v
    else if o % 0x40 = 0 then s.partctl q v
    else if o % 0x40 = 8 then
      let s1 := s.storeReg 5 i o v
      if s1.reg 5 0 o = s.reg 5 0 o then s1 else s1.raisePart q
    else if o % 0x40 = 0x18 then s.after (execFsrvWrite q v s)
    else s.storeReg 5 i o v
  | 6 => if o = 0 then s.mbcmd host v else s.storeReg 6 i o v
  | 7 =>
    if o = 0x80200 then
      let s1 := if v.getLsbD 0 then s.after (execTctlClear s) else s
      s1.after (execTctlFreeze (v.getLsbD 1) s1)
    else s.storeReg 7 i o v
  | 8 =>
    if o = 8 then s.scmdWrite i v
    else if o = 0x18 then
      let s1 := if s.sets 8 i o 5 v then s.setReg 8 i 0x20 0#64 else s
      s1.storeReg 8 i o v
    else s.storeReg 8 i o v
  | 9 =>
    let c := o / 0x40
    if 0x600 ≤ o then s
    else if o % 0x40 = 0 then s.after (execCctlEnWrite i c v s)
    else if o % 0x40 = 8 then s.after (execCheadWrite i c v s)
    else s.storeReg 9 i o v
  | 10 =>
    let q := o / 0x40
    if o % 0x40 = 0 then s.after (execPtrootWrite q v s)
    else if o % 0x40 = 0x28 then s.xcmd q (bf v 0 3)
    else s.storeReg 10 i o v
  | 11 =>
    if o < 0x800 ∧ o % 0x100 = 0x18 then
      let s1 := s.storeReg 11 i o v
      if v.getLsbD 0 then s1.after (execBankSwitch (o / 0x100) s1) else s1
    else if o < 0x800 ∧ o % 0x100 = 0x28 then s.after (execDstopWrite (o / 0x100) v s)
    else if o = 0x800 then
      let on := s.fld 11 0 0x800 0 1
      let s1 := s.storeReg 11 i o v
      if on = 1 then s1.setFld 11 0 0x800 0 1 1 else s1
    else if o = 0x808 then s.after (if bf v 0 3 = 0 ∨ 6 ≤ bf v 0 3 then execEinjDisarm (v.setWidth 3) s else execEinjArm (v.setWidth 3) s)
    else if o = 0x818 then
      let s1 := if s.sets 11 i o 0 v then (List.range 8).foldl (fun s d => s.setReg 11 0 (0xA08 + 0x40 * d) 0#64) s else s
      s1.storeReg 11 i o v
    else s.storeReg 11 i o v
  | _ => s.storeReg b i o v

/-- An 8-byte write of an aligned BAR0 offset, by the host or wrpr, or by the pod manager (R6, R18, R115, R123, R124): without
effect where no block covers it, the capability list among them. DEDUCED, log 66: a reserved bit refuses the write before the
register's own rule is looked at. -/
def State.barWrite (s : State) (host : Bool) (off : Nat) (v : Word) : State :=
  if off < 16 * s.caps.length then s
  else match s.blockAt off with
    | none => s
    | some (b, i, o) => if writeBad b o v then s.refuse b i o else s.regWrite host b i o v

/-- REGISTER_WRITE (R6, R115): a write over PCIe; a misaligned one has no effect. -/
def execRegisterWrite (off : BitVec 27) (v : Word) (s : State) : Host.Outcome State Fault Refusal :=
  .next (if off.toNat % 8 = 0 then s.barWrite true off.toNat v else s)

/-! ## Management packets -/

/-- The pod manager may access the registers (R123). -/
def State.managed (s : State) (dev : BitVec 11) : Bool := s.fld 5 0 0x400 11 1 == 1 && s.fld 5 0 0x400 0 11 == dev.toNat

/-- A management response (R72, R123): poisoned with NOWIN where there is no value. -/
def State.mresp (s : State) (dev : BitVec 11) (v : Option Word) : State :=
  s.emit (match v with
    | some w => { s.blank 0x52 1 dev.toNat true with pay := [w] }
    | none => { s.blank 0x52 1 dev.toNat true with poison := true, cause := 1#4 })

/-- MREAD_PACKET (R123). -/
def execMreadPacket (dev : BitVec 11) (off : BitVec 27) (s : State) : Host.Outcome State Fault Refusal :=
  .next (s.onArrival 0x50 fun s => s.mresp dev (if s.managed dev && off.toNat % 8 == 0 then s.barRead off.toNat else none))

/-- MWRITE (R123). -/
def execMwrite (dev : BitVec 11) (off : BitVec 27) (v : Word) (s : State) : Host.Outcome State Fault Refusal :=
  .next (s.onArrival 0x51 fun s =>
    if s.managed dev then (if off.toNat % 8 = 0 then s.barWrite false off.toNat v else s) else s.mresp dev none)

/-- MRESP (R123): the response reaches the service die that asked; no register of the device holds it. -/
def execMresp (_dev : BitVec 11) (_v : Word) (_cause : Nat) (s : State) : Host.Outcome State Fault Refusal :=
  .next (s.onArrival 0x52 id)

/-! ## Privileged access by a thread -/

/-- The checks of rdpr and wrpr (R316), with the permission bit: the cause of a trap, or the offset. -/
def State.privCheck (s : State) (bit : Nat) (a : Word) : Except Nat Nat :=
  if s.fld 12 0 (8 * s.thr.part) bit 1 = 0 then .error cPERM
  else if a.toNat % 8 ≠ 0 then .error cALIGN
  else if 2 ^ 27 ≤ a.toNat ∨ (s.blockAt a.toNat).isNone then .error cXLATE
  else .ok a.toNat

/-- RDPR (R316): the value is read at issue; the result returns later, and the access is an acquire. -/
def execRdpr (la : BitVec 4) (x y : GReg) (e : BitVec 26) (s : State) :=
  s.run (.rdpr la x y e) fun s =>
    let a := s.eaOf (s.rd y + e.zeroExtend 64)
    match s.privCheck 0 a with
    | .error c => s.trap c a
    | .ok off =>
      let v := (s.barRead off).getD 0#64
      s.long (.rdpr la x y e) a (.ret [.scalar x.toNat v] 0#8) (some v) none true

/-- WRPR (R316): a release at device scope, then the write, which performs behind those over PCIe (State.privAll, R319). DEDUCED, log 48. -/
def execWrpr (y z : GReg) (e : BitVec 26) (s : State) :=
  s.run (.wrpr y z e) fun s =>
    let a := s.eaOf (s.rd y + e.zeroExtend 64)
    match s.privCheck 1 a with
    | .error c => s.trap c a
    | .ok off =>
      if 8 ≤ s.thr.out.length then s.park false
      else s.long (.wrpr y z e) a (.priv off (s.rd z)) none none false

/-- A write of CCTL or of SCMD, whose ABORT or KILL comes behind what completes in its cycle (R146, R167, R319). -/
def State.lateWrite (s : State) (off : Nat) : Bool :=
  match s.blockAt off with
  | some (9, _, o) => decide (o < 0x600) && o % 0x40 == 0
  | some (8, _, o) => o == 8
  | _ => false

/-- The register writes of wrpr that have waited for their releases perform, those that come late in a cycle or the others, in ascending order
of die, cell and slot: behind the writes that came over PCIe in the cycle (R316, R319). -/
def State.privAll (s : State) (late : Bool) : State :=
  let ws := s.cells.flatMap fun (n, c) => c.slots.flatMap fun (k, t) => match t with
    | some t => t.out.filterMap fun p => match p.act with
      | .priv off v => if s.lateWrite off = late then some (n, k, p.seq, off, v) else none
      | _ => none
    | none => []
  ws.foldl (fun s (n, k, seq, off, v) =>
    let t := s.thrAt n k
    match t.out.findIdx? fun p => p.seq == seq && p.act == .priv off v with
    | some i => if t.released (n / 64) 1 seq then (s.retire n k i).barWrite true off v else s
    | none => s) s

end Sys2Proof.Machine
end

