-- ==== Sys2Proof/Machine/Lupin.lean ====
section
/-! DEFINITION. The Lupin stream instructions (spec/17 R393 to R398, spec/10 R218): generation from the counter hash, the
lineage and its CORR fault, logic, counts and regeneration. -/
namespace Sys2Proof.Machine

/-- The bits of a lane of a length code (R180). -/
def strmLen (code : Nat) : Nat := 256 * 4 ^ code

/-- The base-2 logarithm of the length. -/
def strmLog (code : Nat) : Int := 8 + 2 * code

/-- A stream register's new contents (R370, R393), written when the instruction completes. -/
def State.strmRes (s : State) (i : Instr) (qd : BitVec 4) (lanes : List Nat) (code : Nat) (lin : Word) (fl : Nat) : State :=
  let ls := (lanes.zipIdx.filter fun (v, _) => v != 0).map fun (v, k) => (k, v)
  s.long i 0#64 (.ret [.strm (s.sphys qd.toNat) ls code lin] (BitVec.ofNat 8 fl)) none none false

/-- The bits of lane `i` of a stream. -/
def Strm.lane (q : Strm) (i : Nat) : Nat := tget (fun _ => 0) q.lanes i

/-- The threshold of R394 for an FP32 value, with flags: floor(p * 2^32) clamped to 0 to 2^32. -/
def threshold (bip : Bool) : FVal → Nat × Nat
  | .nan _ => (0, flNV)
  | .inf sg => (if sg then 0 else 2 ^ 32, flSAT)
  | .fin sg m e =>
    let v : Int := (m * 2 ^ (e + 149).toNat : Nat)
    let x := if sg then -v else v
    let n := if bip then (x + (2 ^ 149 : Nat)) * (2 ^ 31 : Nat) else x * (2 ^ 32 : Nat)
    let t := n / (2 ^ 149 : Nat)
    if t < 0 then (0, flSAT) else if (2 ^ 32 : Nat) < t then (2 ^ 32, flSAT) else (t.toNat, 0)

/-- The bits of a generated lane: bit `n` is set where its draw lies below the threshold (R394). -/
def genLane (seed lin : Word) (lane t : Nat) : Nat → Nat
  | 0 => 0
  | n + 1 => genLane seed lin lane t n + (if (rng seed lin lane n).toNat < t then 2 ^ n else 0)

/-- The lanes generated for 32 thresholds, with the seed and salt as captured at issue (R394). -/
def State.generate (s : State) (gx : GReg) (src : BitVec 6) (len : Nat) (ts : List Nat) : List Nat :=
  let lin := (1#64 <<< src.toNat) ^^^ W ((s.rd gx).toNat % 2 ^ 32 * 2 ^ 32)
  ts.zipIdx.map fun (t, i) => genLane (s.rdN 60) lin (32 * s.thr.lane + i) t len

/-- SLEN (R393): complete for the next bundle. -/
def execSlen (qd : BitVec 4) (len : BitVec 2) (s : State) :=
  s.run (.slen qd len) fun s =>
    s.setStrmAt s.turn (s.cur / 16) (s.sphys qd.toNat) { lanes := [], code := len.toNat, lineage := 0#64, full := true, pending := false }

/-- SGEN (R394). -/
def execSgen (la qd : BitVec 4) (gx : GReg) (ts row : BitVec 5) (bip : Bool) (src : BitVec 6) (s : State) :=
  s.run (.sgen la qd gx ts row bip src) fun s =>
    let xs := rowElems 11#4 ((s.tile ts.toNat).rows.getD row.toNat 0)
    let th := xs.map fun x => threshold bip (fdecode fp32 x)
    let code := (s.strm qd.toNat).code
    s.strmRes (.sgen la qd gx ts row bip src) qd (s.generate gx src (strmLen code) (th.map (·.1))) code (1#64 <<< src.toNat)
      (th.foldl (fun f x => f ||| x.2) 0)

/-- A logic operation on streams (R395, R396): FMT for unequal lengths, then CORR with the common sources as FADDR. -/
def State.slogic (s : State) (i : Instr) (qd : BitVec 4) (qs : List Strm) (corr : Word) (f : Nat → Nat → Nat → Nat) : State :=
  let a := qs.getD 0 Strm.init
  if qs.any fun q => q.code != a.code then s.trap cFMT 0#64
  else if corr ≠ 0#64 then s.trap cCORR corr
  else
    let lin := qs.foldl (fun l q => l ||| q.lineage) 0#64
    let lane := fun (k n : Nat) => ((qs[k]?).map fun q => q.lane n).getD 0
    s.strmRes i qd ((List.range 32).map fun n => f (lane 0 n) (lane 1 n) (lane 2 n)) a.code lin 0

/-- SAND. -/
def execSand (la qd qa qb : BitVec 4) (s : State) :=
  s.run (.sand la qd qa qb) fun s =>
    let a := s.strm qa.toNat
    let b := s.strm qb.toNat
    s.slogic (.sand la qd qa qb) qd [a, b] (a.lineage &&& b.lineage) fun x y _ => x &&& y
/-- SXNOR. -/
def execSxnor (la qd qa qb : BitVec 4) (s : State) :=
  s.run (.sxnor la qd qa qb) fun s =>
    let a := s.strm qa.toNat
    let b := s.strm qb.toNat
    s.slogic (.sxnor la qd qa qb) qd [a, b] (a.lineage &&& b.lineage) fun x y _ => (x ^^^ y) ^^^ (2 ^ strmLen a.code - 1)
/-- SMUX: a where c is 1, else b. -/
def execSmux (la qd qa qb qc : BitVec 4) (s : State) :=
  s.run (.smux la qd qa qb qc) fun s =>
    let a := s.strm qa.toNat
    let b := s.strm qb.toNat
    let c := s.strm qc.toNat
    s.slogic (.smux la qd qa qb qc) qd [a, b, c] (c.lineage &&& (a.lineage ||| b.lineage)) fun x y z => y ^^^ ((x ^^^ y) &&& z)

/-- The ones among the low bits of a number. -/
def ones (v : Nat) : Nat → Nat
  | 0 => 0
  | n + 1 => ones v n + v / 2 ^ n % 2

/-- What scnt writes for a lane of `n` ones (R397, R218). -/
def countOut (out : BitVec 2) (code n : Nat) : Nat :=
  match out.toNat with
  | 0 => n
  | 1 => (fencode fp32 0 0 (.fin false n (-(strmLog code)))).1
  | _ => (fencode fp32 0 0 (ofInt (2 * (n : Int) - (strmLen code : Nat)) (-(strmLog code)))).1

/-- SCNT (R397): one row of tD is written, the others kept. -/
def execScnt (la qa : BitVec 4) (td row : BitVec 5) (out : BitVec 2) (s : State) :=
  s.run (.scnt la qa td row out) fun s =>
    let a := s.strm qa.toNat
    let vs := (List.range 32).map fun i => countOut out a.code (ones (a.lane i) (strmLen a.code))
    s.tilesRes (.scnt la qa td row out) [(td.toNat, (s.tile td.toNat).rows.set row.toNat (packRow 32 0 vs))] 0

/-- SREGEN (R398): p is the lane's count over its length, exactly. -/
def execSregen (la qd qa : BitVec 4) (gx : GReg) (src : BitVec 6) (s : State) :=
  s.run (.sregen la qd qa gx src) fun s =>
    let a := s.strm qa.toNat
    let code := (s.strm qd.toNat).code
    let ts := (List.range 32).map fun i => ones (a.lane i) (strmLen a.code) * 2 ^ 32 / strmLen a.code
    s.strmRes (.sregen la qd qa gx src) qd (s.generate gx src (strmLen code) ts) code (1#64 <<< src.toNat) 0

end Sys2Proof.Machine
end

