-- ==== Sys2Proof/Machine/Dispatch.lean ====
section
/-! DEFINITION. One arm per constructor of Instr: what each instruction and each event does. -/
namespace Sys2Proof.Machine

def exec (i : Instr) (s : State) : Host.Outcome State Fault Refusal :=
  match i with
  | .br a0 => Sys2Proof.Machine.execBr a0 s
  | .call a0 => Sys2Proof.Machine.execCall a0 s
  | .bz a0 a1 => Sys2Proof.Machine.execBz a0 a1 s
  | .bnz a0 a1 => Sys2Proof.Machine.execBnz a0 a1 s
  | .jr a0 => Sys2Proof.Machine.execJr a0 s
  | .jlr a0 a1 => Sys2Proof.Machine.execJlr a0 a1 s
  | .rep a0 a1 => Sys2Proof.Machine.execRep a0 a1 s
  | .yield => Sys2Proof.Machine.execYield s
  | .done => Sys2Proof.Machine.execDone s
  | .setpri a0 a1 => Sys2Proof.Machine.execSetpri a0 a1 s
  | .tbar => Sys2Proof.Machine.execTbar s
  | .launch a0 a1 a2 => Sys2Proof.Machine.execLaunch a0 a1 a2 s
  | .fill a0 a1 => Sys2Proof.Machine.execFill a0 a1 s
  | .ld a0 a1 a2 a3 a4 => Sys2Proof.Machine.execLd a0 a1 a2 a3 a4 s
  | .lds a0 a1 a2 a3 a4 => Sys2Proof.Machine.execLds a0 a1 a2 a3 a4 s
  | .st a0 a1 a2 a3 => Sys2Proof.Machine.execSt a0 a1 a2 a3 s
  | .ldx a0 a1 a2 a3 a4 => Sys2Proof.Machine.execLdx a0 a1 a2 a3 a4 s
  | .ldsx a0 a1 a2 a3 a4 => Sys2Proof.Machine.execLdsx a0 a1 a2 a3 a4 s
  | .stx a0 a1 a2 a3 => Sys2Proof.Machine.execStx a0 a1 a2 a3 s
  | .pf a0 a1 a2 => Sys2Proof.Machine.execPf a0 a1 a2 s
  | .fence a0 a1 => Sys2Proof.Machine.execFence a0 a1 s
  | .cinv a0 a1 => Sys2Proof.Machine.execCinv a0 a1 s
  | .mbwait a0 a1 a2 a3 => Sys2Proof.Machine.execMbwait a0 a1 a2 a3 s
  | .mbread a0 a1 a2 => Sys2Proof.Machine.execMbread a0 a1 a2 s
  | .bowait a0 a1 a2 a3 => Sys2Proof.Machine.execBowait a0 a1 a2 a3 s
  | .boread a0 a1 a2 a3 => Sys2Proof.Machine.execBoread a0 a1 a2 a3 s
  | .wmread a0 a1 a2 => Sys2Proof.Machine.execWmread a0 a1 a2 s
  | .nopc => Sys2Proof.Machine.execNopc s
  | .add a0 a1 a2 => Sys2Proof.Machine.execAdd a0 a1 a2 s
  | .sub a0 a1 a2 => Sys2Proof.Machine.execSub a0 a1 a2 s
  | .mul a0 a1 a2 => Sys2Proof.Machine.execMul a0 a1 a2 s
  | .mulh a0 a1 a2 => Sys2Proof.Machine.execMulh a0 a1 a2 s
  | .mulhu a0 a1 a2 => Sys2Proof.Machine.execMulhu a0 a1 a2 s
  | .div a0 a1 a2 => Sys2Proof.Machine.execDiv a0 a1 a2 s
  | .divu a0 a1 a2 => Sys2Proof.Machine.execDivu a0 a1 a2 s
  | .rem a0 a1 a2 => Sys2Proof.Machine.execRem a0 a1 a2 s
  | .remu a0 a1 a2 => Sys2Proof.Machine.execRemu a0 a1 a2 s
  | .and a0 a1 a2 => Sys2Proof.Machine.execAnd a0 a1 a2 s
  | .or a0 a1 a2 => Sys2Proof.Machine.execOr a0 a1 a2 s
  | .xor a0 a1 a2 => Sys2Proof.Machine.execXor a0 a1 a2 s
  | .andn a0 a1 a2 => Sys2Proof.Machine.execAndn a0 a1 a2 s
  | .shl a0 a1 a2 => Sys2Proof.Machine.execShl a0 a1 a2 s
  | .shr a0 a1 a2 => Sys2Proof.Machine.execShr a0 a1 a2 s
  | .sra a0 a1 a2 => Sys2Proof.Machine.execSra a0 a1 a2 s
  | .rol a0 a1 a2 => Sys2Proof.Machine.execRol a0 a1 a2 s
  | .ror a0 a1 a2 => Sys2Proof.Machine.execRor a0 a1 a2 s
  | .min a0 a1 a2 => Sys2Proof.Machine.execMin a0 a1 a2 s
  | .max a0 a1 a2 => Sys2Proof.Machine.execMax a0 a1 a2 s
  | .minu a0 a1 a2 => Sys2Proof.Machine.execMinu a0 a1 a2 s
  | .maxu a0 a1 a2 => Sys2Proof.Machine.execMaxu a0 a1 a2 s
  | .addsc a0 a1 a2 a3 => Sys2Proof.Machine.execAddsc a0 a1 a2 a3 s
  | .sel a0 a1 a2 a3 => Sys2Proof.Machine.execSel a0 a1 a2 a3 s
  | .clz a0 a1 => Sys2Proof.Machine.execClz a0 a1 s
  | .ctz a0 a1 => Sys2Proof.Machine.execCtz a0 a1 s
  | .popc a0 a1 => Sys2Proof.Machine.execPopc a0 a1 s
  | .bswap a0 a1 => Sys2Proof.Machine.execBswap a0 a1 s
  | .bext a0 a1 a2 a3 => Sys2Proof.Machine.execBext a0 a1 a2 a3 s
  | .bins a0 a1 a2 a3 => Sys2Proof.Machine.execBins a0 a1 a2 a3 s
  | .sext a0 a1 a2 => Sys2Proof.Machine.execSext a0 a1 a2 s
  | .addi a0 a1 a2 => Sys2Proof.Machine.execAddi a0 a1 a2 s
  | .andi a0 a1 a2 => Sys2Proof.Machine.execAndi a0 a1 a2 s
  | .ori a0 a1 a2 => Sys2Proof.Machine.execOri a0 a1 a2 s
  | .xori a0 a1 a2 => Sys2Proof.Machine.execXori a0 a1 a2 s
  | .shli a0 a1 a2 => Sys2Proof.Machine.execShli a0 a1 a2 s
  | .shri a0 a1 a2 => Sys2Proof.Machine.execShri a0 a1 a2 s
  | .srai a0 a1 a2 => Sys2Proof.Machine.execSrai a0 a1 a2 s
  | .muli a0 a1 a2 => Sys2Proof.Machine.execMuli a0 a1 a2 s
  | .cmp a0 a1 a2 a3 a4 => Sys2Proof.Machine.execCmp a0 a1 a2 a3 a4 s
  | .cmpi a0 a1 a2 a3 a4 => Sys2Proof.Machine.execCmpi a0 a1 a2 a3 a4 s
  | .fcmp a0 a1 a2 a3 a4 => Sys2Proof.Machine.execFcmp a0 a1 a2 a3 a4 s
  | .fcmpd a0 a1 a2 a3 a4 => Sys2Proof.Machine.execFcmpd a0 a1 a2 a3 a4 s
  | .take a0 a1 => Sys2Proof.Machine.execTake a0 a1 s
  | .mkempty a0 => Sys2Proof.Machine.execMkempty a0 s
  | .mkfull a0 => Sys2Proof.Machine.execMkfull a0 s
  | .isfull a0 a1 => Sys2Proof.Machine.execIsfull a0 a1 s
  | .fadd a0 a1 a2 a3 a4 => Sys2Proof.Machine.execFadd a0 a1 a2 a3 a4 s
  | .fsub a0 a1 a2 a3 a4 => Sys2Proof.Machine.execFsub a0 a1 a2 a3 a4 s
  | .fmul a0 a1 a2 a3 a4 => Sys2Proof.Machine.execFmul a0 a1 a2 a3 a4 s
  | .fdiv a0 a1 a2 a3 a4 => Sys2Proof.Machine.execFdiv a0 a1 a2 a3 a4 s
  | .fsqrt a0 a1 a2 a3 => Sys2Proof.Machine.execFsqrt a0 a1 a2 a3 s
  | .fma a0 a1 a2 a3 a4 => Sys2Proof.Machine.execFma a0 a1 a2 a3 a4 s
  | .fmin a0 a1 a2 a3 => Sys2Proof.Machine.execFmin a0 a1 a2 a3 s
  | .fmax a0 a1 a2 a3 => Sys2Proof.Machine.execFmax a0 a1 a2 a3 s
  | .fabs a0 a1 a2 => Sys2Proof.Machine.execFabs a0 a1 a2 s
  | .fneg a0 a1 a2 => Sys2Proof.Machine.execFneg a0 a1 a2 s
  | .fcvt a0 a1 a2 a3 a4 => Sys2Proof.Machine.execFcvt a0 a1 a2 a3 a4 s
  | .fcvti a0 a1 a2 a3 a4 => Sys2Proof.Machine.execFcvti a0 a1 a2 a3 a4 s
  | .icvtf a0 a1 a2 a3 a4 => Sys2Proof.Machine.execIcvtf a0 a1 a2 a3 a4 s
  | .fclass a0 a1 a2 => Sys2Proof.Machine.execFclass a0 a1 a2 s
  | .fexp2 a0 a1 a2 a3 => Sys2Proof.Machine.execFexp2 a0 a1 a2 a3 s
  | .nopa => Sys2Proof.Machine.execNopa s
  | .ldi a0 a1 => Sys2Proof.Machine.execLdi a0 a1 s
  | .ldih a0 a1 => Sys2Proof.Machine.execLdih a0 a1 s
  | .trap a0 => Sys2Proof.Machine.execTrap a0 s
  | .tret a0 a1 => Sys2Proof.Machine.execTret a0 a1 s
  | .rdpr a0 a1 a2 a3 => Sys2Proof.Machine.execRdpr a0 a1 a2 a3 s
  | .wrpr a0 a1 a2 => Sys2Proof.Machine.execWrpr a0 a1 a2 s
  | .cbank a0 a1 a2 => Sys2Proof.Machine.execCbank a0 a1 a2 s
  | .rdtb a0 a1 => Sys2Proof.Machine.execRdtb a0 a1 s
  | .ldLone a0 a1 a2 a3 a4 a5 a6 a7 => Sys2Proof.Machine.execLdLone a0 a1 a2 a3 a4 a5 a6 a7 s
  | .stLone a0 a1 a2 a3 a4 a5 => Sys2Proof.Machine.execStLone a0 a1 a2 a3 a4 a5 s
  | .ldsy a0 a1 a2 a3 a4 => Sys2Proof.Machine.execLdsy a0 a1 a2 a3 a4 s
  | .stsy a0 a1 a2 a3 => Sys2Proof.Machine.execStsy a0 a1 a2 a3 s
  | .aadd a0 a1 a2 a3 a4 a5 a6 a7 a8 => Sys2Proof.Machine.execAadd a0 a1 a2 a3 a4 a5 a6 a7 a8 s
  | .aand a0 a1 a2 a3 a4 a5 a6 a7 a8 => Sys2Proof.Machine.execAand a0 a1 a2 a3 a4 a5 a6 a7 a8 s
  | .aor a0 a1 a2 a3 a4 a5 a6 a7 a8 => Sys2Proof.Machine.execAor a0 a1 a2 a3 a4 a5 a6 a7 a8 s
  | .axor a0 a1 a2 a3 a4 a5 a6 a7 a8 => Sys2Proof.Machine.execAxor a0 a1 a2 a3 a4 a5 a6 a7 a8 s
  | .amin a0 a1 a2 a3 a4 a5 a6 a7 a8 => Sys2Proof.Machine.execAmin a0 a1 a2 a3 a4 a5 a6 a7 a8 s
  | .amax a0 a1 a2 a3 a4 a5 a6 a7 a8 => Sys2Proof.Machine.execAmax a0 a1 a2 a3 a4 a5 a6 a7 a8 s
  | .aminu a0 a1 a2 a3 a4 a5 a6 a7 a8 => Sys2Proof.Machine.execAminu a0 a1 a2 a3 a4 a5 a6 a7 a8 s
  | .amaxu a0 a1 a2 a3 a4 a5 a6 a7 a8 => Sys2Proof.Machine.execAmaxu a0 a1 a2 a3 a4 a5 a6 a7 a8 s
  | .aswp a0 a1 a2 a3 a4 a5 a6 a7 a8 => Sys2Proof.Machine.execAswp a0 a1 a2 a3 a4 a5 a6 a7 a8 s
  | .acas a0 a1 a2 a3 a4 a5 a6 a7 a8 a9 => Sys2Proof.Machine.execAcas a0 a1 a2 a3 a4 a5 a6 a7 a8 a9 s
  | .bmove a0 a1 a2 a3 a4 a5 a6 => Sys2Proof.Machine.execBmove a0 a1 a2 a3 a4 a5 a6 s
  | .cpsub a0 a1 a2 a3 a4 => Sys2Proof.Machine.execCpsub a0 a1 a2 a3 a4 s
  | .bmv a0 a1 a2 => Sys2Proof.Machine.execBmv a0 a1 a2 s
  | .coll a0 a1 a2 a3 => Sys2Proof.Machine.execColl a0 a1 a2 a3 s
  | .cwait a0 a1 a2 a3 => Sys2Proof.Machine.execCwait a0 a1 a2 a3 s
  | .boinit a0 a1 => Sys2Proof.Machine.execBoinit a0 a1 s
  | .mbset a0 a1 a2 => Sys2Proof.Machine.execMbset a0 a1 a2 s
  | .marm a0 a1 => Sys2Proof.Machine.execMarm a0 a1 s
  | .mref a0 a1 a2 a3 => Sys2Proof.Machine.execMref a0 a1 a2 a3 s
  | .mread a0 a1 a2 a3 => Sys2Proof.Machine.execMread a0 a1 a2 a3 s
  | .radd a0 a1 a2 a3 a4 a5 => Sys2Proof.Machine.execRadd a0 a1 a2 a3 a4 a5 s
  | .rmax a0 a1 a2 a3 a4 a5 => Sys2Proof.Machine.execRmax a0 a1 a2 a3 a4 a5 s
  | .rlww a0 a1 a2 a3 a4 a5 => Sys2Proof.Machine.execRlww a0 a1 a2 a3 a4 a5 s
  | .rsadd a0 a1 a2 a3 => Sys2Proof.Machine.execRsadd a0 a1 a2 a3 s
  | .rsrem a0 a1 a2 a3 => Sys2Proof.Machine.execRsrem a0 a1 a2 a3 s
  | .rshas a0 a1 a2 a3 a4 => Sys2Proof.Machine.execRshas a0 a1 a2 a3 a4 s
  | .rmean a0 a1 a2 a3 a4 a5 a6 => Sys2Proof.Machine.execRmean a0 a1 a2 a3 a4 a5 a6 s
  | .rread a0 a1 a2 a3 a4 a5 a6 a7 => Sys2Proof.Machine.execRread a0 a1 a2 a3 a4 a5 a6 a7 s
  | .rfront a0 a1 a2 a3 a4 => Sys2Proof.Machine.execRfront a0 a1 a2 a3 a4 s
  | .rstab a0 a1 a2 a3 a4 a5 => Sys2Proof.Machine.execRstab a0 a1 a2 a3 a4 a5 s
  | .rhlc a0 a1 a2 a3 => Sys2Proof.Machine.execRhlc a0 a1 a2 a3 s
  | .tld a0 a1 a2 a3 a4 a5 a6 => Sys2Proof.Machine.execTld a0 a1 a2 a3 a4 a5 a6 s
  | .tst a0 a1 a2 a3 a4 a5 a6 => Sys2Proof.Machine.execTst a0 a1 a2 a3 a4 a5 a6 s
  | .tmov a0 a1 a2 a3 a4 a5 => Sys2Proof.Machine.execTmov a0 a1 a2 a3 a4 a5 s
  | .tfill a0 a1 a2 a3 a4 a5 => Sys2Proof.Machine.execTfill a0 a1 a2 a3 a4 a5 s
  | .vadd a0 a1 a2 a3 a4 a5 a6 a7 a8 => Sys2Proof.Machine.execVadd a0 a1 a2 a3 a4 a5 a6 a7 a8 s
  | .vsub a0 a1 a2 a3 a4 a5 a6 a7 a8 => Sys2Proof.Machine.execVsub a0 a1 a2 a3 a4 a5 a6 a7 a8 s
  | .vmul a0 a1 a2 a3 a4 a5 a6 a7 a8 => Sys2Proof.Machine.execVmul a0 a1 a2 a3 a4 a5 a6 a7 a8 s
  | .vfma a0 a1 a2 a3 a4 a5 a6 a7 a8 a9 => Sys2Proof.Machine.execVfma a0 a1 a2 a3 a4 a5 a6 a7 a8 a9 s
  | .vdiv a0 a1 a2 a3 a4 a5 a6 a7 => Sys2Proof.Machine.execVdiv a0 a1 a2 a3 a4 a5 a6 a7 s
  | .vsqrt a0 a1 a2 a3 a4 => Sys2Proof.Machine.execVsqrt a0 a1 a2 a3 a4 s
  | .vmin a0 a1 a2 a3 a4 a5 a6 a7 => Sys2Proof.Machine.execVmin a0 a1 a2 a3 a4 a5 a6 a7 s
  | .vmax a0 a1 a2 a3 a4 a5 a6 a7 => Sys2Proof.Machine.execVmax a0 a1 a2 a3 a4 a5 a6 a7 s
  | .vexp2 a0 a1 a2 a3 a4 => Sys2Proof.Machine.execVexp2 a0 a1 a2 a3 a4 s
  | .vabs a0 a1 a2 a3 a4 => Sys2Proof.Machine.execVabs a0 a1 a2 a3 a4 s
  | .vneg a0 a1 a2 a3 a4 => Sys2Proof.Machine.execVneg a0 a1 a2 a3 a4 s
  | .vand a0 a1 a2 a3 a4 a5 a6 => Sys2Proof.Machine.execVand a0 a1 a2 a3 a4 a5 a6 s
  | .vor a0 a1 a2 a3 a4 a5 a6 => Sys2Proof.Machine.execVor a0 a1 a2 a3 a4 a5 a6 s
  | .vxor a0 a1 a2 a3 a4 a5 a6 => Sys2Proof.Machine.execVxor a0 a1 a2 a3 a4 a5 a6 s
  | .vshl a0 a1 a2 a3 a4 a5 a6 => Sys2Proof.Machine.execVshl a0 a1 a2 a3 a4 a5 a6 s
  | .vshr a0 a1 a2 a3 a4 a5 a6 a7 => Sys2Proof.Machine.execVshr a0 a1 a2 a3 a4 a5 a6 a7 s
  | .vcvt a0 a1 a2 a3 a4 a5 a6 => Sys2Proof.Machine.execVcvt a0 a1 a2 a3 a4 a5 a6 s
  | .vrsum a0 a1 a2 a3 a4 => Sys2Proof.Machine.execVrsum a0 a1 a2 a3 a4 s
  | .vrmax a0 a1 a2 a3 => Sys2Proof.Machine.execVrmax a0 a1 a2 a3 s
  | .vtrans a0 a1 a2 a3 a4 a5 => Sys2Proof.Machine.execVtrans a0 a1 a2 a3 a4 a5 s
  | .mxpack a0 a1 a2 a3 a4 a5 a6 => Sys2Proof.Machine.execMxpack a0 a1 a2 a3 a4 a5 a6 s
  | .mxunpk a0 a1 a2 a3 a4 a5 a6 => Sys2Proof.Machine.execMxunpk a0 a1 a2 a3 a4 a5 a6 s
  | .vscal a0 a1 a2 a3 a4 a5 a6 => Sys2Proof.Machine.execVscal a0 a1 a2 a3 a4 a5 a6 s
  | .mcfg a0 a1 a2 a3 a4 a5 => Sys2Proof.Machine.execMcfg a0 a1 a2 a3 a4 a5 s
  | .mmul a0 a1 a2 a3 a4 a5 a6 a7 => Sys2Proof.Machine.execMmul a0 a1 a2 a3 a4 a5 a6 a7 s
  | .msend a0 a1 a2 a3 a4 a5 a6 a7 a8 a9 => Sys2Proof.Machine.execMsend a0 a1 a2 a3 a4 a5 a6 a7 a8 a9 s
  | .acget a0 a1 a2 a3 a4 a5 => Sys2Proof.Machine.execAcget a0 a1 a2 a3 a4 a5 s
  | .acput a0 a1 a2 a3 => Sys2Proof.Machine.execAcput a0 a1 a2 a3 s
  | .aczero a0 a1 a2 a3 a4 => Sys2Proof.Machine.execAczero a0 a1 a2 a3 a4 s
  | .amerge a0 a1 a2 a3 a4 => Sys2Proof.Machine.execAmerge a0 a1 a2 a3 a4 s
  | .anorm a0 a1 a2 a3 => Sys2Proof.Machine.execAnorm a0 a1 a2 a3 s
  | .slen a0 a1 => Sys2Proof.Machine.execSlen a0 a1 s
  | .sgen a0 a1 a2 a3 a4 a5 a6 => Sys2Proof.Machine.execSgen a0 a1 a2 a3 a4 a5 a6 s
  | .sand a0 a1 a2 a3 => Sys2Proof.Machine.execSand a0 a1 a2 a3 s
  | .sxnor a0 a1 a2 a3 => Sys2Proof.Machine.execSxnor a0 a1 a2 a3 s
  | .smux a0 a1 a2 a3 a4 => Sys2Proof.Machine.execSmux a0 a1 a2 a3 a4 s
  | .scnt a0 a1 a2 a3 a4 => Sys2Proof.Machine.execScnt a0 a1 a2 a3 a4 s
  | .sregen a0 a1 a2 a3 a4 => Sys2Proof.Machine.execSregen a0 a1 a2 a3 a4 s
  | .powerOn => Sys2Proof.Machine.execPowerOn s
  | .moduleReset => Sys2Proof.Machine.execModuleReset s
  | .cellRelease a0 => Sys2Proof.Machine.execCellRelease a0 s
  | .sensorConversion a0 a1 a2 => Sys2Proof.Machine.execSensorConversion a0 a1 a2 s
  | .criticalHalt a0 => Sys2Proof.Machine.execCriticalHalt a0 s
  | .criticalResume a0 => Sys2Proof.Machine.execCriticalResume a0 s
  | .throttleStepDown a0 => Sys2Proof.Machine.execThrottleStepDown a0 s
  | .throttleStepUp a0 => Sys2Proof.Machine.execThrottleStepUp a0 s
  | .warmLoopEval a0 => Sys2Proof.Machine.execWarmLoopEval a0 s
  | .powerLimitEval a0 => Sys2Proof.Machine.execPowerLimitEval a0 s
  | .clockStepApply a0 => Sys2Proof.Machine.execClockStepApply a0 s
  | .ballastSetpoint a0 a1 => Sys2Proof.Machine.execBallastSetpoint a0 a1 s
  | .ballastWindow a0 => Sys2Proof.Machine.execBallastWindow a0 s
  | .hbmTempReading a0 a1 => Sys2Proof.Machine.execHbmTempReading a0 a1 s
  | .linkFrameReceive a0 a1 => Sys2Proof.Machine.execLinkFrameReceive a0 a1 s
  | .apply a0 => Sys2Proof.Machine.execApply a0 s
  | .rehashComplete a0 => Sys2Proof.Machine.execRehashComplete a0 s
  | .clrcnt a0 => Sys2Proof.Machine.execClrcnt a0 s
  | .hxmWrite a0 a1 a2 => Sys2Proof.Machine.execHxmWrite a0 a1 a2 s
  | .elheadWrite a0 a1 => Sys2Proof.Machine.execElheadWrite a0 a1 s
  | .dahliaAdmit a0 a1 => Sys2Proof.Machine.execDahliaAdmit a0 a1 s
  | .migrationRetry a0 a1 => Sys2Proof.Machine.execMigrationRetry a0 a1 s
  | .lingerReturn a0 a1 => Sys2Proof.Machine.execLingerReturn a0 a1 s
  | .migrationDepart a0 a1 => Sys2Proof.Machine.execMigrationDepart a0 a1 s
  | .banksideStart a0 => Sys2Proof.Machine.execBanksideStart a0 s
  | .banksideComplete a0 => Sys2Proof.Machine.execBanksideComplete a0 s
  | .burstReceive a0 a1 a2 a3 => Sys2Proof.Machine.execBurstReceive a0 a1 a2 a3 s
  | .nakRepeat a0 => Sys2Proof.Machine.execNakRepeat a0 s
  | .aseqTimer a0 => Sys2Proof.Machine.execAseqTimer a0 s
  | .totalsFlitSend a0 => Sys2Proof.Machine.execTotalsFlitSend a0 s
  | .portSilenceTimeout a0 => Sys2Proof.Machine.execPortSilenceTimeout a0 s
  | .laneCountClear => Sys2Proof.Machine.execLaneCountClear s
  | .laneRepairStart a0 => Sys2Proof.Machine.execLaneRepairStart a0 s
  | .laneSwitchComplete a0 => Sys2Proof.Machine.execLaneSwitchComplete a0 s
  | .rewiden a0 => Sys2Proof.Machine.execRewiden a0 s
  | .rewidenComplete a0 a1 => Sys2Proof.Machine.execRewidenComplete a0 a1 s
  | .portDisable a0 => Sys2Proof.Machine.execPortDisable a0 s
  | .portEnable a0 => Sys2Proof.Machine.execPortEnable a0 s
  | .disableFlit a0 => Sys2Proof.Machine.execDisableFlit a0 s
  | .farEndTraining a0 => Sys2Proof.Machine.execFarEndTraining a0 s
  | .portTrained a0 => Sys2Proof.Machine.execPortTrained a0 s
  | .packetForward a0 a1 => Sys2Proof.Machine.execPacketForward a0 a1 s
  | .e2eGapTimeout a0 a1 => Sys2Proof.Machine.execE2eGapTimeout a0 a1 s
  | .retransmitTimeout a0 a1 => Sys2Proof.Machine.execRetransmitTimeout a0 a1 s
  | .ack a0 a1 a2 => Sys2Proof.Machine.execAck a0 a1 a2 s
  | .nak a0 a1 a2 => Sys2Proof.Machine.execNak a0 a1 a2 s
  | .syn a0 a1 a2 a3 => Sys2Proof.Machine.execSyn a0 a1 a2 a3 s
  | .resync a0 a1 a2 => Sys2Proof.Machine.execResync a0 a1 a2 s
  | .rtcmdWrite => Sys2Proof.Machine.execRtcmdWrite s
  | .rtcmdWriteComplete => Sys2Proof.Machine.execRtcmdWriteComplete s
  | .rtcmdRead => Sys2Proof.Machine.execRtcmdRead s
  | .fidWrite a0 => Sys2Proof.Machine.execFidWrite a0 s
  | .rdreq a0 => Sys2Proof.Machine.execRdreq a0 s
  | .rdresp a0 a1 a2 a3 a4 => Sys2Proof.Machine.execRdresp a0 a1 a2 a3 a4 s
  | .write a0 => Sys2Proof.Machine.execWrite a0 s
  | .wrdone a0 a1 a2 a3 => Sys2Proof.Machine.execWrdone a0 a1 a2 a3 s
  | .amo a0 => Sys2Proof.Machine.execAmo a0 s
  | .amoreq a0 => Sys2Proof.Machine.execAmoreq a0 s
  | .amoresp a0 a1 a2 a3 a4 => Sys2Proof.Machine.execAmoresp a0 a1 a2 a3 a4 s
  | .syncst a0 => Sys2Proof.Machine.execSyncst a0 s
  | .migrate a0 a1 a2 => Sys2Proof.Machine.execMigrate a0 a1 a2 s
  | .mighome a0 a1 a2 a3 => Sys2Proof.Machine.execMighome a0 a1 a2 a3 s
  | .mignak a0 a1 => Sys2Proof.Machine.execMignak a0 a1 s
  | .copydata a0 => Sys2Proof.Machine.execCopydata a0 s
  | .trapframe a0 a1 => Sys2Proof.Machine.execTrapframe a0 a1 s
  | .tretframe a0 => Sys2Proof.Machine.execTretframe a0 s
  | .framedead a0 a1 a2 => Sys2Proof.Machine.execFramedead a0 a1 a2 s
  | .digest a0 a1 a2 => Sys2Proof.Machine.execDigest a0 a1 a2 s
  | .delta a0 a1 a2 => Sys2Proof.Machine.execDelta a0 a1 a2 s
  | .deltac a0 a1 a2 a3 a4 a5 a6 => Sys2Proof.Machine.execDeltac a0 a1 a2 a3 a4 a5 a6 s
  | .donor a0 a1 a2 => Sys2Proof.Machine.execDonor a0 a1 a2 s
  | .rejoinSwitch a0 a1 a2 => Sys2Proof.Machine.execRejoinSwitch a0 a1 a2 s
  | .resetRejoin a0 a1 a2 => Sys2Proof.Machine.execResetRejoin a0 a1 a2 s
  | .deltaPartsTimeout a0 a1 a2 a3 a4 => Sys2Proof.Machine.execDeltaPartsTimeout a0 a1 a2 a3 a4 s
  | .gossipRound a0 a1 a2 => Sys2Proof.Machine.execGossipRound a0 a1 a2 s
  | .frontierUpdate a0 a1 a2 => Sys2Proof.Machine.execFrontierUpdate a0 a1 a2 s
  | .groupFold a0 a1 a2 => Sys2Proof.Machine.execGroupFold a0 a1 a2 s
  | .ringPoll a0 a1 a2 => Sys2Proof.Machine.execRingPoll a0 a1 a2 s
  | .ringRotationTick a0 => Sys2Proof.Machine.execRingRotationTick a0 s
  | .callPacket a0 a1 a2 a3 a4 => Sys2Proof.Machine.execCallPacket a0 a1 a2 a3 a4 s
  | .go a0 a1 a2 => Sys2Proof.Machine.execGo a0 a1 a2 s
  | .mismatch a0 a1 a2 => Sys2Proof.Machine.execMismatch a0 a1 a2 s
  | .collectiveComplete a0 a1 a2 => Sys2Proof.Machine.execCollectiveComplete a0 a1 a2 s
  | .collectivePeerTimeout a0 a1 a2 => Sys2Proof.Machine.execCollectivePeerTimeout a0 a1 a2 s
  | .taskDispatch a0 => Sys2Proof.Machine.execTaskDispatch a0 s
  | .taskOffer a0 a1 => Sys2Proof.Machine.execTaskOffer a0 a1 s
  | .ballastKill a0 a1 => Sys2Proof.Machine.execBallastKill a0 a1 s
  | .taskEnd a0 => Sys2Proof.Machine.execTaskEnd a0 s
  | .eventRecordProcess a0 a1 => Sys2Proof.Machine.execEventRecordProcess a0 a1 s
  | .cancel a0 => Sys2Proof.Machine.execCancel a0 s
  | .kill a0 => Sys2Proof.Machine.execKill a0 s
  | .cancelgraph a0 => Sys2Proof.Machine.execCancelgraph a0 s
  | .cheadWrite a0 a1 a2 => Sys2Proof.Machine.execCheadWrite a0 a1 a2 s
  | .copyRecordRead a0 a1 => Sys2Proof.Machine.execCopyRecordRead a0 a1 s
  | .copyPacketSend a0 a1 => Sys2Proof.Machine.execCopyPacketSend a0 a1 s
  | .copyOwnReread a0 a1 => Sys2Proof.Machine.execCopyOwnReread a0 a1 s
  | .copyRecordComplete a0 a1 => Sys2Proof.Machine.execCopyRecordComplete a0 a1 s
  | .cctlEnWrite a0 a1 a2 => Sys2Proof.Machine.execCctlEnWrite a0 a1 a2 s
  | .abort a0 a1 => Sys2Proof.Machine.execAbort a0 a1 s
  | .loadReturn a0 a1 a2 => Sys2Proof.Machine.execLoadReturn a0 a1 a2 s
  | .trapFrameSend a0 a1 => Sys2Proof.Machine.execTrapFrameSend a0 a1 s
  | .trapFrameRetry a0 a1 => Sys2Proof.Machine.execTrapFrameRetry a0 a1 s
  | .yieldEnd a0 a1 => Sys2Proof.Machine.execYieldEnd a0 a1 s
  | .meshMessageArrive a0 a1 => Sys2Proof.Machine.execMeshMessageArrive a0 a1 s
  | .fillArrive a0 a1 a2 a3 => Sys2Proof.Machine.execFillArrive a0 a1 a2 a3 s
  | .fillRetry a0 a1 => Sys2Proof.Machine.execFillRetry a0 a1 s
  | .bankWake a0 a1 => Sys2Proof.Machine.execBankWake a0 a1 s
  | .bankPowerApply a0 a1 => Sys2Proof.Machine.execBankPowerApply a0 a1 s
  | .bankAutoRetention a0 a1 => Sys2Proof.Machine.execBankAutoRetention a0 a1 s
  | .matrixMessageArrive a0 a1 => Sys2Proof.Machine.execMatrixMessageArrive a0 a1 s
  | .matrixCommandStart a0 => Sys2Proof.Machine.execMatrixCommandStart a0 s
  | .matrixCommandFinish a0 a1 => Sys2Proof.Machine.execMatrixCommandFinish a0 a1 s
  | .bankSwitch a0 => Sys2Proof.Machine.execBankSwitch a0 s
  | .bankSwitchComplete a0 => Sys2Proof.Machine.execBankSwitchComplete a0 s
  | .lazySwapUnit a0 a1 => Sys2Proof.Machine.execLazySwapUnit a0 a1 s
  | .dstopWrite a0 a1 => Sys2Proof.Machine.execDstopWrite a0 a1 s
  | .einjArm a0 => Sys2Proof.Machine.execEinjArm a0 s
  | .einjDisarm a0 => Sys2Proof.Machine.execEinjDisarm a0 s
  | .skewMeasure a0 a1 => Sys2Proof.Machine.execSkewMeasure a0 a1 s
  | .traceSample a0 => Sys2Proof.Machine.execTraceSample a0 s
  | .trace a0 a1 => Sys2Proof.Machine.execTrace a0 a1 s
  | .tctlClear => Sys2Proof.Machine.execTctlClear s
  | .tctlFreeze a0 => Sys2Proof.Machine.execTctlFreeze a0 s
  | .map a0 => Sys2Proof.Machine.execMap a0 s
  | .unmap a0 => Sys2Proof.Machine.execUnmap a0 s
  | .protect a0 => Sys2Proof.Machine.execProtect a0 s
  | .move a0 => Sys2Proof.Machine.execMove a0 s
  | .pin a0 => Sys2Proof.Machine.execPin a0 s
  | .unpin a0 => Sys2Proof.Machine.execUnpin a0 s
  | .flush a0 => Sys2Proof.Machine.execFlush a0 s
  | .xcmdComplete a0 => Sys2Proof.Machine.execXcmdComplete a0 s
  | .placementInterval a0 => Sys2Proof.Machine.execPlacementInterval a0 s
  | .pageMoveSwitch a0 a1 => Sys2Proof.Machine.execPageMoveSwitch a0 a1 s
  | .backgroundFill a0 a1 => Sys2Proof.Machine.execBackgroundFill a0 a1 s
  | .pageMoveFinish a0 a1 => Sys2Proof.Machine.execPageMoveFinish a0 a1 s
  | .ptrootWrite a0 a1 => Sys2Proof.Machine.execPtrootWrite a0 a1 s
  | .syncAccessPerform a0 => Sys2Proof.Machine.execSyncAccessPerform a0 s
  | .syncRetry a0 a1 => Sys2Proof.Machine.execSyncRetry a0 a1 s
  | .barrierWaitRetry a0 a1 => Sys2Proof.Machine.execBarrierWaitRetry a0 a1 s
  | .partitionCreate a0 a1 => Sys2Proof.Machine.execPartitionCreate a0 a1 s
  | .partitionEnd a0 a1 => Sys2Proof.Machine.execPartitionEnd a0 a1 s
  | .fsrvWrite a0 a1 => Sys2Proof.Machine.execFsrvWrite a0 a1 s
  | .mreadPacket a0 a1 => Sys2Proof.Machine.execMreadPacket a0 a1 s
  | .mwrite a0 a1 a2 => Sys2Proof.Machine.execMwrite a0 a1 a2 s
  | .mresp a0 a1 a2 => Sys2Proof.Machine.execMresp a0 a1 a2 s
  | .stage a0 => Sys2Proof.Machine.execStage a0 s
  | .activate a0 => Sys2Proof.Machine.execActivate a0 s
  | .attest a0 => Sys2Proof.Machine.execAttest a0 s
  | .raisemin a0 => Sys2Proof.Machine.execRaisemin a0 s
  | .recover a0 => Sys2Proof.Machine.execRecover a0 s
  | .mbcmdUnknown a0 a1 => Sys2Proof.Machine.execMbcmdUnknown a0 a1 s
  | .mailboxComplete => Sys2Proof.Machine.execMailboxComplete s
  | .registerWrite a0 a1 => Sys2Proof.Machine.execRegisterWrite a0 a1 s
  | .hostLinkTraining a0 => Sys2Proof.Machine.execHostLinkTraining a0 s
  | .ringGetsWork a0 a1 a2 => Sys2Proof.Machine.execRingGetsWork a0 a1 a2 s

end Sys2Proof.Machine
end

