-- ==== Sys2Proof/Machine/Start.lean ====
section
/-! DEFINITION. Time passing (spec/12 R266), the default turn of a cell, and the placing of a single bundle where the next step
fetches it (notes/assumptions/2.md, 3.md and 6.md). -/
namespace Sys2Proof.Machine

/-- Time passes on the 1 GHz timebase of every die (R266). DESIGN CHOICE, log 3. -/
def State.elapse (s : State) (ns : Nat) : State :=
  (List.range 8).foldl (fun s d => s.setReg 11 0 (0xA10 + 0x40 * d) (s.tb d + W ns)) s

/-- The turns of Dahlia cores, one after another. -/
def coreTurns (exec : Exec) (s : State) : List (Nat × Nat) → Host.Outcome State Fault Refusal
  | [] => .next s
  | (k, j) :: r => match issueCore exec k j s with
    | .next x => coreTurns exec x r
    | o => o

/-- The Dahlia cores that hold a context. -/
def State.coresHeld (s : State) : List (Nat × Nat) :=
  s.hbmStacks.flatMap fun (k, x) => x.cores.filterMap fun (j, c) => if c.slots.isEmpty then none else some (k, j)

/-- The cells that had no turn in a cycle counted (R173, R270). -/
def State.countIdle (exec : Exec) (s : State) : State :=
  (List.range 512).foldl (fun s n =>
    if (s.cellAt n).issuedAt = s.cycle + 1 then s
    else
      let c := s.classify exec n none
      s.countSlot n (s.rotation n) c.1 c.2 false) s

/-- What the agenda brings has its place in the cycle, `r`: nothing of a later place has acted yet. Behind the writes over PCIe and those of the
pod manager come the register writes of threads (R124, R319). DESIGN CHOICE, log 2. -/
def State.enter (s : State) (r : Nat) : Option State :=
  if r < s.order then none
  else some { (if s.order < 2 ∧ 2 ≤ r then s.privAll false else s) with order := r }

/-- The end of a cycle (R45, R124, R199, R312, R319, R365): cells that had no turn are counted, what arrives in the cycle takes effect, headers
reach their rings, messages are answered, the register writes of threads that come late perform, returned frames reach their threads, rounds
complete, and the events of the stacks are logged; then the next cycle begins. With `all`, whatever is on its way arrives. -/
def State.tick (exec : Exec) (s : State) (all : Bool) : State :=
  let s0 := s.countIdle exec
  let s1 := if s0.order < 2 then s0.privAll false else s0
  let s2 := (((s1.landAll all).appendAll).msgsAccept all).privAll true
  { s2.returnAll.roundsAll.logAll with turn := 0, cur := 0, order := 0, cycle := s.cycle + 1 }

/-- What the threads of the cells and of the Dahlia cores wait for goes on. -/
def State.settleAll (s : State) : State :=
  s.cells.foldl (fun s (n, c) => if n < 512 then s.settle n else c.slots.foldl (fun s (k, _) => s.settleThread n k 24) s) s

/-- A step without agenda: the next cell that has held a thread takes its turn; after the last cell the Dahlia cores take theirs, and the
cycle ends. With `prog`, what the threads wait for goes on before its end (DESIGN CHOICE, log 36). A turn for which it is too late in the cycle
is left out. -/
def defaultStep (exec : Exec) (prog : Bool) (s : State) : Host.Outcome State Fault Refusal :=
  match s.cells.find? fun c => decide (s.turn ≤ c.1) && decide (c.1 < 512) with
  | none => match s.enter 3 with
    | none => .next (s.farSweep.tick exec prog)
    | some x => match coreTurns exec x x.coresHeld with
      | .next y => .next ((if prog then y.settleAll else y).farSweep.tick exec prog)
      | o => o
  | some (n, _) => match s.enter 3 with
    | none => .next { s with turn := n + 1 }
    | some x => match issueCell exec n x with
      | .next y => .next { y with turn := n + 1 }
      | o => o

/-- An error of a 64-bit word of a cell's scratchpad, numbered through both context banks (R261): corrected and counted in SRAMCE, or the word is
poisoned until it is written and counted in SRAMUE; FREEZE stops the counters (R270). -/
def State.scrError (s : State) (c w : Nat) (bad : Bool) : State :=
  let s1 := if s.fld 7 0 0x80200 1 1 = 1 then s else s.bump 7 0 (0x80000 + 0x40 * (c / 64) + 8 * bad.toNat) 0 64 1
  if bad && !(s1.cellAt c).badWords.contains w then s1.setCell c { s1.cellAt c with badWords := (s1.cellAt c).badWords ++ [w] } else s1

/-! ## Placing a bundle -/

/-- The virtual and physical address of the placed bundle. -/
def placeAt : Nat := 0x30000000

/-- The words of the translation tables that map the first GiB of virtual addresses onto the first GiB of stack 0 with
every right: the L0 entry at 0x100000 and the L1 entry at 0x200000 (R226, R227). -/
def placeTables : List (Nat × Nat) :=
  [(0x100000, 2 ^ 63 + 0x200000), (0x200000, 2 ^ 63 + 2 ^ 62 + 2 ^ 61 + 2 ^ 60 + 2 ^ 59 + 2 ^ 58)]

/-- The thread that runs the placed bundle: slot 0 of cell 0, with every tile and stream register and 64 KiB of
scratch. -/
def placeThread : Thread :=
  { Thread.init with pc := W placeAt, npc := W placeAt, sb := W (0xFF * 2 ^ 48), ss := W 65536, tiles := List.range 32, strms := List.range 16 }

/-- A bundle placed as the next that runs: partition 0 runs on die 0 under tables of its own, die 0 is released, and the
first cell holds one thread at the bundle; its rotation slot is due, no cell has had its turn, and its turn is next. DESIGN CHOICE, log 6. -/
def State.placeBundle (s : State) (w : BitVec 64) : State :=
  let ws : List (Nat × Nat) := (placeAt, w.toNat) :: placeTables
  let s1 := ((s.setReg 5 0 0 (W (2 ^ 8 + 1))).setReg 5 0 8 1#64).setReg 10 0 0 (W (0x100000 + 1))
  let m := ws.foldl (fun (m : List Host.Cell) (e : Nat × Nat) => writeLE m e.1 e.2 8) s1.hbm
  let l := ws.foldl (fun (l : Tab LineMeta) (e : Nat × Nat) => tput l (e.1 / 64) LineMeta.zeroed) s1.lines
  let s2 : State := { s1 with hbm := m, lines := l, fetchBuf := [], agenda := [.cell 0], cycle := 0, order := 0, turn := 0, cur := 0, parts := tput s1.parts 0 Part.init }
  let s2 : State := { s2 with cells := s2.cells.map fun (n, c) => (n, { c with issuedAt := 0 }) }
  let s3 := s2.setDie 0 { s2.dieAt 0 with released := true }
  s3.setCell 0 { s3.cellAt 0 with slots := [(0, some placeThread)], stopped := false, swap := [], issuedAt := 0 }

end Sys2Proof.Machine
end

