-- ==== Sys2Proof/Machine/Step.lean ====
section
/-! DEFINITION. One step of the machine (notes/assumptions/2.md): what the agenda brings next, or, where it is empty, the turn
of the next cell. -/
namespace Sys2Proof.Machine

/-- The place in a cycle of a register write of place `r`, over PCIe or by the pod manager: a write of CCTL comes behind the completion of a record, one
of SCMD behind the end of a task (R124, R146, R167). -/
def State.writeRank (s : State) (off : Nat) (r : Nat) : Nat :=
  match s.blockAt off with
  | some (9, _, o) => if o < 0x600 ∧ o % 0x40 = 0 then 900 + r else r
  | some (8, _, o) => if o = 8 then 500 + r else r
  | _ => r

/-- The place in a cycle of an event (DESIGN CHOICE, log 2): writes over PCIe and of CHEAD, those of the pod manager (R124, R167), tiles of other replicas
(R358), the turns of cells and cores (3), what performs and arrives, the adds of engines to barrier objects in ascending engine (R164), seals, kills
and cancellations (R146, R319, R358), and aborts (R167). -/
def eventRank (i : Instr) (s : State) : Nat :=
  match i with
  | .registerWrite off _ => s.writeRank off.toNat 0
  | .cheadWrite _ _ _ => 0
  | .mwrite _ off _ => s.writeRank off.toNat 1
  | .delta _ _ _ => 2
  | .deltac _ _ _ _ _ _ _ => 2
  | .copyRecordComplete d c => 10 + 24 * d + c
  | .banksideComplete k => 300 + k
  | .amo p => if barAmo p then 400 else 4
  | .gossipRound _ _ _ => 500
  | .kill _ => 500
  | .cancel _ => 500
  | .cancelgraph _ => 500
  | .cctlEnWrite _ _ _ => 900
  | .abort _ _ => 900
  | _ => 4

/-- The place in a cycle of what the agenda brings; time, a step as without agenda and what the host does in its own memory have none. -/
def Turn.rank (t : Turn) (s : State) : Option Nat :=
  match t with
  | .event i => some (eventRank i s)
  | .cell _ => some 3
  | .core _ _ => some 3
  | .perform _ _ _ => some 4
  | .performOut _ _ _ => some 4
  | _ => none

/-- What an entry of the agenda does. -/
def Turn.act (t : Turn) (s : State) : Host.Outcome State Fault Refusal :=
  match t with
  | .event i => if (encode i).isNone then exec i s else .fault .notAnEvent
  | .elapse ns => .next (s.elapse ns)
  | .cell n => issueCell exec n s
  | .core k j => issueCore exec k j s
  | .perform n k i => .next (s.performPosted n k i)
  | .performOut n k i => .next (s.performOut n k i)
  | .hostWrite a v => .next (({ s with hostMem := tset memDefault s.hostMem a v } : State).observeRings true a 1)
  | .scrError c w bad => .next (s.scrError c w bad)
  | .rest prog => defaultStep exec prog s
  | .msixWrite k v => .next { s with msixTable := if k < 32 then tput s.msixTable k v else s.msixTable }

/-- One entry of the agenda: one for which it is too late in the cycle does nothing. -/
def stepTurn (t : Turn) (s : State) : Host.Outcome State Fault Refusal :=
  match t.rank s with
  | none => t.act s
  | some r => match s.enter r with
    | none => .next s
    | some x => t.act x

/-- One step. -/
def step (s : State) : Host.Outcome State Fault Refusal :=
  match s.agenda with
  | t :: r => stepTurn t { s with agenda := r }
  | [] => defaultStep exec true s

/-- The state with the instruction of a table word placed where the very next step fetches and runs it
(notes/assumptions/6.md). -/
def State.withFetchWord (s : State) (nbits w : Nat) : State := s.placeBundle (tableBundle nbits w)

end Sys2Proof.Machine
end

