-- ==== Sys2Proof/Laws/Bits.lean ====
section
/-! SUPPORT. Fields of a word built by joining fields: what a slice or a bit of `x ++ y` is. -/
namespace Sys2Proof

theorem ext_hi {v w : Nat} (x : BitVec v) (y : BitVec w) (s l : Nat) (h : w ≤ s) :
    (x ++ y).extractLsb' s l = x.extractLsb' (s - w) l :=
  BitVec.extractLsb'_append_eq_of_le h

theorem ext_lo {v w : Nat} (x : BitVec v) (y : BitVec w) (s l : Nat) (h : s + l ≤ w) :
    (x ++ y).extractLsb' s l = y.extractLsb' s l :=
  BitVec.extractLsb'_append_eq_of_add_le h

theorem get_hi {v w : Nat} (x : BitVec v) (y : BitVec w) (s : Nat) (h : w ≤ s) :
    (x ++ y).getLsbD s = x.getLsbD (s - w) := by
  simp [BitVec.getLsbD_append, Nat.not_lt.mpr h]

theorem get_lo {v w : Nat} (x : BitVec v) (y : BitVec w) (s : Nat) (h : s < w) :
    (x ++ y).getLsbD s = y.getLsbD s := by
  simp [BitVec.getLsbD_append, h]

theorem ext_self {w : Nat} (x : BitVec w) (s : Nat) (h : s = 0) : x.extractLsb' s w = x := by
  subst h; simp

theorem get_ofBool (b : Bool) (s : Nat) (h : s = 0) : (ofBool b).getLsbD s = b := by
  subst h; cases b <;> rfl

/-- An accepted instruction is read as it stands. -/
theorem accept_ok {z : Bool} {i : Instr} (hz : z = true) (hw : i.wf = true) : accept z i = .ok i := by
  simp [accept, hz, hw]

/-- What the decoder accepts is well formed, and it is the instruction given. -/
theorem accept_inv {z : Bool} {i j : Instr} (h : accept z i = .ok j) : z = true ∧ i.wf = true ∧ j = i := by
  unfold accept at h
  split at h
  · split at h
    · cases h; exact ⟨‹_›, ‹_›, rfl⟩
    · cases h
  · cases h

end Sys2Proof
end

