-- ==== Sys2Proof/Laws/PerInstr.lean ====
section
/-! SUPPORT. The family Encoding: for each constructor, decoding the encoded word of a well-formed instruction gives it
back. An event has no word, so its lemma is empty of content. The lemmas named at_… say what the decoder reads at one
opcode. -/
namespace Sys2Proof.Laws.Encoding

set_option linter.unusedSimpArgs false

/-- The words that the encoder gives a well-formed instruction decode to that instruction. -/
def Statement (i : Instr) : Prop := i.wf = true → ∀ c, encode i = some c → decodeCode c = .ok i

theorem at_br {w : BitVec 32} (h : w.extractLsb' 24 7 = 1#7) :
    decodeC w = accept (w.extractLsb' 20 4 == 0)
      (.br (w.extractLsb' 0 20)) := by
  unfold decodeC; rw [h]; rfl

theorem br (o) : Statement (.br o) := by
  intro hw c h
  cases h
  have hb : (0#1 ++ 1#7 ++ 0#4 ++ o).getLsbD 31 = false := by
    simp (disch := decide) only [get_hi, get_lo]; rfl
  rw [decodeCode, if_neg (by simp only [hb]; decide), at_br (by simp (disch := decide) only [ext_hi, ext_lo, ext_self])]
  simp (disch := decide) only [get_hi, get_lo, get_ofBool, ext_hi, ext_lo, ext_self]
  exact accept_ok rfl hw

theorem at_call {w : BitVec 32} (h : w.extractLsb' 24 7 = 2#7) :
    decodeC w = accept (w.extractLsb' 20 4 == 0)
      (.call (w.extractLsb' 0 20)) := by
  unfold decodeC; rw [h]; rfl

theorem call (o) : Statement (.call o) := by
  intro hw c h
  cases h
  have hb : (0#1 ++ 2#7 ++ 0#4 ++ o).getLsbD 31 = false := by
    simp (disch := decide) only [get_hi, get_lo]; rfl
  rw [decodeCode, if_neg (by simp only [hb]; decide), at_call (by simp (disch := decide) only [ext_hi, ext_lo, ext_self])]
  simp (disch := decide) only [get_hi, get_lo, get_ofBool, ext_hi, ext_lo, ext_self]
  exact accept_ok rfl hw

theorem at_bz {w : BitVec 32} (h : w.extractLsb' 24 7 = 3#7) :
    decodeC w = accept (w.extractLsb' 20 4 == 0)
      (.bz (w.extractLsb' 14 6) (w.extractLsb' 0 14)) := by
  unfold decodeC; rw [h]; rfl

theorem bz (x o) : Statement (.bz x o) := by
  intro hw c h
  cases h
  have hb : (0#1 ++ 3#7 ++ 0#4 ++ x ++ o).getLsbD 31 = false := by
    simp (disch := decide) only [get_hi, get_lo]; rfl
  rw [decodeCode, if_neg (by simp only [hb]; decide), at_bz (by simp (disch := decide) only [ext_hi, ext_lo, ext_self])]
  simp (disch := decide) only [get_hi, get_lo, get_ofBool, ext_hi, ext_lo, ext_self]
  exact accept_ok rfl hw

theorem at_bnz {w : BitVec 32} (h : w.extractLsb' 24 7 = 4#7) :
    decodeC w = accept (w.extractLsb' 20 4 == 0)
      (.bnz (w.extractLsb' 14 6) (w.extractLsb' 0 14)) := by
  unfold decodeC; rw [h]; rfl

theorem bnz (x o) : Statement (.bnz x o) := by
  intro hw c h
  cases h
  have hb : (0#1 ++ 4#7 ++ 0#4 ++ x ++ o).getLsbD 31 = false := by
    simp (disch := decide) only [get_hi, get_lo]; rfl
  rw [decodeCode, if_neg (by simp only [hb]; decide), at_bnz (by simp (disch := decide) only [ext_hi, ext_lo, ext_self])]
  simp (disch := decide) only [get_hi, get_lo, get_ofBool, ext_hi, ext_lo, ext_self]
  exact accept_ok rfl hw

theorem at_jr {w : BitVec 32} (h : w.extractLsb' 24 7 = 5#7) :
    decodeC w = accept (w.extractLsb' 20 4 == 0 && w.extractLsb' 14 6 == 0 && w.extractLsb' 2 6 == 0 && w.extractLsb' 0 2 == 0)
      (.jr (w.extractLsb' 8 6)) := by
  unfold decodeC; rw [h]; rfl

theorem jr (y) : Statement (.jr y) := by
  intro hw c h
  cases h
  have hb : (0#1 ++ 5#7 ++ 0#4 ++ 0#6 ++ y ++ 0#6 ++ 0#2).getLsbD 31 = false := by
    simp (disch := decide) only [get_hi, get_lo]; rfl
  rw [decodeCode, if_neg (by simp only [hb]; decide), at_jr (by simp (disch := decide) only [ext_hi, ext_lo, ext_self])]
  simp (disch := decide) only [get_hi, get_lo, get_ofBool, ext_hi, ext_lo, ext_self]
  exact accept_ok rfl hw

theorem at_jlr {w : BitVec 32} (h : w.extractLsb' 24 7 = 6#7) :
    decodeC w = accept (w.extractLsb' 20 4 == 0 && w.extractLsb' 2 6 == 0 && w.extractLsb' 0 2 == 0)
      (.jlr (w.extractLsb' 14 6) (w.extractLsb' 8 6)) := by
  unfold decodeC; rw [h]; rfl

theorem jlr (x y) : Statement (.jlr x y) := by
  intro hw c h
  cases h
  have hb : (0#1 ++ 6#7 ++ 0#4 ++ x ++ y ++ 0#6 ++ 0#2).getLsbD 31 = false := by
    simp (disch := decide) only [get_hi, get_lo]; rfl
  rw [decodeCode, if_neg (by simp only [hb]; decide), at_jlr (by simp (disch := decide) only [ext_hi, ext_lo, ext_self])]
  simp (disch := decide) only [get_hi, get_lo, get_ofBool, ext_hi, ext_lo, ext_self]
  exact accept_ok rfl hw

theorem at_rep {w : BitVec 32} (h : w.extractLsb' 24 7 = 7#7) :
    decodeC w = accept (w.extractLsb' 20 4 == 0 && w.extractLsb' 0 2 == 0)
      (.rep (w.extractLsb' 14 6) (w.extractLsb' 2 12)) := by
  unfold decodeC; rw [h]; rfl

theorem rep (x n) : Statement (.rep x n) := by
  intro hw c h
  cases h
  have hb : (0#1 ++ 7#7 ++ 0#4 ++ x ++ n ++ 0#2).getLsbD 31 = false := by
    simp (disch := decide) only [get_hi, get_lo]; rfl
  rw [decodeCode, if_neg (by simp only [hb]; decide), at_rep (by simp (disch := decide) only [ext_hi, ext_lo, ext_self])]
  simp (disch := decide) only [get_hi, get_lo, get_ofBool, ext_hi, ext_lo, ext_self]
  exact accept_ok rfl hw

theorem at_yield {w : BitVec 32} (h : w.extractLsb' 24 7 = 8#7) :
    decodeC w = accept (w.extractLsb' 20 4 == 0 && w.extractLsb' 0 20 == 0)
      (.yield) := by
  unfold decodeC; rw [h]; rfl

theorem yield : Statement (.yield) := by
  intro hw c h
  cases h
  have hb : (0#1 ++ 8#7 ++ 0#4 ++ 0#20).getLsbD 31 = false := by
    simp (disch := decide) only [get_hi, get_lo]; rfl
  rw [decodeCode, if_neg (by simp only [hb]; decide), at_yield (by simp (disch := decide) only [ext_hi, ext_lo, ext_self])]
  exact accept_ok rfl hw

theorem at_done {w : BitVec 32} (h : w.extractLsb' 24 7 = 9#7) :
    decodeC w = accept (w.extractLsb' 20 4 == 0 && w.extractLsb' 0 20 == 0)
      (.done) := by
  unfold decodeC; rw [h]; rfl

theorem done : Statement (.done) := by
  intro hw c h
  cases h
  have hb : (0#1 ++ 9#7 ++ 0#4 ++ 0#20).getLsbD 31 = false := by
    simp (disch := decide) only [get_hi, get_lo]; rfl
  rw [decodeCode, if_neg (by simp only [hb]; decide), at_done (by simp (disch := decide) only [ext_hi, ext_lo, ext_self])]
  exact accept_ok rfl hw

theorem at_setpri {w : BitVec 32} (h : w.extractLsb' 24 7 = 10#7) :
    decodeC w = accept (w.extractLsb' 20 4 == 0 && w.extractLsb' 2 6 == 0 && w.extractLsb' 0 2 == 0)
      (.setpri (w.extractLsb' 14 6) (w.extractLsb' 8 6)) := by
  unfold decodeC; rw [h]; rfl

theorem setpri (x y) : Statement (.setpri x y) := by
  intro hw c h
  cases h
  have hb : (0#1 ++ 10#7 ++ 0#4 ++ x ++ y ++ 0#6 ++ 0#2).getLsbD 31 = false := by
    simp (disch := decide) only [get_hi, get_lo]; rfl
  rw [decodeCode, if_neg (by simp only [hb]; decide), at_setpri (by simp (disch := decide) only [ext_hi, ext_lo, ext_self])]
  simp (disch := decide) only [get_hi, get_lo, get_ofBool, ext_hi, ext_lo, ext_self]
  exact accept_ok rfl hw

theorem at_tbar {w : BitVec 32} (h : w.extractLsb' 24 7 = 11#7) :
    decodeC w = accept (w.extractLsb' 20 4 == 0 && w.extractLsb' 0 20 == 0)
      (.tbar) := by
  unfold decodeC; rw [h]; rfl

theorem tbar : Statement (.tbar) := by
  intro hw c h
  cases h
  have hb : (0#1 ++ 11#7 ++ 0#4 ++ 0#20).getLsbD 31 = false := by
    simp (disch := decide) only [get_hi, get_lo]; rfl
  rw [decodeCode, if_neg (by simp only [hb]; decide), at_tbar (by simp (disch := decide) only [ext_hi, ext_lo, ext_self])]
  exact accept_ok rfl hw

theorem at_launch {w : BitVec 32} (h : w.extractLsb' 24 7 = 12#7) :
    decodeC w = accept (w.extractLsb' 20 4 == 0 && w.extractLsb' 0 2 == 0)
      (.launch (w.extractLsb' 14 6) (w.extractLsb' 8 6) (w.extractLsb' 2 6)) := by
  unfold decodeC; rw [h]; rfl

theorem launch (x y z) : Statement (.launch x y z) := by
  intro hw c h
  cases h
  have hb : (0#1 ++ 12#7 ++ 0#4 ++ x ++ y ++ z ++ 0#2).getLsbD 31 = false := by
    simp (disch := decide) only [get_hi, get_lo]; rfl
  rw [decodeCode, if_neg (by simp only [hb]; decide), at_launch (by simp (disch := decide) only [ext_hi, ext_lo, ext_self])]
  simp (disch := decide) only [get_hi, get_lo, get_ofBool, ext_hi, ext_lo, ext_self]
  exact accept_ok rfl hw

theorem at_fill {w : BitVec 32} (h : w.extractLsb' 24 7 = 13#7) :
    decodeC w = accept (w.extractLsb' 20 4 == 0 && w.extractLsb' 14 6 == 0 && w.extractLsb' 0 2 == 0)
      (.fill (w.extractLsb' 8 6) (w.extractLsb' 2 6)) := by
  unfold decodeC; rw [h]; rfl

theorem fill (y z) : Statement (.fill y z) := by
  intro hw c h
  cases h
  have hb : (0#1 ++ 13#7 ++ 0#4 ++ 0#6 ++ y ++ z ++ 0#2).getLsbD 31 = false := by
    simp (disch := decide) only [get_hi, get_lo]; rfl
  rw [decodeCode, if_neg (by simp only [hb]; decide), at_fill (by simp (disch := decide) only [ext_hi, ext_lo, ext_self])]
  simp (disch := decide) only [get_hi, get_lo, get_ofBool, ext_hi, ext_lo, ext_self]
  exact accept_ok rfl hw

theorem at_ld {w : BitVec 32} (h : w.extractLsb' 24 7 = 16#7) :
    decodeC w = accept (true)
      (.ld (w.extractLsb' 20 4) (w.extractLsb' 14 6) (w.extractLsb' 8 6) (w.extractLsb' 6 2) (w.extractLsb' 0 6)) := by
  unfold decodeC; rw [h]; rfl

theorem ld (la x y sz off) : Statement (.ld la x y sz off) := by
  intro hw c h
  cases h
  have hb : (0#1 ++ 16#7 ++ la ++ x ++ y ++ sz ++ off).getLsbD 31 = false := by
    simp (disch := decide) only [get_hi, get_lo]; rfl
  rw [decodeCode, if_neg (by simp only [hb]; decide), at_ld (by simp (disch := decide) only [ext_hi, ext_lo, ext_self])]
  simp (disch := decide) only [get_hi, get_lo, get_ofBool, ext_hi, ext_lo, ext_self]
  exact accept_ok rfl hw

theorem at_lds {w : BitVec 32} (h : w.extractLsb' 24 7 = 17#7) :
    decodeC w = accept (true)
      (.lds (w.extractLsb' 20 4) (w.extractLsb' 14 6) (w.extractLsb' 8 6) (w.extractLsb' 6 2) (w.extractLsb' 0 6)) := by
  unfold decodeC; rw [h]; rfl

theorem lds (la x y sz off) : Statement (.lds la x y sz off) := by
  intro hw c h
  cases h
  have hb : (0#1 ++ 17#7 ++ la ++ x ++ y ++ sz ++ off).getLsbD 31 = false := by
    simp (disch := decide) only [get_hi, get_lo]; rfl
  rw [decodeCode, if_neg (by simp only [hb]; decide), at_lds (by simp (disch := decide) only [ext_hi, ext_lo, ext_self])]
  simp (disch := decide) only [get_hi, get_lo, get_ofBool, ext_hi, ext_lo, ext_self]
  exact accept_ok rfl hw

theorem at_st {w : BitVec 32} (h : w.extractLsb' 24 7 = 18#7) :
    decodeC w = accept (w.extractLsb' 20 4 == 0)
      (.st (w.extractLsb' 14 6) (w.extractLsb' 8 6) (w.extractLsb' 6 2) (w.extractLsb' 0 6)) := by
  unfold decodeC; rw [h]; rfl

theorem st (x y sz off) : Statement (.st x y sz off) := by
  intro hw c h
  cases h
  have hb : (0#1 ++ 18#7 ++ 0#4 ++ x ++ y ++ sz ++ off).getLsbD 31 = false := by
    simp (disch := decide) only [get_hi, get_lo]; rfl
  rw [decodeCode, if_neg (by simp only [hb]; decide), at_st (by simp (disch := decide) only [ext_hi, ext_lo, ext_self])]
  simp (disch := decide) only [get_hi, get_lo, get_ofBool, ext_hi, ext_lo, ext_self]
  exact accept_ok rfl hw

theorem at_ldx {w : BitVec 32} (h : w.extractLsb' 24 7 = 19#7) :
    decodeC w = accept (true)
      (.ldx (w.extractLsb' 20 4) (w.extractLsb' 14 6) (w.extractLsb' 8 6) (w.extractLsb' 2 6) (w.extractLsb' 0 2)) := by
  unfold decodeC; rw [h]; rfl

theorem ldx (la x y z sz) : Statement (.ldx la x y z sz) := by
  intro hw c h
  cases h
  have hb : (0#1 ++ 19#7 ++ la ++ x ++ y ++ z ++ sz).getLsbD 31 = false := by
    simp (disch := decide) only [get_hi, get_lo]; rfl
  rw [decodeCode, if_neg (by simp only [hb]; decide), at_ldx (by simp (disch := decide) only [ext_hi, ext_lo, ext_self])]
  simp (disch := decide) only [get_hi, get_lo, get_ofBool, ext_hi, ext_lo, ext_self]
  exact accept_ok rfl hw

theorem at_ldsx {w : BitVec 32} (h : w.extractLsb' 24 7 = 20#7) :
    decodeC w = accept (true)
      (.ldsx (w.extractLsb' 20 4) (w.extractLsb' 14 6) (w.extractLsb' 8 6) (w.extractLsb' 2 6) (w.extractLsb' 0 2)) := by
  unfold decodeC; rw [h]; rfl

theorem ldsx (la x y z sz) : Statement (.ldsx la x y z sz) := by
  intro hw c h
  cases h
  have hb : (0#1 ++ 20#7 ++ la ++ x ++ y ++ z ++ sz).getLsbD 31 = false := by
    simp (disch := decide) only [get_hi, get_lo]; rfl
  rw [decodeCode, if_neg (by simp only [hb]; decide), at_ldsx (by simp (disch := decide) only [ext_hi, ext_lo, ext_self])]
  simp (disch := decide) only [get_hi, get_lo, get_ofBool, ext_hi, ext_lo, ext_self]
  exact accept_ok rfl hw

theorem at_stx {w : BitVec 32} (h : w.extractLsb' 24 7 = 21#7) :
    decodeC w = accept (w.extractLsb' 20 4 == 0)
      (.stx (w.extractLsb' 14 6) (w.extractLsb' 8 6) (w.extractLsb' 2 6) (w.extractLsb' 0 2)) := by
  unfold decodeC; rw [h]; rfl

theorem stx (x y z sz) : Statement (.stx x y z sz) := by
  intro hw c h
  cases h
  have hb : (0#1 ++ 21#7 ++ 0#4 ++ x ++ y ++ z ++ sz).getLsbD 31 = false := by
    simp (disch := decide) only [get_hi, get_lo]; rfl
  rw [decodeCode, if_neg (by simp only [hb]; decide), at_stx (by simp (disch := decide) only [ext_hi, ext_lo, ext_self])]
  simp (disch := decide) only [get_hi, get_lo, get_ofBool, ext_hi, ext_lo, ext_self]
  exact accept_ok rfl hw

theorem at_pf {w : BitVec 32} (h : w.extractLsb' 24 7 = 22#7) :
    decodeC w = accept (w.extractLsb' 20 4 == 0 && w.extractLsb' 14 6 == 0)
      (.pf (w.extractLsb' 8 6) (w.extractLsb' 6 2) (w.extractLsb' 0 6)) := by
  unfold decodeC; rw [h]; rfl

theorem pf (y sz off) : Statement (.pf y sz off) := by
  intro hw c h
  cases h
  have hb : (0#1 ++ 22#7 ++ 0#4 ++ 0#6 ++ y ++ sz ++ off).getLsbD 31 = false := by
    simp (disch := decide) only [get_hi, get_lo]; rfl
  rw [decodeCode, if_neg (by simp only [hb]; decide), at_pf (by simp (disch := decide) only [ext_hi, ext_lo, ext_self])]
  simp (disch := decide) only [get_hi, get_lo, get_ofBool, ext_hi, ext_lo, ext_self]
  exact accept_ok rfl hw

theorem at_fence {w : BitVec 32} (h : w.extractLsb' 24 7 = 23#7) :
    decodeC w = accept (w.extractLsb' 20 4 == 0 && w.extractLsb' 4 16 == 0)
      (.fence (w.extractLsb' 2 2) (w.extractLsb' 0 2)) := by
  unfold decodeC; rw [h]; rfl

theorem fence (k sc) : Statement (.fence k sc) := by
  intro hw c h
  cases h
  have hb : (0#1 ++ 23#7 ++ 0#4 ++ 0#16 ++ k ++ sc).getLsbD 31 = false := by
    simp (disch := decide) only [get_hi, get_lo]; rfl
  rw [decodeCode, if_neg (by simp only [hb]; decide), at_fence (by simp (disch := decide) only [ext_hi, ext_lo, ext_self])]
  simp (disch := decide) only [get_hi, get_lo, get_ofBool, ext_hi, ext_lo, ext_self]
  exact accept_ok rfl hw

theorem at_cinv {w : BitVec 32} (h : w.extractLsb' 24 7 = 24#7) :
    decodeC w = accept (w.extractLsb' 20 4 == 0 && w.extractLsb' 14 6 == 0 && w.extractLsb' 0 2 == 0)
      (.cinv (w.extractLsb' 8 6) (w.extractLsb' 2 6)) := by
  unfold decodeC; rw [h]; rfl

theorem cinv (y z) : Statement (.cinv y z) := by
  intro hw c h
  cases h
  have hb : (0#1 ++ 24#7 ++ 0#4 ++ 0#6 ++ y ++ z ++ 0#2).getLsbD 31 = false := by
    simp (disch := decide) only [get_hi, get_lo]; rfl
  rw [decodeCode, if_neg (by simp only [hb]; decide), at_cinv (by simp (disch := decide) only [ext_hi, ext_lo, ext_self])]
  simp (disch := decide) only [get_hi, get_lo, get_ofBool, ext_hi, ext_lo, ext_self]
  exact accept_ok rfl hw

theorem at_mbwait {w : BitVec 32} (h : w.extractLsb' 24 7 = 32#7) :
    decodeC w = accept (w.extractLsb' 20 4 == 0)
      (.mbwait (w.extractLsb' 14 6) (w.extractLsb' 8 6) (w.extractLsb' 2 6) (w.extractLsb' 0 2)) := by
  unfold decodeC; rw [h]; rfl

theorem mbwait (x y z m) : Statement (.mbwait x y z m) := by
  intro hw c h
  cases h
  have hb : (0#1 ++ 32#7 ++ 0#4 ++ x ++ y ++ z ++ m).getLsbD 31 = false := by
    simp (disch := decide) only [get_hi, get_lo]; rfl
  rw [decodeCode, if_neg (by simp only [hb]; decide), at_mbwait (by simp (disch := decide) only [ext_hi, ext_lo, ext_self])]
  simp (disch := decide) only [get_hi, get_lo, get_ofBool, ext_hi, ext_lo, ext_self]
  exact accept_ok rfl hw

theorem at_mbread {w : BitVec 32} (h : w.extractLsb' 24 7 = 33#7) :
    decodeC w = accept (w.extractLsb' 2 6 == 0 && w.extractLsb' 0 2 == 0)
      (.mbread (w.extractLsb' 20 4) (w.extractLsb' 14 6) (w.extractLsb' 8 6)) := by
  unfold decodeC; rw [h]; rfl

theorem mbread (la x y) : Statement (.mbread la x y) := by
  intro hw c h
  cases h
  have hb : (0#1 ++ 33#7 ++ la ++ x ++ y ++ 0#6 ++ 0#2).getLsbD 31 = false := by
    simp (disch := decide) only [get_hi, get_lo]; rfl
  rw [decodeCode, if_neg (by simp only [hb]; decide), at_mbread (by simp (disch := decide) only [ext_hi, ext_lo, ext_self])]
  simp (disch := decide) only [get_hi, get_lo, get_ofBool, ext_hi, ext_lo, ext_self]
  exact accept_ok rfl hw

theorem at_bowait {w : BitVec 32} (h : w.extractLsb' 24 7 = 34#7) :
    decodeC w = accept (w.extractLsb' 20 4 == 0)
      (.bowait (w.extractLsb' 14 6) (w.extractLsb' 8 6) (w.extractLsb' 2 6) (w.extractLsb' 0 2)) := by
  unfold decodeC; rw [h]; rfl

theorem bowait (x y z sc) : Statement (.bowait x y z sc) := by
  intro hw c h
  cases h
  have hb : (0#1 ++ 34#7 ++ 0#4 ++ x ++ y ++ z ++ sc).getLsbD 31 = false := by
    simp (disch := decide) only [get_hi, get_lo]; rfl
  rw [decodeCode, if_neg (by simp only [hb]; decide), at_bowait (by simp (disch := decide) only [ext_hi, ext_lo, ext_self])]
  simp (disch := decide) only [get_hi, get_lo, get_ofBool, ext_hi, ext_lo, ext_self]
  exact accept_ok rfl hw

theorem at_boread {w : BitVec 32} (h : w.extractLsb' 24 7 = 35#7) :
    decodeC w = accept (w.extractLsb' 2 6 == 0)
      (.boread (w.extractLsb' 20 4) (w.extractLsb' 14 6) (w.extractLsb' 8 6) (w.extractLsb' 0 2)) := by
  unfold decodeC; rw [h]; rfl

theorem boread (la x y sc) : Statement (.boread la x y sc) := by
  intro hw c h
  cases h
  have hb : (0#1 ++ 35#7 ++ la ++ x ++ y ++ 0#6 ++ sc).getLsbD 31 = false := by
    simp (disch := decide) only [get_hi, get_lo]; rfl
  rw [decodeCode, if_neg (by simp only [hb]; decide), at_boread (by simp (disch := decide) only [ext_hi, ext_lo, ext_self])]
  simp (disch := decide) only [get_hi, get_lo, get_ofBool, ext_hi, ext_lo, ext_self]
  exact accept_ok rfl hw

theorem at_wmread {w : BitVec 32} (h : w.extractLsb' 24 7 = 36#7) :
    decodeC w = accept (w.extractLsb' 2 6 == 0 && w.extractLsb' 0 2 == 0)
      (.wmread (w.extractLsb' 20 4) (w.extractLsb' 14 6) (w.extractLsb' 8 6)) := by
  unfold decodeC; rw [h]; rfl

theorem wmread (la x y) : Statement (.wmread la x y) := by
  intro hw c h
  cases h
  have hb : (0#1 ++ 36#7 ++ la ++ x ++ y ++ 0#6 ++ 0#2).getLsbD 31 = false := by
    simp (disch := decide) only [get_hi, get_lo]; rfl
  rw [decodeCode, if_neg (by simp only [hb]; decide), at_wmread (by simp (disch := decide) only [ext_hi, ext_lo, ext_self])]
  simp (disch := decide) only [get_hi, get_lo, get_ofBool, ext_hi, ext_lo, ext_self]
  exact accept_ok rfl hw

theorem at_nopc {w : BitVec 32} (h : w.extractLsb' 24 7 = 127#7) :
    decodeC w = accept (w.extractLsb' 20 4 == 0 && w.extractLsb' 0 20 == 0)
      (.nopc) := by
  unfold decodeC; rw [h]; rfl

theorem nopc : Statement (.nopc) := by
  intro hw c h
  cases h
  have hb : (0#1 ++ 127#7 ++ 0#4 ++ 0#20).getLsbD 31 = false := by
    simp (disch := decide) only [get_hi, get_lo]; rfl
  rw [decodeCode, if_neg (by simp only [hb]; decide), at_nopc (by simp (disch := decide) only [ext_hi, ext_lo, ext_self])]
  exact accept_ok rfl hw

theorem at_add {w : BitVec 32} (h : w.extractLsb' 24 7 = 1#7) (hb : w.getLsbD 31 = false) :
    decodeA w = accept (w.extractLsb' 0 6 == 0)
      (.add (w.extractLsb' 18 6) (w.extractLsb' 12 6) (w.extractLsb' 6 6)) := by
  unfold decodeA; rw [if_neg (by rw [hb]; exact Bool.false_ne_true), h]; rfl

theorem add (d a b) : Statement (.add d a b) := by
  intro hw c h
  cases h
  have hb : (0#1 ++ 1#7 ++ d ++ a ++ b ++ 0#6).getLsbD 31 = false := by
    simp (disch := decide) only [get_hi, get_lo]; rfl
  rw [decodeCode, at_add (by simp (disch := decide) only [ext_hi, ext_lo, ext_self]) hb]
  simp (disch := decide) only [get_hi, get_lo, get_ofBool, ext_hi, ext_lo, ext_self]
  exact accept_ok rfl hw

theorem at_sub {w : BitVec 32} (h : w.extractLsb' 24 7 = 2#7) (hb : w.getLsbD 31 = false) :
    decodeA w = accept (w.extractLsb' 0 6 == 0)
      (.sub (w.extractLsb' 18 6) (w.extractLsb' 12 6) (w.extractLsb' 6 6)) := by
  unfold decodeA; rw [if_neg (by rw [hb]; exact Bool.false_ne_true), h]; rfl

theorem sub (d a b) : Statement (.sub d a b) := by
  intro hw c h
  cases h
  have hb : (0#1 ++ 2#7 ++ d ++ a ++ b ++ 0#6).getLsbD 31 = false := by
    simp (disch := decide) only [get_hi, get_lo]; rfl
  rw [decodeCode, at_sub (by simp (disch := decide) only [ext_hi, ext_lo, ext_self]) hb]
  simp (disch := decide) only [get_hi, get_lo, get_ofBool, ext_hi, ext_lo, ext_self]
  exact accept_ok rfl hw

theorem at_mul {w : BitVec 32} (h : w.extractLsb' 24 7 = 3#7) (hb : w.getLsbD 31 = false) :
    decodeA w = accept (w.extractLsb' 0 6 == 0)
      (.mul (w.extractLsb' 18 6) (w.extractLsb' 12 6) (w.extractLsb' 6 6)) := by
  unfold decodeA; rw [if_neg (by rw [hb]; exact Bool.false_ne_true), h]; rfl

theorem mul (d a b) : Statement (.mul d a b) := by
  intro hw c h
  cases h
  have hb : (0#1 ++ 3#7 ++ d ++ a ++ b ++ 0#6).getLsbD 31 = false := by
    simp (disch := decide) only [get_hi, get_lo]; rfl
  rw [decodeCode, at_mul (by simp (disch := decide) only [ext_hi, ext_lo, ext_self]) hb]
  simp (disch := decide) only [get_hi, get_lo, get_ofBool, ext_hi, ext_lo, ext_self]
  exact accept_ok rfl hw

theorem at_mulh {w : BitVec 32} (h : w.extractLsb' 24 7 = 4#7) (hb : w.getLsbD 31 = false) :
    decodeA w = accept (w.extractLsb' 0 6 == 0)
      (.mulh (w.extractLsb' 18 6) (w.extractLsb' 12 6) (w.extractLsb' 6 6)) := by
  unfold decodeA; rw [if_neg (by rw [hb]; exact Bool.false_ne_true), h]; rfl

theorem mulh (d a b) : Statement (.mulh d a b) := by
  intro hw c h
  cases h
  have hb : (0#1 ++ 4#7 ++ d ++ a ++ b ++ 0#6).getLsbD 31 = false := by
    simp (disch := decide) only [get_hi, get_lo]; rfl
  rw [decodeCode, at_mulh (by simp (disch := decide) only [ext_hi, ext_lo, ext_self]) hb]
  simp (disch := decide) only [get_hi, get_lo, get_ofBool, ext_hi, ext_lo, ext_self]
  exact accept_ok rfl hw

theorem at_mulhu {w : BitVec 32} (h : w.extractLsb' 24 7 = 5#7) (hb : w.getLsbD 31 = false) :
    decodeA w = accept (w.extractLsb' 0 6 == 0)
      (.mulhu (w.extractLsb' 18 6) (w.extractLsb' 12 6) (w.extractLsb' 6 6)) := by
  unfold decodeA; rw [if_neg (by rw [hb]; exact Bool.false_ne_true), h]; rfl

theorem mulhu (d a b) : Statement (.mulhu d a b) := by
  intro hw c h
  cases h
  have hb : (0#1 ++ 5#7 ++ d ++ a ++ b ++ 0#6).getLsbD 31 = false := by
    simp (disch := decide) only [get_hi, get_lo]; rfl
  rw [decodeCode, at_mulhu (by simp (disch := decide) only [ext_hi, ext_lo, ext_self]) hb]
  simp (disch := decide) only [get_hi, get_lo, get_ofBool, ext_hi, ext_lo, ext_self]
  exact accept_ok rfl hw

theorem at_div {w : BitVec 32} (h : w.extractLsb' 24 7 = 6#7) (hb : w.getLsbD 31 = false) :
    decodeA w = accept (w.extractLsb' 0 6 == 0)
      (.div (w.extractLsb' 18 6) (w.extractLsb' 12 6) (w.extractLsb' 6 6)) := by
  unfold decodeA; rw [if_neg (by rw [hb]; exact Bool.false_ne_true), h]; rfl

theorem div (d a b) : Statement (.div d a b) := by
  intro hw c h
  cases h
  have hb : (0#1 ++ 6#7 ++ d ++ a ++ b ++ 0#6).getLsbD 31 = false := by
    simp (disch := decide) only [get_hi, get_lo]; rfl
  rw [decodeCode, at_div (by simp (disch := decide) only [ext_hi, ext_lo, ext_self]) hb]
  simp (disch := decide) only [get_hi, get_lo, get_ofBool, ext_hi, ext_lo, ext_self]
  exact accept_ok rfl hw

theorem at_divu {w : BitVec 32} (h : w.extractLsb' 24 7 = 7#7) (hb : w.getLsbD 31 = false) :
    decodeA w = accept (w.extractLsb' 0 6 == 0)
      (.divu (w.extractLsb' 18 6) (w.extractLsb' 12 6) (w.extractLsb' 6 6)) := by
  unfold decodeA; rw [if_neg (by rw [hb]; exact Bool.false_ne_true), h]; rfl

theorem divu (d a b) : Statement (.divu d a b) := by
  intro hw c h
  cases h
  have hb : (0#1 ++ 7#7 ++ d ++ a ++ b ++ 0#6).getLsbD 31 = false := by
    simp (disch := decide) only [get_hi, get_lo]; rfl
  rw [decodeCode, at_divu (by simp (disch := decide) only [ext_hi, ext_lo, ext_self]) hb]
  simp (disch := decide) only [get_hi, get_lo, get_ofBool, ext_hi, ext_lo, ext_self]
  exact accept_ok rfl hw

theorem at_rem {w : BitVec 32} (h : w.extractLsb' 24 7 = 8#7) (hb : w.getLsbD 31 = false) :
    decodeA w = accept (w.extractLsb' 0 6 == 0)
      (.rem (w.extractLsb' 18 6) (w.extractLsb' 12 6) (w.extractLsb' 6 6)) := by
  unfold decodeA; rw [if_neg (by rw [hb]; exact Bool.false_ne_true), h]; rfl

theorem rem (d a b) : Statement (.rem d a b) := by
  intro hw c h
  cases h
  have hb : (0#1 ++ 8#7 ++ d ++ a ++ b ++ 0#6).getLsbD 31 = false := by
    simp (disch := decide) only [get_hi, get_lo]; rfl
  rw [decodeCode, at_rem (by simp (disch := decide) only [ext_hi, ext_lo, ext_self]) hb]
  simp (disch := decide) only [get_hi, get_lo, get_ofBool, ext_hi, ext_lo, ext_self]
  exact accept_ok rfl hw

theorem at_remu {w : BitVec 32} (h : w.extractLsb' 24 7 = 9#7) (hb : w.getLsbD 31 = false) :
    decodeA w = accept (w.extractLsb' 0 6 == 0)
      (.remu (w.extractLsb' 18 6) (w.extractLsb' 12 6) (w.extractLsb' 6 6)) := by
  unfold decodeA; rw [if_neg (by rw [hb]; exact Bool.false_ne_true), h]; rfl

theorem remu (d a b) : Statement (.remu d a b) := by
  intro hw c h
  cases h
  have hb : (0#1 ++ 9#7 ++ d ++ a ++ b ++ 0#6).getLsbD 31 = false := by
    simp (disch := decide) only [get_hi, get_lo]; rfl
  rw [decodeCode, at_remu (by simp (disch := decide) only [ext_hi, ext_lo, ext_self]) hb]
  simp (disch := decide) only [get_hi, get_lo, get_ofBool, ext_hi, ext_lo, ext_self]
  exact accept_ok rfl hw

theorem at_and {w : BitVec 32} (h : w.extractLsb' 24 7 = 10#7) (hb : w.getLsbD 31 = false) :
    decodeA w = accept (w.extractLsb' 0 6 == 0)
      (.and (w.extractLsb' 18 6) (w.extractLsb' 12 6) (w.extractLsb' 6 6)) := by
  unfold decodeA; rw [if_neg (by rw [hb]; exact Bool.false_ne_true), h]; rfl

theorem and (d a b) : Statement (.and d a b) := by
  intro hw c h
  cases h
  have hb : (0#1 ++ 10#7 ++ d ++ a ++ b ++ 0#6).getLsbD 31 = false := by
    simp (disch := decide) only [get_hi, get_lo]; rfl
  rw [decodeCode, at_and (by simp (disch := decide) only [ext_hi, ext_lo, ext_self]) hb]
  simp (disch := decide) only [get_hi, get_lo, get_ofBool, ext_hi, ext_lo, ext_self]
  exact accept_ok rfl hw

theorem at_or {w : BitVec 32} (h : w.extractLsb' 24 7 = 11#7) (hb : w.getLsbD 31 = false) :
    decodeA w = accept (w.extractLsb' 0 6 == 0)
      (.or (w.extractLsb' 18 6) (w.extractLsb' 12 6) (w.extractLsb' 6 6)) := by
  unfold decodeA; rw [if_neg (by rw [hb]; exact Bool.false_ne_true), h]; rfl

theorem or (d a b) : Statement (.or d a b) := by
  intro hw c h
  cases h
  have hb : (0#1 ++ 11#7 ++ d ++ a ++ b ++ 0#6).getLsbD 31 = false := by
    simp (disch := decide) only [get_hi, get_lo]; rfl
  rw [decodeCode, at_or (by simp (disch := decide) only [ext_hi, ext_lo, ext_self]) hb]
  simp (disch := decide) only [get_hi, get_lo, get_ofBool, ext_hi, ext_lo, ext_self]
  exact accept_ok rfl hw

theorem at_xor {w : BitVec 32} (h : w.extractLsb' 24 7 = 12#7) (hb : w.getLsbD 31 = false) :
    decodeA w = accept (w.extractLsb' 0 6 == 0)
      (.xor (w.extractLsb' 18 6) (w.extractLsb' 12 6) (w.extractLsb' 6 6)) := by
  unfold decodeA; rw [if_neg (by rw [hb]; exact Bool.false_ne_true), h]; rfl

theorem xor (d a b) : Statement (.xor d a b) := by
  intro hw c h
  cases h
  have hb : (0#1 ++ 12#7 ++ d ++ a ++ b ++ 0#6).getLsbD 31 = false := by
    simp (disch := decide) only [get_hi, get_lo]; rfl
  rw [decodeCode, at_xor (by simp (disch := decide) only [ext_hi, ext_lo, ext_self]) hb]
  simp (disch := decide) only [get_hi, get_lo, get_ofBool, ext_hi, ext_lo, ext_self]
  exact accept_ok rfl hw

theorem at_andn {w : BitVec 32} (h : w.extractLsb' 24 7 = 13#7) (hb : w.getLsbD 31 = false) :
    decodeA w = accept (w.extractLsb' 0 6 == 0)
      (.andn (w.extractLsb' 18 6) (w.extractLsb' 12 6) (w.extractLsb' 6 6)) := by
  unfold decodeA; rw [if_neg (by rw [hb]; exact Bool.false_ne_true), h]; rfl

theorem andn (d a b) : Statement (.andn d a b) := by
  intro hw c h
  cases h
  have hb : (0#1 ++ 13#7 ++ d ++ a ++ b ++ 0#6).getLsbD 31 = false := by
    simp (disch := decide) only [get_hi, get_lo]; rfl
  rw [decodeCode, at_andn (by simp (disch := decide) only [ext_hi, ext_lo, ext_self]) hb]
  simp (disch := decide) only [get_hi, get_lo, get_ofBool, ext_hi, ext_lo, ext_self]
  exact accept_ok rfl hw

theorem at_shl {w : BitVec 32} (h : w.extractLsb' 24 7 = 14#7) (hb : w.getLsbD 31 = false) :
    decodeA w = accept (w.extractLsb' 0 6 == 0)
      (.shl (w.extractLsb' 18 6) (w.extractLsb' 12 6) (w.extractLsb' 6 6)) := by
  unfold decodeA; rw [if_neg (by rw [hb]; exact Bool.false_ne_true), h]; rfl

theorem shl (d a b) : Statement (.shl d a b) := by
  intro hw c h
  cases h
  have hb : (0#1 ++ 14#7 ++ d ++ a ++ b ++ 0#6).getLsbD 31 = false := by
    simp (disch := decide) only [get_hi, get_lo]; rfl
  rw [decodeCode, at_shl (by simp (disch := decide) only [ext_hi, ext_lo, ext_self]) hb]
  simp (disch := decide) only [get_hi, get_lo, get_ofBool, ext_hi, ext_lo, ext_self]
  exact accept_ok rfl hw

theorem at_shr {w : BitVec 32} (h : w.extractLsb' 24 7 = 15#7) (hb : w.getLsbD 31 = false) :
    decodeA w = accept (w.extractLsb' 0 6 == 0)
      (.shr (w.extractLsb' 18 6) (w.extractLsb' 12 6) (w.extractLsb' 6 6)) := by
  unfold decodeA; rw [if_neg (by rw [hb]; exact Bool.false_ne_true), h]; rfl

theorem shr (d a b) : Statement (.shr d a b) := by
  intro hw c h
  cases h
  have hb : (0#1 ++ 15#7 ++ d ++ a ++ b ++ 0#6).getLsbD 31 = false := by
    simp (disch := decide) only [get_hi, get_lo]; rfl
  rw [decodeCode, at_shr (by simp (disch := decide) only [ext_hi, ext_lo, ext_self]) hb]
  simp (disch := decide) only [get_hi, get_lo, get_ofBool, ext_hi, ext_lo, ext_self]
  exact accept_ok rfl hw

theorem at_sra {w : BitVec 32} (h : w.extractLsb' 24 7 = 16#7) (hb : w.getLsbD 31 = false) :
    decodeA w = accept (w.extractLsb' 0 6 == 0)
      (.sra (w.extractLsb' 18 6) (w.extractLsb' 12 6) (w.extractLsb' 6 6)) := by
  unfold decodeA; rw [if_neg (by rw [hb]; exact Bool.false_ne_true), h]; rfl

theorem sra (d a b) : Statement (.sra d a b) := by
  intro hw c h
  cases h
  have hb : (0#1 ++ 16#7 ++ d ++ a ++ b ++ 0#6).getLsbD 31 = false := by
    simp (disch := decide) only [get_hi, get_lo]; rfl
  rw [decodeCode, at_sra (by simp (disch := decide) only [ext_hi, ext_lo, ext_self]) hb]
  simp (disch := decide) only [get_hi, get_lo, get_ofBool, ext_hi, ext_lo, ext_self]
  exact accept_ok rfl hw

theorem at_rol {w : BitVec 32} (h : w.extractLsb' 24 7 = 17#7) (hb : w.getLsbD 31 = false) :
    decodeA w = accept (w.extractLsb' 0 6 == 0)
      (.rol (w.extractLsb' 18 6) (w.extractLsb' 12 6) (w.extractLsb' 6 6)) := by
  unfold decodeA; rw [if_neg (by rw [hb]; exact Bool.false_ne_true), h]; rfl

theorem rol (d a b) : Statement (.rol d a b) := by
  intro hw c h
  cases h
  have hb : (0#1 ++ 17#7 ++ d ++ a ++ b ++ 0#6).getLsbD 31 = false := by
    simp (disch := decide) only [get_hi, get_lo]; rfl
  rw [decodeCode, at_rol (by simp (disch := decide) only [ext_hi, ext_lo, ext_self]) hb]
  simp (disch := decide) only [get_hi, get_lo, get_ofBool, ext_hi, ext_lo, ext_self]
  exact accept_ok rfl hw

theorem at_ror {w : BitVec 32} (h : w.extractLsb' 24 7 = 18#7) (hb : w.getLsbD 31 = false) :
    decodeA w = accept (w.extractLsb' 0 6 == 0)
      (.ror (w.extractLsb' 18 6) (w.extractLsb' 12 6) (w.extractLsb' 6 6)) := by
  unfold decodeA; rw [if_neg (by rw [hb]; exact Bool.false_ne_true), h]; rfl

theorem ror (d a b) : Statement (.ror d a b) := by
  intro hw c h
  cases h
  have hb : (0#1 ++ 18#7 ++ d ++ a ++ b ++ 0#6).getLsbD 31 = false := by
    simp (disch := decide) only [get_hi, get_lo]; rfl
  rw [decodeCode, at_ror (by simp (disch := decide) only [ext_hi, ext_lo, ext_self]) hb]
  simp (disch := decide) only [get_hi, get_lo, get_ofBool, ext_hi, ext_lo, ext_self]
  exact accept_ok rfl hw

theorem at_min {w : BitVec 32} (h : w.extractLsb' 24 7 = 19#7) (hb : w.getLsbD 31 = false) :
    decodeA w = accept (w.extractLsb' 0 6 == 0)
      (.min (w.extractLsb' 18 6) (w.extractLsb' 12 6) (w.extractLsb' 6 6)) := by
  unfold decodeA; rw [if_neg (by rw [hb]; exact Bool.false_ne_true), h]; rfl

theorem min (d a b) : Statement (.min d a b) := by
  intro hw c h
  cases h
  have hb : (0#1 ++ 19#7 ++ d ++ a ++ b ++ 0#6).getLsbD 31 = false := by
    simp (disch := decide) only [get_hi, get_lo]; rfl
  rw [decodeCode, at_min (by simp (disch := decide) only [ext_hi, ext_lo, ext_self]) hb]
  simp (disch := decide) only [get_hi, get_lo, get_ofBool, ext_hi, ext_lo, ext_self]
  exact accept_ok rfl hw

theorem at_max {w : BitVec 32} (h : w.extractLsb' 24 7 = 20#7) (hb : w.getLsbD 31 = false) :
    decodeA w = accept (w.extractLsb' 0 6 == 0)
      (.max (w.extractLsb' 18 6) (w.extractLsb' 12 6) (w.extractLsb' 6 6)) := by
  unfold decodeA; rw [if_neg (by rw [hb]; exact Bool.false_ne_true), h]; rfl

theorem max (d a b) : Statement (.max d a b) := by
  intro hw c h
  cases h
  have hb : (0#1 ++ 20#7 ++ d ++ a ++ b ++ 0#6).getLsbD 31 = false := by
    simp (disch := decide) only [get_hi, get_lo]; rfl
  rw [decodeCode, at_max (by simp (disch := decide) only [ext_hi, ext_lo, ext_self]) hb]
  simp (disch := decide) only [get_hi, get_lo, get_ofBool, ext_hi, ext_lo, ext_self]
  exact accept_ok rfl hw

theorem at_minu {w : BitVec 32} (h : w.extractLsb' 24 7 = 21#7) (hb : w.getLsbD 31 = false) :
    decodeA w = accept (w.extractLsb' 0 6 == 0)
      (.minu (w.extractLsb' 18 6) (w.extractLsb' 12 6) (w.extractLsb' 6 6)) := by
  unfold decodeA; rw [if_neg (by rw [hb]; exact Bool.false_ne_true), h]; rfl

theorem minu (d a b) : Statement (.minu d a b) := by
  intro hw c h
  cases h
  have hb : (0#1 ++ 21#7 ++ d ++ a ++ b ++ 0#6).getLsbD 31 = false := by
    simp (disch := decide) only [get_hi, get_lo]; rfl
  rw [decodeCode, at_minu (by simp (disch := decide) only [ext_hi, ext_lo, ext_self]) hb]
  simp (disch := decide) only [get_hi, get_lo, get_ofBool, ext_hi, ext_lo, ext_self]
  exact accept_ok rfl hw

theorem at_maxu {w : BitVec 32} (h : w.extractLsb' 24 7 = 22#7) (hb : w.getLsbD 31 = false) :
    decodeA w = accept (w.extractLsb' 0 6 == 0)
      (.maxu (w.extractLsb' 18 6) (w.extractLsb' 12 6) (w.extractLsb' 6 6)) := by
  unfold decodeA; rw [if_neg (by rw [hb]; exact Bool.false_ne_true), h]; rfl

theorem maxu (d a b) : Statement (.maxu d a b) := by
  intro hw c h
  cases h
  have hb : (0#1 ++ 22#7 ++ d ++ a ++ b ++ 0#6).getLsbD 31 = false := by
    simp (disch := decide) only [get_hi, get_lo]; rfl
  rw [decodeCode, at_maxu (by simp (disch := decide) only [ext_hi, ext_lo, ext_self]) hb]
  simp (disch := decide) only [get_hi, get_lo, get_ofBool, ext_hi, ext_lo, ext_self]
  exact accept_ok rfl hw

theorem at_addsc {w : BitVec 32} (h : w.extractLsb' 24 7 = 23#7) (hb : w.getLsbD 31 = false) :
    decodeA w = accept (true)
      (.addsc (w.extractLsb' 18 6) (w.extractLsb' 12 6) (w.extractLsb' 6 6) (w.extractLsb' 0 6)) := by
  unfold decodeA; rw [if_neg (by rw [hb]; exact Bool.false_ne_true), h]; rfl

theorem addsc (d a b s) : Statement (.addsc d a b s) := by
  intro hw c h
  cases h
  have hb : (0#1 ++ 23#7 ++ d ++ a ++ b ++ s).getLsbD 31 = false := by
    simp (disch := decide) only [get_hi, get_lo]; rfl
  rw [decodeCode, at_addsc (by simp (disch := decide) only [ext_hi, ext_lo, ext_self]) hb]
  simp (disch := decide) only [get_hi, get_lo, get_ofBool, ext_hi, ext_lo, ext_self]
  exact accept_ok rfl hw

theorem at_sel {w : BitVec 32} (h : w.extractLsb' 24 7 = 24#7) (hb : w.getLsbD 31 = false) :
    decodeA w = accept (true)
      (.sel (w.extractLsb' 18 6) (w.extractLsb' 12 6) (w.extractLsb' 6 6) (w.extractLsb' 0 6)) := by
  unfold decodeA; rw [if_neg (by rw [hb]; exact Bool.false_ne_true), h]; rfl

theorem sel (d a b c) : Statement (.sel d a b c) := by
  intro hw c h
  cases h
  have hb : (0#1 ++ 24#7 ++ d ++ a ++ b ++ c).getLsbD 31 = false := by
    simp (disch := decide) only [get_hi, get_lo]; rfl
  rw [decodeCode, at_sel (by simp (disch := decide) only [ext_hi, ext_lo, ext_self]) hb]
  simp (disch := decide) only [get_hi, get_lo, get_ofBool, ext_hi, ext_lo, ext_self]
  exact accept_ok rfl hw

theorem at_clz {w : BitVec 32} (h : w.extractLsb' 24 7 = 25#7) (hb : w.getLsbD 31 = false) :
    decodeA w = accept (w.extractLsb' 0 12 == 0)
      (.clz (w.extractLsb' 18 6) (w.extractLsb' 12 6)) := by
  unfold decodeA; rw [if_neg (by rw [hb]; exact Bool.false_ne_true), h]; rfl

theorem clz (d a) : Statement (.clz d a) := by
  intro hw c h
  cases h
  have hb : (0#1 ++ 25#7 ++ d ++ a ++ 0#12).getLsbD 31 = false := by
    simp (disch := decide) only [get_hi, get_lo]; rfl
  rw [decodeCode, at_clz (by simp (disch := decide) only [ext_hi, ext_lo, ext_self]) hb]
  simp (disch := decide) only [get_hi, get_lo, get_ofBool, ext_hi, ext_lo, ext_self]
  exact accept_ok rfl hw

theorem at_ctz {w : BitVec 32} (h : w.extractLsb' 24 7 = 26#7) (hb : w.getLsbD 31 = false) :
    decodeA w = accept (w.extractLsb' 0 12 == 0)
      (.ctz (w.extractLsb' 18 6) (w.extractLsb' 12 6)) := by
  unfold decodeA; rw [if_neg (by rw [hb]; exact Bool.false_ne_true), h]; rfl

theorem ctz (d a) : Statement (.ctz d a) := by
  intro hw c h
  cases h
  have hb : (0#1 ++ 26#7 ++ d ++ a ++ 0#12).getLsbD 31 = false := by
    simp (disch := decide) only [get_hi, get_lo]; rfl
  rw [decodeCode, at_ctz (by simp (disch := decide) only [ext_hi, ext_lo, ext_self]) hb]
  simp (disch := decide) only [get_hi, get_lo, get_ofBool, ext_hi, ext_lo, ext_self]
  exact accept_ok rfl hw

theorem at_popc {w : BitVec 32} (h : w.extractLsb' 24 7 = 27#7) (hb : w.getLsbD 31 = false) :
    decodeA w = accept (w.extractLsb' 0 12 == 0)
      (.popc (w.extractLsb' 18 6) (w.extractLsb' 12 6)) := by
  unfold decodeA; rw [if_neg (by rw [hb]; exact Bool.false_ne_true), h]; rfl

theorem popc (d a) : Statement (.popc d a) := by
  intro hw c h
  cases h
  have hb : (0#1 ++ 27#7 ++ d ++ a ++ 0#12).getLsbD 31 = false := by
    simp (disch := decide) only [get_hi, get_lo]; rfl
  rw [decodeCode, at_popc (by simp (disch := decide) only [ext_hi, ext_lo, ext_self]) hb]
  simp (disch := decide) only [get_hi, get_lo, get_ofBool, ext_hi, ext_lo, ext_self]
  exact accept_ok rfl hw

theorem at_bswap {w : BitVec 32} (h : w.extractLsb' 24 7 = 28#7) (hb : w.getLsbD 31 = false) :
    decodeA w = accept (w.extractLsb' 0 12 == 0)
      (.bswap (w.extractLsb' 18 6) (w.extractLsb' 12 6)) := by
  unfold decodeA; rw [if_neg (by rw [hb]; exact Bool.false_ne_true), h]; rfl

theorem bswap (d a) : Statement (.bswap d a) := by
  intro hw c h
  cases h
  have hb : (0#1 ++ 28#7 ++ d ++ a ++ 0#12).getLsbD 31 = false := by
    simp (disch := decide) only [get_hi, get_lo]; rfl
  rw [decodeCode, at_bswap (by simp (disch := decide) only [ext_hi, ext_lo, ext_self]) hb]
  simp (disch := decide) only [get_hi, get_lo, get_ofBool, ext_hi, ext_lo, ext_self]
  exact accept_ok rfl hw

theorem at_bext {w : BitVec 32} (h : w.extractLsb' 24 7 = 29#7) (hb : w.getLsbD 31 = false) :
    decodeA w = accept (true)
      (.bext (w.extractLsb' 18 6) (w.extractLsb' 12 6) (w.extractLsb' 6 6) (w.extractLsb' 0 6)) := by
  unfold decodeA; rw [if_neg (by rw [hb]; exact Bool.false_ne_true), h]; rfl

theorem bext (d a b w) : Statement (.bext d a b w) := by
  intro hw c h
  cases h
  have hb : (0#1 ++ 29#7 ++ d ++ a ++ b ++ w).getLsbD 31 = false := by
    simp (disch := decide) only [get_hi, get_lo]; rfl
  rw [decodeCode, at_bext (by simp (disch := decide) only [ext_hi, ext_lo, ext_self]) hb]
  simp (disch := decide) only [get_hi, get_lo, get_ofBool, ext_hi, ext_lo, ext_self]
  exact accept_ok rfl hw

theorem at_bins {w : BitVec 32} (h : w.extractLsb' 24 7 = 30#7) (hb : w.getLsbD 31 = false) :
    decodeA w = accept (true)
      (.bins (w.extractLsb' 18 6) (w.extractLsb' 12 6) (w.extractLsb' 6 6) (w.extractLsb' 0 6)) := by
  unfold decodeA; rw [if_neg (by rw [hb]; exact Bool.false_ne_true), h]; rfl

theorem bins (d a b w) : Statement (.bins d a b w) := by
  intro hw c h
  cases h
  have hb : (0#1 ++ 30#7 ++ d ++ a ++ b ++ w).getLsbD 31 = false := by
    simp (disch := decide) only [get_hi, get_lo]; rfl
  rw [decodeCode, at_bins (by simp (disch := decide) only [ext_hi, ext_lo, ext_self]) hb]
  simp (disch := decide) only [get_hi, get_lo, get_ofBool, ext_hi, ext_lo, ext_self]
  exact accept_ok rfl hw

theorem at_sext {w : BitVec 32} (h : w.extractLsb' 24 7 = 31#7) (hb : w.getLsbD 31 = false) :
    decodeA w = accept (w.extractLsb' 6 6 == 0)
      (.sext (w.extractLsb' 18 6) (w.extractLsb' 12 6) (w.extractLsb' 0 6)) := by
  unfold decodeA; rw [if_neg (by rw [hb]; exact Bool.false_ne_true), h]; rfl

theorem sext (d a n) : Statement (.sext d a n) := by
  intro hw c h
  cases h
  have hb : (0#1 ++ 31#7 ++ d ++ a ++ 0#6 ++ n).getLsbD 31 = false := by
    simp (disch := decide) only [get_hi, get_lo]; rfl
  rw [decodeCode, at_sext (by simp (disch := decide) only [ext_hi, ext_lo, ext_self]) hb]
  simp (disch := decide) only [get_hi, get_lo, get_ofBool, ext_hi, ext_lo, ext_self]
  exact accept_ok rfl hw

theorem at_addi {w : BitVec 32} (h : w.extractLsb' 24 7 = 32#7) (hb : w.getLsbD 31 = false) :
    decodeA w = accept (true)
      (.addi (w.extractLsb' 18 6) (w.extractLsb' 12 6) (w.extractLsb' 0 12)) := by
  unfold decodeA; rw [if_neg (by rw [hb]; exact Bool.false_ne_true), h]; rfl

theorem addi (d a i) : Statement (.addi d a i) := by
  intro hw c h
  cases h
  have hb : (0#1 ++ 32#7 ++ d ++ a ++ i).getLsbD 31 = false := by
    simp (disch := decide) only [get_hi, get_lo]; rfl
  rw [decodeCode, at_addi (by simp (disch := decide) only [ext_hi, ext_lo, ext_self]) hb]
  simp (disch := decide) only [get_hi, get_lo, get_ofBool, ext_hi, ext_lo, ext_self]
  exact accept_ok rfl hw

theorem at_andi {w : BitVec 32} (h : w.extractLsb' 24 7 = 33#7) (hb : w.getLsbD 31 = false) :
    decodeA w = accept (true)
      (.andi (w.extractLsb' 18 6) (w.extractLsb' 12 6) (w.extractLsb' 0 12)) := by
  unfold decodeA; rw [if_neg (by rw [hb]; exact Bool.false_ne_true), h]; rfl

theorem andi (d a i) : Statement (.andi d a i) := by
  intro hw c h
  cases h
  have hb : (0#1 ++ 33#7 ++ d ++ a ++ i).getLsbD 31 = false := by
    simp (disch := decide) only [get_hi, get_lo]; rfl
  rw [decodeCode, at_andi (by simp (disch := decide) only [ext_hi, ext_lo, ext_self]) hb]
  simp (disch := decide) only [get_hi, get_lo, get_ofBool, ext_hi, ext_lo, ext_self]
  exact accept_ok rfl hw

theorem at_ori {w : BitVec 32} (h : w.extractLsb' 24 7 = 34#7) (hb : w.getLsbD 31 = false) :
    decodeA w = accept (true)
      (.ori (w.extractLsb' 18 6) (w.extractLsb' 12 6) (w.extractLsb' 0 12)) := by
  unfold decodeA; rw [if_neg (by rw [hb]; exact Bool.false_ne_true), h]; rfl

theorem ori (d a i) : Statement (.ori d a i) := by
  intro hw c h
  cases h
  have hb : (0#1 ++ 34#7 ++ d ++ a ++ i).getLsbD 31 = false := by
    simp (disch := decide) only [get_hi, get_lo]; rfl
  rw [decodeCode, at_ori (by simp (disch := decide) only [ext_hi, ext_lo, ext_self]) hb]
  simp (disch := decide) only [get_hi, get_lo, get_ofBool, ext_hi, ext_lo, ext_self]
  exact accept_ok rfl hw

theorem at_xori {w : BitVec 32} (h : w.extractLsb' 24 7 = 35#7) (hb : w.getLsbD 31 = false) :
    decodeA w = accept (true)
      (.xori (w.extractLsb' 18 6) (w.extractLsb' 12 6) (w.extractLsb' 0 12)) := by
  unfold decodeA; rw [if_neg (by rw [hb]; exact Bool.false_ne_true), h]; rfl

theorem xori (d a i) : Statement (.xori d a i) := by
  intro hw c h
  cases h
  have hb : (0#1 ++ 35#7 ++ d ++ a ++ i).getLsbD 31 = false := by
    simp (disch := decide) only [get_hi, get_lo]; rfl
  rw [decodeCode, at_xori (by simp (disch := decide) only [ext_hi, ext_lo, ext_self]) hb]
  simp (disch := decide) only [get_hi, get_lo, get_ofBool, ext_hi, ext_lo, ext_self]
  exact accept_ok rfl hw

theorem at_shli {w : BitVec 32} (h : w.extractLsb' 24 7 = 36#7) (hb : w.getLsbD 31 = false) :
    decodeA w = accept (true)
      (.shli (w.extractLsb' 18 6) (w.extractLsb' 12 6) (w.extractLsb' 0 12)) := by
  unfold decodeA; rw [if_neg (by rw [hb]; exact Bool.false_ne_true), h]; rfl

theorem shli (d a i) : Statement (.shli d a i) := by
  intro hw c h
  cases h
  have hb : (0#1 ++ 36#7 ++ d ++ a ++ i).getLsbD 31 = false := by
    simp (disch := decide) only [get_hi, get_lo]; rfl
  rw [decodeCode, at_shli (by simp (disch := decide) only [ext_hi, ext_lo, ext_self]) hb]
  simp (disch := decide) only [get_hi, get_lo, get_ofBool, ext_hi, ext_lo, ext_self]
  exact accept_ok rfl hw

theorem at_shri {w : BitVec 32} (h : w.extractLsb' 24 7 = 37#7) (hb : w.getLsbD 31 = false) :
    decodeA w = accept (true)
      (.shri (w.extractLsb' 18 6) (w.extractLsb' 12 6) (w.extractLsb' 0 12)) := by
  unfold decodeA; rw [if_neg (by rw [hb]; exact Bool.false_ne_true), h]; rfl

theorem shri (d a i) : Statement (.shri d a i) := by
  intro hw c h
  cases h
  have hb : (0#1 ++ 37#7 ++ d ++ a ++ i).getLsbD 31 = false := by
    simp (disch := decide) only [get_hi, get_lo]; rfl
  rw [decodeCode, at_shri (by simp (disch := decide) only [ext_hi, ext_lo, ext_self]) hb]
  simp (disch := decide) only [get_hi, get_lo, get_ofBool, ext_hi, ext_lo, ext_self]
  exact accept_ok rfl hw

theorem at_srai {w : BitVec 32} (h : w.extractLsb' 24 7 = 38#7) (hb : w.getLsbD 31 = false) :
    decodeA w = accept (true)
      (.srai (w.extractLsb' 18 6) (w.extractLsb' 12 6) (w.extractLsb' 0 12)) := by
  unfold decodeA; rw [if_neg (by rw [hb]; exact Bool.false_ne_true), h]; rfl

theorem srai (d a i) : Statement (.srai d a i) := by
  intro hw c h
  cases h
  have hb : (0#1 ++ 38#7 ++ d ++ a ++ i).getLsbD 31 = false := by
    simp (disch := decide) only [get_hi, get_lo]; rfl
  rw [decodeCode, at_srai (by simp (disch := decide) only [ext_hi, ext_lo, ext_self]) hb]
  simp (disch := decide) only [get_hi, get_lo, get_ofBool, ext_hi, ext_lo, ext_self]
  exact accept_ok rfl hw

theorem at_muli {w : BitVec 32} (h : w.extractLsb' 24 7 = 39#7) (hb : w.getLsbD 31 = false) :
    decodeA w = accept (true)
      (.muli (w.extractLsb' 18 6) (w.extractLsb' 12 6) (w.extractLsb' 0 12)) := by
  unfold decodeA; rw [if_neg (by rw [hb]; exact Bool.false_ne_true), h]; rfl

theorem muli (d a i) : Statement (.muli d a i) := by
  intro hw c h
  cases h
  have hb : (0#1 ++ 39#7 ++ d ++ a ++ i).getLsbD 31 = false := by
    simp (disch := decide) only [get_hi, get_lo]; rfl
  rw [decodeCode, at_muli (by simp (disch := decide) only [ext_hi, ext_lo, ext_self]) hb]
  simp (disch := decide) only [get_hi, get_lo, get_ofBool, ext_hi, ext_lo, ext_self]
  exact accept_ok rfl hw

theorem at_cmp {w : BitVec 32} (h : w.extractLsb' 24 7 = 48#7) (hb : w.getLsbD 31 = false) :
    decodeA w = accept (true)
      (.cmp (w.extractLsb' 18 6) (w.extractLsb' 12 6) (w.extractLsb' 6 6) (w.extractLsb' 4 2) (w.extractLsb' 0 4)) := by
  unfold decodeA; rw [if_neg (by rw [hb]; exact Bool.false_ne_true), h]; rfl

theorem cmp (d a b k c) : Statement (.cmp d a b k c) := by
  intro hw c h
  cases h
  have hb : (0#1 ++ 48#7 ++ d ++ a ++ b ++ k ++ c).getLsbD 31 = false := by
    simp (disch := decide) only [get_hi, get_lo]; rfl
  rw [decodeCode, at_cmp (by simp (disch := decide) only [ext_hi, ext_lo, ext_self]) hb]
  simp (disch := decide) only [get_hi, get_lo, get_ofBool, ext_hi, ext_lo, ext_self]
  exact accept_ok rfl hw

theorem at_cmpi {w : BitVec 32} (h : w.extractLsb' 24 7 = 49#7) (hb : w.getLsbD 31 = false) :
    decodeA w = accept (true)
      (.cmpi (w.extractLsb' 18 6) (w.extractLsb' 12 6) (w.extractLsb' 6 6) (w.extractLsb' 4 2) (w.extractLsb' 0 4)) := by
  unfold decodeA; rw [if_neg (by rw [hb]; exact Bool.false_ne_true), h]; rfl

theorem cmpi (d a i k c) : Statement (.cmpi d a i k c) := by
  intro hw c h
  cases h
  have hb : (0#1 ++ 49#7 ++ d ++ a ++ i ++ k ++ c).getLsbD 31 = false := by
    simp (disch := decide) only [get_hi, get_lo]; rfl
  rw [decodeCode, at_cmpi (by simp (disch := decide) only [ext_hi, ext_lo, ext_self]) hb]
  simp (disch := decide) only [get_hi, get_lo, get_ofBool, ext_hi, ext_lo, ext_self]
  exact accept_ok rfl hw

theorem at_fcmp {w : BitVec 32} (h : w.extractLsb' 24 7 = 50#7) (hb : w.getLsbD 31 = false) :
    decodeA w = accept (true)
      (.fcmp (w.extractLsb' 18 6) (w.extractLsb' 12 6) (w.extractLsb' 6 6) (w.extractLsb' 4 2) (w.extractLsb' 0 4)) := by
  unfold decodeA; rw [if_neg (by rw [hb]; exact Bool.false_ne_true), h]; rfl

theorem fcmp (d a b k c) : Statement (.fcmp d a b k c) := by
  intro hw c h
  cases h
  have hb : (0#1 ++ 50#7 ++ d ++ a ++ b ++ k ++ c).getLsbD 31 = false := by
    simp (disch := decide) only [get_hi, get_lo]; rfl
  rw [decodeCode, at_fcmp (by simp (disch := decide) only [ext_hi, ext_lo, ext_self]) hb]
  simp (disch := decide) only [get_hi, get_lo, get_ofBool, ext_hi, ext_lo, ext_self]
  exact accept_ok rfl hw

theorem at_fcmpd {w : BitVec 32} (h : w.extractLsb' 24 7 = 51#7) (hb : w.getLsbD 31 = false) :
    decodeA w = accept (true)
      (.fcmpd (w.extractLsb' 18 6) (w.extractLsb' 12 6) (w.extractLsb' 6 6) (w.extractLsb' 4 2) (w.extractLsb' 0 4)) := by
  unfold decodeA; rw [if_neg (by rw [hb]; exact Bool.false_ne_true), h]; rfl

theorem fcmpd (d a b k c) : Statement (.fcmpd d a b k c) := by
  intro hw c h
  cases h
  have hb : (0#1 ++ 51#7 ++ d ++ a ++ b ++ k ++ c).getLsbD 31 = false := by
    simp (disch := decide) only [get_hi, get_lo]; rfl
  rw [decodeCode, at_fcmpd (by simp (disch := decide) only [ext_hi, ext_lo, ext_self]) hb]
  simp (disch := decide) only [get_hi, get_lo, get_ofBool, ext_hi, ext_lo, ext_self]
  exact accept_ok rfl hw

theorem at_take {w : BitVec 32} (h : w.extractLsb' 24 7 = 56#7) (hb : w.getLsbD 31 = false) :
    decodeA w = accept (w.extractLsb' 0 12 == 0)
      (.take (w.extractLsb' 18 6) (w.extractLsb' 12 6)) := by
  unfold decodeA; rw [if_neg (by rw [hb]; exact Bool.false_ne_true), h]; rfl

theorem take (d a) : Statement (.take d a) := by
  intro hw c h
  cases h
  have hb : (0#1 ++ 56#7 ++ d ++ a ++ 0#12).getLsbD 31 = false := by
    simp (disch := decide) only [get_hi, get_lo]; rfl
  rw [decodeCode, at_take (by simp (disch := decide) only [ext_hi, ext_lo, ext_self]) hb]
  simp (disch := decide) only [get_hi, get_lo, get_ofBool, ext_hi, ext_lo, ext_self]
  exact accept_ok rfl hw

theorem at_mkempty {w : BitVec 32} (h : w.extractLsb' 24 7 = 57#7) (hb : w.getLsbD 31 = false) :
    decodeA w = accept (w.extractLsb' 0 18 == 0)
      (.mkempty (w.extractLsb' 18 6)) := by
  unfold decodeA; rw [if_neg (by rw [hb]; exact Bool.false_ne_true), h]; rfl

theorem mkempty (d) : Statement (.mkempty d) := by
  intro hw c h
  cases h
  have hb : (0#1 ++ 57#7 ++ d ++ 0#18).getLsbD 31 = false := by
    simp (disch := decide) only [get_hi, get_lo]; rfl
  rw [decodeCode, at_mkempty (by simp (disch := decide) only [ext_hi, ext_lo, ext_self]) hb]
  simp (disch := decide) only [get_hi, get_lo, get_ofBool, ext_hi, ext_lo, ext_self]
  exact accept_ok rfl hw

theorem at_mkfull {w : BitVec 32} (h : w.extractLsb' 24 7 = 58#7) (hb : w.getLsbD 31 = false) :
    decodeA w = accept (w.extractLsb' 0 18 == 0)
      (.mkfull (w.extractLsb' 18 6)) := by
  unfold decodeA; rw [if_neg (by rw [hb]; exact Bool.false_ne_true), h]; rfl

theorem mkfull (d) : Statement (.mkfull d) := by
  intro hw c h
  cases h
  have hb : (0#1 ++ 58#7 ++ d ++ 0#18).getLsbD 31 = false := by
    simp (disch := decide) only [get_hi, get_lo]; rfl
  rw [decodeCode, at_mkfull (by simp (disch := decide) only [ext_hi, ext_lo, ext_self]) hb]
  simp (disch := decide) only [get_hi, get_lo, get_ofBool, ext_hi, ext_lo, ext_self]
  exact accept_ok rfl hw

theorem at_isfull {w : BitVec 32} (h : w.extractLsb' 24 7 = 59#7) (hb : w.getLsbD 31 = false) :
    decodeA w = accept (w.extractLsb' 0 12 == 0)
      (.isfull (w.extractLsb' 18 6) (w.extractLsb' 12 6)) := by
  unfold decodeA; rw [if_neg (by rw [hb]; exact Bool.false_ne_true), h]; rfl

theorem isfull (d a) : Statement (.isfull d a) := by
  intro hw c h
  cases h
  have hb : (0#1 ++ 59#7 ++ d ++ a ++ 0#12).getLsbD 31 = false := by
    simp (disch := decide) only [get_hi, get_lo]; rfl
  rw [decodeCode, at_isfull (by simp (disch := decide) only [ext_hi, ext_lo, ext_self]) hb]
  simp (disch := decide) only [get_hi, get_lo, get_ofBool, ext_hi, ext_lo, ext_self]
  exact accept_ok rfl hw

theorem at_fadd {w : BitVec 32} (h : w.extractLsb' 24 7 = 64#7) (hb : w.getLsbD 31 = false) :
    decodeA w = accept (w.extractLsb' 0 1 == 0)
      (.fadd (w.extractLsb' 18 6) (w.extractLsb' 12 6) (w.extractLsb' 6 6) (w.extractLsb' 3 3) (w.extractLsb' 1 2)) := by
  unfold decodeA; rw [if_neg (by rw [hb]; exact Bool.false_ne_true), h]; rfl

theorem fadd (d a b r f) : Statement (.fadd d a b r f) := by
  intro hw c h
  cases h
  have hb : (0#1 ++ 64#7 ++ d ++ a ++ b ++ r ++ f ++ 0#1).getLsbD 31 = false := by
    simp (disch := decide) only [get_hi, get_lo]; rfl
  rw [decodeCode, at_fadd (by simp (disch := decide) only [ext_hi, ext_lo, ext_self]) hb]
  simp (disch := decide) only [get_hi, get_lo, get_ofBool, ext_hi, ext_lo, ext_self]
  exact accept_ok rfl hw

theorem at_fsub {w : BitVec 32} (h : w.extractLsb' 24 7 = 65#7) (hb : w.getLsbD 31 = false) :
    decodeA w = accept (w.extractLsb' 0 1 == 0)
      (.fsub (w.extractLsb' 18 6) (w.extractLsb' 12 6) (w.extractLsb' 6 6) (w.extractLsb' 3 3) (w.extractLsb' 1 2)) := by
  unfold decodeA; rw [if_neg (by rw [hb]; exact Bool.false_ne_true), h]; rfl

theorem fsub (d a b r f) : Statement (.fsub d a b r f) := by
  intro hw c h
  cases h
  have hb : (0#1 ++ 65#7 ++ d ++ a ++ b ++ r ++ f ++ 0#1).getLsbD 31 = false := by
    simp (disch := decide) only [get_hi, get_lo]; rfl
  rw [decodeCode, at_fsub (by simp (disch := decide) only [ext_hi, ext_lo, ext_self]) hb]
  simp (disch := decide) only [get_hi, get_lo, get_ofBool, ext_hi, ext_lo, ext_self]
  exact accept_ok rfl hw

theorem at_fmul {w : BitVec 32} (h : w.extractLsb' 24 7 = 66#7) (hb : w.getLsbD 31 = false) :
    decodeA w = accept (w.extractLsb' 0 1 == 0)
      (.fmul (w.extractLsb' 18 6) (w.extractLsb' 12 6) (w.extractLsb' 6 6) (w.extractLsb' 3 3) (w.extractLsb' 1 2)) := by
  unfold decodeA; rw [if_neg (by rw [hb]; exact Bool.false_ne_true), h]; rfl

theorem fmul (d a b r f) : Statement (.fmul d a b r f) := by
  intro hw c h
  cases h
  have hb : (0#1 ++ 66#7 ++ d ++ a ++ b ++ r ++ f ++ 0#1).getLsbD 31 = false := by
    simp (disch := decide) only [get_hi, get_lo]; rfl
  rw [decodeCode, at_fmul (by simp (disch := decide) only [ext_hi, ext_lo, ext_self]) hb]
  simp (disch := decide) only [get_hi, get_lo, get_ofBool, ext_hi, ext_lo, ext_self]
  exact accept_ok rfl hw

theorem at_fdiv {w : BitVec 32} (h : w.extractLsb' 24 7 = 67#7) (hb : w.getLsbD 31 = false) :
    decodeA w = accept (w.extractLsb' 0 1 == 0)
      (.fdiv (w.extractLsb' 18 6) (w.extractLsb' 12 6) (w.extractLsb' 6 6) (w.extractLsb' 3 3) (w.extractLsb' 1 2)) := by
  unfold decodeA; rw [if_neg (by rw [hb]; exact Bool.false_ne_true), h]; rfl

theorem fdiv (d a b r f) : Statement (.fdiv d a b r f) := by
  intro hw c h
  cases h
  have hb : (0#1 ++ 67#7 ++ d ++ a ++ b ++ r ++ f ++ 0#1).getLsbD 31 = false := by
    simp (disch := decide) only [get_hi, get_lo]; rfl
  rw [decodeCode, at_fdiv (by simp (disch := decide) only [ext_hi, ext_lo, ext_self]) hb]
  simp (disch := decide) only [get_hi, get_lo, get_ofBool, ext_hi, ext_lo, ext_self]
  exact accept_ok rfl hw

theorem at_fsqrt {w : BitVec 32} (h : w.extractLsb' 24 7 = 68#7) (hb : w.getLsbD 31 = false) :
    decodeA w = accept (w.extractLsb' 6 6 == 0 && w.extractLsb' 0 1 == 0)
      (.fsqrt (w.extractLsb' 18 6) (w.extractLsb' 12 6) (w.extractLsb' 3 3) (w.extractLsb' 1 2)) := by
  unfold decodeA; rw [if_neg (by rw [hb]; exact Bool.false_ne_true), h]; rfl

theorem fsqrt (d a r f) : Statement (.fsqrt d a r f) := by
  intro hw c h
  cases h
  have hb : (0#1 ++ 68#7 ++ d ++ a ++ 0#6 ++ r ++ f ++ 0#1).getLsbD 31 = false := by
    simp (disch := decide) only [get_hi, get_lo]; rfl
  rw [decodeCode, at_fsqrt (by simp (disch := decide) only [ext_hi, ext_lo, ext_self]) hb]
  simp (disch := decide) only [get_hi, get_lo, get_ofBool, ext_hi, ext_lo, ext_self]
  exact accept_ok rfl hw

theorem at_fma {w : BitVec 32} (h : w.extractLsb' 24 7 = 69#7) (hb : w.getLsbD 31 = false) :
    decodeA w = accept (w.extractLsb' 0 1 == 0)
      (.fma (w.extractLsb' 18 6) (w.extractLsb' 12 6) (w.extractLsb' 6 6) (w.extractLsb' 3 3) (w.extractLsb' 1 2)) := by
  unfold decodeA; rw [if_neg (by rw [hb]; exact Bool.false_ne_true), h]; rfl

theorem fma (d a b r f) : Statement (.fma d a b r f) := by
  intro hw c h
  cases h
  have hb : (0#1 ++ 69#7 ++ d ++ a ++ b ++ r ++ f ++ 0#1).getLsbD 31 = false := by
    simp (disch := decide) only [get_hi, get_lo]; rfl
  rw [decodeCode, at_fma (by simp (disch := decide) only [ext_hi, ext_lo, ext_self]) hb]
  simp (disch := decide) only [get_hi, get_lo, get_ofBool, ext_hi, ext_lo, ext_self]
  exact accept_ok rfl hw

theorem at_fmin {w : BitVec 32} (h : w.extractLsb' 24 7 = 70#7) (hb : w.getLsbD 31 = false) :
    decodeA w = accept (w.extractLsb' 3 3 == 0 && w.extractLsb' 0 1 == 0)
      (.fmin (w.extractLsb' 18 6) (w.extractLsb' 12 6) (w.extractLsb' 6 6) (w.extractLsb' 1 2)) := by
  unfold decodeA; rw [if_neg (by rw [hb]; exact Bool.false_ne_true), h]; rfl

theorem fmin (d a b f) : Statement (.fmin d a b f) := by
  intro hw c h
  cases h
  have hb : (0#1 ++ 70#7 ++ d ++ a ++ b ++ 0#3 ++ f ++ 0#1).getLsbD 31 = false := by
    simp (disch := decide) only [get_hi, get_lo]; rfl
  rw [decodeCode, at_fmin (by simp (disch := decide) only [ext_hi, ext_lo, ext_self]) hb]
  simp (disch := decide) only [get_hi, get_lo, get_ofBool, ext_hi, ext_lo, ext_self]
  exact accept_ok rfl hw

theorem at_fmax {w : BitVec 32} (h : w.extractLsb' 24 7 = 71#7) (hb : w.getLsbD 31 = false) :
    decodeA w = accept (w.extractLsb' 3 3 == 0 && w.extractLsb' 0 1 == 0)
      (.fmax (w.extractLsb' 18 6) (w.extractLsb' 12 6) (w.extractLsb' 6 6) (w.extractLsb' 1 2)) := by
  unfold decodeA; rw [if_neg (by rw [hb]; exact Bool.false_ne_true), h]; rfl

theorem fmax (d a b f) : Statement (.fmax d a b f) := by
  intro hw c h
  cases h
  have hb : (0#1 ++ 71#7 ++ d ++ a ++ b ++ 0#3 ++ f ++ 0#1).getLsbD 31 = false := by
    simp (disch := decide) only [get_hi, get_lo]; rfl
  rw [decodeCode, at_fmax (by simp (disch := decide) only [ext_hi, ext_lo, ext_self]) hb]
  simp (disch := decide) only [get_hi, get_lo, get_ofBool, ext_hi, ext_lo, ext_self]
  exact accept_ok rfl hw

theorem at_fabs {w : BitVec 32} (h : w.extractLsb' 24 7 = 72#7) (hb : w.getLsbD 31 = false) :
    decodeA w = accept (w.extractLsb' 3 9 == 0 && w.extractLsb' 0 1 == 0)
      (.fabs (w.extractLsb' 18 6) (w.extractLsb' 12 6) (w.extractLsb' 1 2)) := by
  unfold decodeA; rw [if_neg (by rw [hb]; exact Bool.false_ne_true), h]; rfl

theorem fabs (d a f) : Statement (.fabs d a f) := by
  intro hw c h
  cases h
  have hb : (0#1 ++ 72#7 ++ d ++ a ++ 0#9 ++ f ++ 0#1).getLsbD 31 = false := by
    simp (disch := decide) only [get_hi, get_lo]; rfl
  rw [decodeCode, at_fabs (by simp (disch := decide) only [ext_hi, ext_lo, ext_self]) hb]
  simp (disch := decide) only [get_hi, get_lo, get_ofBool, ext_hi, ext_lo, ext_self]
  exact accept_ok rfl hw

theorem at_fneg {w : BitVec 32} (h : w.extractLsb' 24 7 = 73#7) (hb : w.getLsbD 31 = false) :
    decodeA w = accept (w.extractLsb' 3 9 == 0 && w.extractLsb' 0 1 == 0)
      (.fneg (w.extractLsb' 18 6) (w.extractLsb' 12 6) (w.extractLsb' 1 2)) := by
  unfold decodeA; rw [if_neg (by rw [hb]; exact Bool.false_ne_true), h]; rfl

theorem fneg (d a f) : Statement (.fneg d a f) := by
  intro hw c h
  cases h
  have hb : (0#1 ++ 73#7 ++ d ++ a ++ 0#9 ++ f ++ 0#1).getLsbD 31 = false := by
    simp (disch := decide) only [get_hi, get_lo]; rfl
  rw [decodeCode, at_fneg (by simp (disch := decide) only [ext_hi, ext_lo, ext_self]) hb]
  simp (disch := decide) only [get_hi, get_lo, get_ofBool, ext_hi, ext_lo, ext_self]
  exact accept_ok rfl hw

theorem at_fcvt {w : BitVec 32} (h : w.extractLsb' 24 7 = 74#7) (hb : w.getLsbD 31 = false) :
    decodeA w = accept (w.extractLsb' 8 4 == 0 && w.extractLsb' 0 1 == 0)
      (.fcvt (w.extractLsb' 18 6) (w.extractLsb' 12 6) (w.extractLsb' 6 2) (w.extractLsb' 3 3) (w.extractLsb' 1 2)) := by
  unfold decodeA; rw [if_neg (by rw [hb]; exact Bool.false_ne_true), h]; rfl

theorem fcvt (d a g r f) : Statement (.fcvt d a g r f) := by
  intro hw c h
  cases h
  have hb : (0#1 ++ 74#7 ++ d ++ a ++ 0#4 ++ g ++ r ++ f ++ 0#1).getLsbD 31 = false := by
    simp (disch := decide) only [get_hi, get_lo]; rfl
  rw [decodeCode, at_fcvt (by simp (disch := decide) only [ext_hi, ext_lo, ext_self]) hb]
  simp (disch := decide) only [get_hi, get_lo, get_ofBool, ext_hi, ext_lo, ext_self]
  exact accept_ok rfl hw

theorem at_fcvti {w : BitVec 32} (h : w.extractLsb' 24 7 = 75#7) (hb : w.getLsbD 31 = false) :
    decodeA w = accept (w.extractLsb' 0 1 == 0)
      (.fcvti (w.extractLsb' 18 6) (w.extractLsb' 12 6) (w.extractLsb' 6 6) (w.extractLsb' 3 3) (w.extractLsb' 1 2)) := by
  unfold decodeA; rw [if_neg (by rw [hb]; exact Bool.false_ne_true), h]; rfl

theorem fcvti (d a t r f) : Statement (.fcvti d a t r f) := by
  intro hw c h
  cases h
  have hb : (0#1 ++ 75#7 ++ d ++ a ++ t ++ r ++ f ++ 0#1).getLsbD 31 = false := by
    simp (disch := decide) only [get_hi, get_lo]; rfl
  rw [decodeCode, at_fcvti (by simp (disch := decide) only [ext_hi, ext_lo, ext_self]) hb]
  simp (disch := decide) only [get_hi, get_lo, get_ofBool, ext_hi, ext_lo, ext_self]
  exact accept_ok rfl hw

theorem at_icvtf {w : BitVec 32} (h : w.extractLsb' 24 7 = 76#7) (hb : w.getLsbD 31 = false) :
    decodeA w = accept (w.extractLsb' 0 1 == 0)
      (.icvtf (w.extractLsb' 18 6) (w.extractLsb' 12 6) (w.extractLsb' 6 6) (w.extractLsb' 3 3) (w.extractLsb' 1 2)) := by
  unfold decodeA; rw [if_neg (by rw [hb]; exact Bool.false_ne_true), h]; rfl

theorem icvtf (d a t r f) : Statement (.icvtf d a t r f) := by
  intro hw c h
  cases h
  have hb : (0#1 ++ 76#7 ++ d ++ a ++ t ++ r ++ f ++ 0#1).getLsbD 31 = false := by
    simp (disch := decide) only [get_hi, get_lo]; rfl
  rw [decodeCode, at_icvtf (by simp (disch := decide) only [ext_hi, ext_lo, ext_self]) hb]
  simp (disch := decide) only [get_hi, get_lo, get_ofBool, ext_hi, ext_lo, ext_self]
  exact accept_ok rfl hw

theorem at_fclass {w : BitVec 32} (h : w.extractLsb' 24 7 = 77#7) (hb : w.getLsbD 31 = false) :
    decodeA w = accept (w.extractLsb' 3 9 == 0 && w.extractLsb' 0 1 == 0)
      (.fclass (w.extractLsb' 18 6) (w.extractLsb' 12 6) (w.extractLsb' 1 2)) := by
  unfold decodeA; rw [if_neg (by rw [hb]; exact Bool.false_ne_true), h]; rfl

theorem fclass (d a f) : Statement (.fclass d a f) := by
  intro hw c h
  cases h
  have hb : (0#1 ++ 77#7 ++ d ++ a ++ 0#9 ++ f ++ 0#1).getLsbD 31 = false := by
    simp (disch := decide) only [get_hi, get_lo]; rfl
  rw [decodeCode, at_fclass (by simp (disch := decide) only [ext_hi, ext_lo, ext_self]) hb]
  simp (disch := decide) only [get_hi, get_lo, get_ofBool, ext_hi, ext_lo, ext_self]
  exact accept_ok rfl hw

theorem at_fexp2 {w : BitVec 32} (h : w.extractLsb' 24 7 = 78#7) (hb : w.getLsbD 31 = false) :
    decodeA w = accept (w.extractLsb' 6 6 == 0 && w.extractLsb' 0 1 == 0)
      (.fexp2 (w.extractLsb' 18 6) (w.extractLsb' 12 6) (w.extractLsb' 3 3) (w.extractLsb' 1 2)) := by
  unfold decodeA; rw [if_neg (by rw [hb]; exact Bool.false_ne_true), h]; rfl

theorem fexp2 (d a r f) : Statement (.fexp2 d a r f) := by
  intro hw c h
  cases h
  have hb : (0#1 ++ 78#7 ++ d ++ a ++ 0#6 ++ r ++ f ++ 0#1).getLsbD 31 = false := by
    simp (disch := decide) only [get_hi, get_lo]; rfl
  rw [decodeCode, at_fexp2 (by simp (disch := decide) only [ext_hi, ext_lo, ext_self]) hb]
  simp (disch := decide) only [get_hi, get_lo, get_ofBool, ext_hi, ext_lo, ext_self]
  exact accept_ok rfl hw

theorem at_nopa {w : BitVec 32} (h : w.extractLsb' 24 7 = 127#7) (hb : w.getLsbD 31 = false) :
    decodeA w = accept (w.extractLsb' 0 24 == 0)
      (.nopa) := by
  unfold decodeA; rw [if_neg (by rw [hb]; exact Bool.false_ne_true), h]; rfl

theorem nopa : Statement (.nopa) := by
  intro hw c h
  cases h
  have hb : (0#1 ++ 127#7 ++ 0#24).getLsbD 31 = false := by
    simp (disch := decide) only [get_hi, get_lo]; rfl
  rw [decodeCode, at_nopa (by simp (disch := decide) only [ext_hi, ext_lo, ext_self]) hb]
  exact accept_ok rfl hw

theorem at_ldi {w : BitVec 64} (h : w.extractLsb' 24 7 = 0#7) :
    decodeLone w = accept (w.extractLsb' 20 4 == 0 && w.extractLsb' 0 14 == 0)
      (.ldi (w.extractLsb' 14 6) (w.extractLsb' 32 32)) := by
  unfold decodeLone; rw [h]; rfl

theorem ldi (x i) : Statement (.ldi x i) := by
  intro hw c h
  cases h
  have hb : (i ++ 1#1 ++ 0#7 ++ 0#4 ++ x ++ 0#14).getLsbD 31 = true := by
    simp (disch := decide) only [get_hi, get_lo]; rfl
  rw [decodeCode, if_pos hb, at_ldi (by simp (disch := decide) only [ext_hi, ext_lo, ext_self])]
  simp (disch := decide) only [get_hi, get_lo, get_ofBool, ext_hi, ext_lo, ext_self]
  exact accept_ok rfl hw

theorem at_ldih {w : BitVec 64} (h : w.extractLsb' 24 7 = 1#7) :
    decodeLone w = accept (w.extractLsb' 20 4 == 0 && w.extractLsb' 0 14 == 0)
      (.ldih (w.extractLsb' 14 6) (w.extractLsb' 32 32)) := by
  unfold decodeLone; rw [h]; rfl

theorem ldih (x i) : Statement (.ldih x i) := by
  intro hw c h
  cases h
  have hb : (i ++ 1#1 ++ 1#7 ++ 0#4 ++ x ++ 0#14).getLsbD 31 = true := by
    simp (disch := decide) only [get_hi, get_lo]; rfl
  rw [decodeCode, if_pos hb, at_ldih (by simp (disch := decide) only [ext_hi, ext_lo, ext_self])]
  simp (disch := decide) only [get_hi, get_lo, get_ofBool, ext_hi, ext_lo, ext_self]
  exact accept_ok rfl hw

theorem at_trap {w : BitVec 64} (h : w.extractLsb' 24 7 = 2#7) :
    decodeLone w = accept (w.extractLsb' 58 6 == 0 && w.extractLsb' 20 4 == 0 && w.extractLsb' 14 6 == 0 && w.extractLsb' 8 6 == 0 && w.extractLsb' 2 6 == 0 && w.extractLsb' 0 2 == 0)
      (.trap (w.extractLsb' 32 26)) := by
  unfold decodeLone; rw [h]; rfl

theorem trap (e) : Statement (.trap e) := by
  intro hw c h
  cases h
  have hb : (0#6 ++ e ++ 1#1 ++ 2#7 ++ 0#4 ++ 0#6 ++ 0#6 ++ 0#6 ++ 0#2).getLsbD 31 = true := by
    simp (disch := decide) only [get_hi, get_lo]; rfl
  rw [decodeCode, if_pos hb, at_trap (by simp (disch := decide) only [ext_hi, ext_lo, ext_self])]
  simp (disch := decide) only [get_hi, get_lo, get_ofBool, ext_hi, ext_lo, ext_self]
  exact accept_ok rfl hw

theorem at_tret {w : BitVec 64} (h : w.extractLsb' 24 7 = 3#7) :
    decodeLone w = accept (w.extractLsb' 58 6 == 0 && w.extractLsb' 32 26 == 0 && w.extractLsb' 20 4 == 0 && w.extractLsb' 2 6 == 0 && w.extractLsb' 0 2 == 0)
      (.tret (w.extractLsb' 14 6) (w.extractLsb' 8 6)) := by
  unfold decodeLone; rw [h]; rfl

theorem tret (x y) : Statement (.tret x y) := by
  intro hw c h
  cases h
  have hb : (0#6 ++ 0#26 ++ 1#1 ++ 3#7 ++ 0#4 ++ x ++ y ++ 0#6 ++ 0#2).getLsbD 31 = true := by
    simp (disch := decide) only [get_hi, get_lo]; rfl
  rw [decodeCode, if_pos hb, at_tret (by simp (disch := decide) only [ext_hi, ext_lo, ext_self])]
  simp (disch := decide) only [get_hi, get_lo, get_ofBool, ext_hi, ext_lo, ext_self]
  exact accept_ok rfl hw

theorem at_rdpr {w : BitVec 64} (h : w.extractLsb' 24 7 = 4#7) :
    decodeLone w = accept (w.extractLsb' 58 6 == 0 && w.extractLsb' 2 6 == 0 && w.extractLsb' 0 2 == 0)
      (.rdpr (w.extractLsb' 20 4) (w.extractLsb' 14 6) (w.extractLsb' 8 6) (w.extractLsb' 32 26)) := by
  unfold decodeLone; rw [h]; rfl

theorem rdpr (la x y e) : Statement (.rdpr la x y e) := by
  intro hw c h
  cases h
  have hb : (0#6 ++ e ++ 1#1 ++ 4#7 ++ la ++ x ++ y ++ 0#6 ++ 0#2).getLsbD 31 = true := by
    simp (disch := decide) only [get_hi, get_lo]; rfl
  rw [decodeCode, if_pos hb, at_rdpr (by simp (disch := decide) only [ext_hi, ext_lo, ext_self])]
  simp (disch := decide) only [get_hi, get_lo, get_ofBool, ext_hi, ext_lo, ext_self]
  exact accept_ok rfl hw

theorem at_wrpr {w : BitVec 64} (h : w.extractLsb' 24 7 = 5#7) :
    decodeLone w = accept (w.extractLsb' 58 6 == 0 && w.extractLsb' 20 4 == 0 && w.extractLsb' 14 6 == 0 && w.extractLsb' 0 2 == 0)
      (.wrpr (w.extractLsb' 8 6) (w.extractLsb' 2 6) (w.extractLsb' 32 26)) := by
  unfold decodeLone; rw [h]; rfl

theorem wrpr (y z e) : Statement (.wrpr y z e) := by
  intro hw c h
  cases h
  have hb : (0#6 ++ e ++ 1#1 ++ 5#7 ++ 0#4 ++ 0#6 ++ y ++ z ++ 0#2).getLsbD 31 = true := by
    simp (disch := decide) only [get_hi, get_lo]; rfl
  rw [decodeCode, if_pos hb, at_wrpr (by simp (disch := decide) only [ext_hi, ext_lo, ext_self])]
  simp (disch := decide) only [get_hi, get_lo, get_ofBool, ext_hi, ext_lo, ext_self]
  exact accept_ok rfl hw

theorem at_cbank {w : BitVec 64} (h : w.extractLsb' 24 7 = 6#7) :
    decodeLone w = accept (w.extractLsb' 58 6 == 0 && w.extractLsb' 33 25 == 0 && w.extractLsb' 20 4 == 0 && w.extractLsb' 2 6 == 0 && w.extractLsb' 0 2 == 0)
      (.cbank (w.extractLsb' 14 6) (w.extractLsb' 8 6) (w.getLsbD 32)) := by
  unfold decodeLone; rw [h]; rfl

theorem cbank (x y we) : Statement (.cbank x y we) := by
  intro hw c h
  cases h
  have hb : (0#6 ++ 0#25 ++ (ofBool we) ++ 1#1 ++ 6#7 ++ 0#4 ++ x ++ y ++ 0#6 ++ 0#2).getLsbD 31 = true := by
    simp (disch := decide) only [get_hi, get_lo]; rfl
  rw [decodeCode, if_pos hb, at_cbank (by simp (disch := decide) only [ext_hi, ext_lo, ext_self])]
  simp (disch := decide) only [get_hi, get_lo, get_ofBool, ext_hi, ext_lo, ext_self]
  exact accept_ok rfl hw

theorem at_rdtb {w : BitVec 64} (h : w.extractLsb' 24 7 = 7#7) :
    decodeLone w = accept (w.extractLsb' 58 6 == 0 && w.extractLsb' 34 24 == 0 && w.extractLsb' 20 4 == 0 && w.extractLsb' 8 6 == 0 && w.extractLsb' 2 6 == 0 && w.extractLsb' 0 2 == 0)
      (.rdtb (w.extractLsb' 14 6) (w.extractLsb' 32 2)) := by
  unfold decodeLone; rw [h]; rfl

theorem rdtb (x sel) : Statement (.rdtb x sel) := by
  intro hw c h
  cases h
  have hb : (0#6 ++ 0#24 ++ sel ++ 1#1 ++ 7#7 ++ 0#4 ++ x ++ 0#6 ++ 0#6 ++ 0#2).getLsbD 31 = true := by
    simp (disch := decide) only [get_hi, get_lo]; rfl
  rw [decodeCode, if_pos hb, at_rdtb (by simp (disch := decide) only [ext_hi, ext_lo, ext_self])]
  simp (disch := decide) only [get_hi, get_lo, get_ofBool, ext_hi, ext_lo, ext_self]
  exact accept_ok rfl hw

theorem at_ldLone {w : BitVec 64} (h : w.extractLsb' 24 7 = 16#7) :
    decodeLone w = accept (w.extractLsb' 58 6 == 0 && w.extractLsb' 54 1 == 0 && w.extractLsb' 2 6 == 0 && w.extractLsb' 0 2 == 0)
      (.ldLone (w.extractLsb' 20 4) (w.extractLsb' 14 6) (w.extractLsb' 8 6) (w.extractLsb' 56 2) (w.getLsbD 55) (w.extractLsb' 52 2) (w.getLsbD 51) (w.extractLsb' 32 19)) := by
  unfold decodeLone; rw [h]; rfl

theorem ldLone (la x y sz acq sc sgn off) : Statement (.ldLone la x y sz acq sc sgn off) := by
  intro hw c h
  cases h
  have hb : (0#6 ++ sz ++ (ofBool acq) ++ 0#1 ++ sc ++ (ofBool sgn) ++ off ++ 1#1 ++ 16#7 ++ la ++ x ++ y ++ 0#6 ++ 0#2).getLsbD 31 = true := by
    simp (disch := decide) only [get_hi, get_lo]; rfl
  rw [decodeCode, if_pos hb, at_ldLone (by simp (disch := decide) only [ext_hi, ext_lo, ext_self])]
  simp (disch := decide) only [get_hi, get_lo, get_ofBool, ext_hi, ext_lo, ext_self]
  exact accept_ok rfl hw

theorem at_stLone {w : BitVec 64} (h : w.extractLsb' 24 7 = 17#7) :
    decodeLone w = accept (w.extractLsb' 58 6 == 0 && w.extractLsb' 55 1 == 0 && w.extractLsb' 51 1 == 0 && w.extractLsb' 20 4 == 0 && w.extractLsb' 2 6 == 0 && w.extractLsb' 0 2 == 0)
      (.stLone (w.extractLsb' 14 6) (w.extractLsb' 8 6) (w.extractLsb' 56 2) (w.getLsbD 54) (w.extractLsb' 52 2) (w.extractLsb' 32 19)) := by
  unfold decodeLone; rw [h]; rfl

theorem stLone (x y sz rel sc off) : Statement (.stLone x y sz rel sc off) := by
  intro hw c h
  cases h
  have hb : (0#6 ++ sz ++ 0#1 ++ (ofBool rel) ++ sc ++ 0#1 ++ off ++ 1#1 ++ 17#7 ++ 0#4 ++ x ++ y ++ 0#6 ++ 0#2).getLsbD 31 = true := by
    simp (disch := decide) only [get_hi, get_lo]; rfl
  rw [decodeCode, if_pos hb, at_stLone (by simp (disch := decide) only [ext_hi, ext_lo, ext_self])]
  simp (disch := decide) only [get_hi, get_lo, get_ofBool, ext_hi, ext_lo, ext_self]
  exact accept_ok rfl hw

theorem at_ldsy {w : BitVec 64} (h : w.extractLsb' 24 7 = 18#7) :
    decodeLone w = accept (w.extractLsb' 58 6 == 0 && w.extractLsb' 56 2 == 3 && w.extractLsb' 55 1 == 1 && w.extractLsb' 54 1 == 0 && w.extractLsb' 51 1 == 0 && w.extractLsb' 2 6 == 0 && w.extractLsb' 0 2 == 0)
      (.ldsy (w.extractLsb' 20 4) (w.extractLsb' 14 6) (w.extractLsb' 8 6) (w.extractLsb' 52 2) (w.extractLsb' 32 19)) := by
  unfold decodeLone; rw [h]; rfl

theorem ldsy (la x y sc off) : Statement (.ldsy la x y sc off) := by
  intro hw c h
  cases h
  have hb : (0#6 ++ 3#2 ++ 1#1 ++ 0#1 ++ sc ++ 0#1 ++ off ++ 1#1 ++ 18#7 ++ la ++ x ++ y ++ 0#6 ++ 0#2).getLsbD 31 = true := by
    simp (disch := decide) only [get_hi, get_lo]; rfl
  rw [decodeCode, if_pos hb, at_ldsy (by simp (disch := decide) only [ext_hi, ext_lo, ext_self])]
  simp (disch := decide) only [get_hi, get_lo, get_ofBool, ext_hi, ext_lo, ext_self]
  exact accept_ok rfl hw

theorem at_stsy {w : BitVec 64} (h : w.extractLsb' 24 7 = 19#7) :
    decodeLone w = accept (w.extractLsb' 58 6 == 0 && w.extractLsb' 56 2 == 3 && w.extractLsb' 55 1 == 0 && w.extractLsb' 54 1 == 1 && w.extractLsb' 51 1 == 0 && w.extractLsb' 20 4 == 0 && w.extractLsb' 2 6 == 0 && w.extractLsb' 0 2 == 0)
      (.stsy (w.extractLsb' 14 6) (w.extractLsb' 8 6) (w.extractLsb' 52 2) (w.extractLsb' 32 19)) := by
  unfold decodeLone; rw [h]; rfl

theorem stsy (x y sc off) : Statement (.stsy x y sc off) := by
  intro hw c h
  cases h
  have hb : (0#6 ++ 3#2 ++ 0#1 ++ 1#1 ++ sc ++ 0#1 ++ off ++ 1#1 ++ 19#7 ++ 0#4 ++ x ++ y ++ 0#6 ++ 0#2).getLsbD 31 = true := by
    simp (disch := decide) only [get_hi, get_lo]; rfl
  rw [decodeCode, if_pos hb, at_stsy (by simp (disch := decide) only [ext_hi, ext_lo, ext_self])]
  simp (disch := decide) only [get_hi, get_lo, get_ofBool, ext_hi, ext_lo, ext_self]
  exact accept_ok rfl hw

theorem at_aadd {w : BitVec 64} (h : w.extractLsb' 24 7 = 20#7) :
    decodeLone w = accept (w.extractLsb' 58 6 == 0 && w.extractLsb' 51 1 == 0 && w.extractLsb' 0 2 == 0)
      (.aadd (w.extractLsb' 20 4) (w.extractLsb' 14 6) (w.extractLsb' 8 6) (w.extractLsb' 2 6) (w.extractLsb' 56 2) (w.getLsbD 55) (w.getLsbD 54) (w.extractLsb' 52 2) (w.extractLsb' 32 19)) := by
  unfold decodeLone; rw [h]; rfl

theorem aadd (la x y z sz acq rel sc off) : Statement (.aadd la x y z sz acq rel sc off) := by
  intro hw c h
  cases h
  have hb : (0#6 ++ sz ++ (ofBool acq) ++ (ofBool rel) ++ sc ++ 0#1 ++ off ++ 1#1 ++ 20#7 ++ la ++ x ++ y ++ z ++ 0#2).getLsbD 31 = true := by
    simp (disch := decide) only [get_hi, get_lo]; rfl
  rw [decodeCode, if_pos hb, at_aadd (by simp (disch := decide) only [ext_hi, ext_lo, ext_self])]
  simp (disch := decide) only [get_hi, get_lo, get_ofBool, ext_hi, ext_lo, ext_self]
  exact accept_ok rfl hw

theorem at_aand {w : BitVec 64} (h : w.extractLsb' 24 7 = 21#7) :
    decodeLone w = accept (w.extractLsb' 58 6 == 0 && w.extractLsb' 51 1 == 0 && w.extractLsb' 0 2 == 0)
      (.aand (w.extractLsb' 20 4) (w.extractLsb' 14 6) (w.extractLsb' 8 6) (w.extractLsb' 2 6) (w.extractLsb' 56 2) (w.getLsbD 55) (w.getLsbD 54) (w.extractLsb' 52 2) (w.extractLsb' 32 19)) := by
  unfold decodeLone; rw [h]; rfl

theorem aand (la x y z sz acq rel sc off) : Statement (.aand la x y z sz acq rel sc off) := by
  intro hw c h
  cases h
  have hb : (0#6 ++ sz ++ (ofBool acq) ++ (ofBool rel) ++ sc ++ 0#1 ++ off ++ 1#1 ++ 21#7 ++ la ++ x ++ y ++ z ++ 0#2).getLsbD 31 = true := by
    simp (disch := decide) only [get_hi, get_lo]; rfl
  rw [decodeCode, if_pos hb, at_aand (by simp (disch := decide) only [ext_hi, ext_lo, ext_self])]
  simp (disch := decide) only [get_hi, get_lo, get_ofBool, ext_hi, ext_lo, ext_self]
  exact accept_ok rfl hw

theorem at_aor {w : BitVec 64} (h : w.extractLsb' 24 7 = 22#7) :
    decodeLone w = accept (w.extractLsb' 58 6 == 0 && w.extractLsb' 51 1 == 0 && w.extractLsb' 0 2 == 0)
      (.aor (w.extractLsb' 20 4) (w.extractLsb' 14 6) (w.extractLsb' 8 6) (w.extractLsb' 2 6) (w.extractLsb' 56 2) (w.getLsbD 55) (w.getLsbD 54) (w.extractLsb' 52 2) (w.extractLsb' 32 19)) := by
  unfold decodeLone; rw [h]; rfl

theorem aor (la x y z sz acq rel sc off) : Statement (.aor la x y z sz acq rel sc off) := by
  intro hw c h
  cases h
  have hb : (0#6 ++ sz ++ (ofBool acq) ++ (ofBool rel) ++ sc ++ 0#1 ++ off ++ 1#1 ++ 22#7 ++ la ++ x ++ y ++ z ++ 0#2).getLsbD 31 = true := by
    simp (disch := decide) only [get_hi, get_lo]; rfl
  rw [decodeCode, if_pos hb, at_aor (by simp (disch := decide) only [ext_hi, ext_lo, ext_self])]
  simp (disch := decide) only [get_hi, get_lo, get_ofBool, ext_hi, ext_lo, ext_self]
  exact accept_ok rfl hw

theorem at_axor {w : BitVec 64} (h : w.extractLsb' 24 7 = 23#7) :
    decodeLone w = accept (w.extractLsb' 58 6 == 0 && w.extractLsb' 51 1 == 0 && w.extractLsb' 0 2 == 0)
      (.axor (w.extractLsb' 20 4) (w.extractLsb' 14 6) (w.extractLsb' 8 6) (w.extractLsb' 2 6) (w.extractLsb' 56 2) (w.getLsbD 55) (w.getLsbD 54) (w.extractLsb' 52 2) (w.extractLsb' 32 19)) := by
  unfold decodeLone; rw [h]; rfl

theorem axor (la x y z sz acq rel sc off) : Statement (.axor la x y z sz acq rel sc off) := by
  intro hw c h
  cases h
  have hb : (0#6 ++ sz ++ (ofBool acq) ++ (ofBool rel) ++ sc ++ 0#1 ++ off ++ 1#1 ++ 23#7 ++ la ++ x ++ y ++ z ++ 0#2).getLsbD 31 = true := by
    simp (disch := decide) only [get_hi, get_lo]; rfl
  rw [decodeCode, if_pos hb, at_axor (by simp (disch := decide) only [ext_hi, ext_lo, ext_self])]
  simp (disch := decide) only [get_hi, get_lo, get_ofBool, ext_hi, ext_lo, ext_self]
  exact accept_ok rfl hw

theorem at_amin {w : BitVec 64} (h : w.extractLsb' 24 7 = 24#7) :
    decodeLone w = accept (w.extractLsb' 58 6 == 0 && w.extractLsb' 51 1 == 0 && w.extractLsb' 0 2 == 0)
      (.amin (w.extractLsb' 20 4) (w.extractLsb' 14 6) (w.extractLsb' 8 6) (w.extractLsb' 2 6) (w.extractLsb' 56 2) (w.getLsbD 55) (w.getLsbD 54) (w.extractLsb' 52 2) (w.extractLsb' 32 19)) := by
  unfold decodeLone; rw [h]; rfl

theorem amin (la x y z sz acq rel sc off) : Statement (.amin la x y z sz acq rel sc off) := by
  intro hw c h
  cases h
  have hb : (0#6 ++ sz ++ (ofBool acq) ++ (ofBool rel) ++ sc ++ 0#1 ++ off ++ 1#1 ++ 24#7 ++ la ++ x ++ y ++ z ++ 0#2).getLsbD 31 = true := by
    simp (disch := decide) only [get_hi, get_lo]; rfl
  rw [decodeCode, if_pos hb, at_amin (by simp (disch := decide) only [ext_hi, ext_lo, ext_self])]
  simp (disch := decide) only [get_hi, get_lo, get_ofBool, ext_hi, ext_lo, ext_self]
  exact accept_ok rfl hw

theorem at_amax {w : BitVec 64} (h : w.extractLsb' 24 7 = 25#7) :
    decodeLone w = accept (w.extractLsb' 58 6 == 0 && w.extractLsb' 51 1 == 0 && w.extractLsb' 0 2 == 0)
      (.amax (w.extractLsb' 20 4) (w.extractLsb' 14 6) (w.extractLsb' 8 6) (w.extractLsb' 2 6) (w.extractLsb' 56 2) (w.getLsbD 55) (w.getLsbD 54) (w.extractLsb' 52 2) (w.extractLsb' 32 19)) := by
  unfold decodeLone; rw [h]; rfl

theorem amax (la x y z sz acq rel sc off) : Statement (.amax la x y z sz acq rel sc off) := by
  intro hw c h
  cases h
  have hb : (0#6 ++ sz ++ (ofBool acq) ++ (ofBool rel) ++ sc ++ 0#1 ++ off ++ 1#1 ++ 25#7 ++ la ++ x ++ y ++ z ++ 0#2).getLsbD 31 = true := by
    simp (disch := decide) only [get_hi, get_lo]; rfl
  rw [decodeCode, if_pos hb, at_amax (by simp (disch := decide) only [ext_hi, ext_lo, ext_self])]
  simp (disch := decide) only [get_hi, get_lo, get_ofBool, ext_hi, ext_lo, ext_self]
  exact accept_ok rfl hw

theorem at_aminu {w : BitVec 64} (h : w.extractLsb' 24 7 = 26#7) :
    decodeLone w = accept (w.extractLsb' 58 6 == 0 && w.extractLsb' 51 1 == 0 && w.extractLsb' 0 2 == 0)
      (.aminu (w.extractLsb' 20 4) (w.extractLsb' 14 6) (w.extractLsb' 8 6) (w.extractLsb' 2 6) (w.extractLsb' 56 2) (w.getLsbD 55) (w.getLsbD 54) (w.extractLsb' 52 2) (w.extractLsb' 32 19)) := by
  unfold decodeLone; rw [h]; rfl

theorem aminu (la x y z sz acq rel sc off) : Statement (.aminu la x y z sz acq rel sc off) := by
  intro hw c h
  cases h
  have hb : (0#6 ++ sz ++ (ofBool acq) ++ (ofBool rel) ++ sc ++ 0#1 ++ off ++ 1#1 ++ 26#7 ++ la ++ x ++ y ++ z ++ 0#2).getLsbD 31 = true := by
    simp (disch := decide) only [get_hi, get_lo]; rfl
  rw [decodeCode, if_pos hb, at_aminu (by simp (disch := decide) only [ext_hi, ext_lo, ext_self])]
  simp (disch := decide) only [get_hi, get_lo, get_ofBool, ext_hi, ext_lo, ext_self]
  exact accept_ok rfl hw

theorem at_amaxu {w : BitVec 64} (h : w.extractLsb' 24 7 = 27#7) :
    decodeLone w = accept (w.extractLsb' 58 6 == 0 && w.extractLsb' 51 1 == 0 && w.extractLsb' 0 2 == 0)
      (.amaxu (w.extractLsb' 20 4) (w.extractLsb' 14 6) (w.extractLsb' 8 6) (w.extractLsb' 2 6) (w.extractLsb' 56 2) (w.getLsbD 55) (w.getLsbD 54) (w.extractLsb' 52 2) (w.extractLsb' 32 19)) := by
  unfold decodeLone; rw [h]; rfl

theorem amaxu (la x y z sz acq rel sc off) : Statement (.amaxu la x y z sz acq rel sc off) := by
  intro hw c h
  cases h
  have hb : (0#6 ++ sz ++ (ofBool acq) ++ (ofBool rel) ++ sc ++ 0#1 ++ off ++ 1#1 ++ 27#7 ++ la ++ x ++ y ++ z ++ 0#2).getLsbD 31 = true := by
    simp (disch := decide) only [get_hi, get_lo]; rfl
  rw [decodeCode, if_pos hb, at_amaxu (by simp (disch := decide) only [ext_hi, ext_lo, ext_self])]
  simp (disch := decide) only [get_hi, get_lo, get_ofBool, ext_hi, ext_lo, ext_self]
  exact accept_ok rfl hw

theorem at_aswp {w : BitVec 64} (h : w.extractLsb' 24 7 = 28#7) :
    decodeLone w = accept (w.extractLsb' 58 6 == 0 && w.extractLsb' 51 1 == 0 && w.extractLsb' 0 2 == 0)
      (.aswp (w.extractLsb' 20 4) (w.extractLsb' 14 6) (w.extractLsb' 8 6) (w.extractLsb' 2 6) (w.extractLsb' 56 2) (w.getLsbD 55) (w.getLsbD 54) (w.extractLsb' 52 2) (w.extractLsb' 32 19)) := by
  unfold decodeLone; rw [h]; rfl

theorem aswp (la x y z sz acq rel sc off) : Statement (.aswp la x y z sz acq rel sc off) := by
  intro hw c h
  cases h
  have hb : (0#6 ++ sz ++ (ofBool acq) ++ (ofBool rel) ++ sc ++ 0#1 ++ off ++ 1#1 ++ 28#7 ++ la ++ x ++ y ++ z ++ 0#2).getLsbD 31 = true := by
    simp (disch := decide) only [get_hi, get_lo]; rfl
  rw [decodeCode, if_pos hb, at_aswp (by simp (disch := decide) only [ext_hi, ext_lo, ext_self])]
  simp (disch := decide) only [get_hi, get_lo, get_ofBool, ext_hi, ext_lo, ext_self]
  exact accept_ok rfl hw

theorem at_acas {w : BitVec 64} (h : w.extractLsb' 24 7 = 29#7) :
    decodeLone w = accept (w.extractLsb' 51 1 == 0 && w.extractLsb' 0 2 == 0)
      (.acas (w.extractLsb' 20 4) (w.extractLsb' 14 6) (w.extractLsb' 8 6) (w.extractLsb' 2 6) (w.extractLsb' 58 6) (w.extractLsb' 56 2) (w.getLsbD 55) (w.getLsbD 54) (w.extractLsb' 52 2) (w.extractLsb' 32 19)) := by
  unfold decodeLone; rw [h]; rfl

theorem acas (la x y z w sz acq rel sc off) : Statement (.acas la x y z w sz acq rel sc off) := by
  intro hw c h
  cases h
  have hb : (w ++ sz ++ (ofBool acq) ++ (ofBool rel) ++ sc ++ 0#1 ++ off ++ 1#1 ++ 29#7 ++ la ++ x ++ y ++ z ++ 0#2).getLsbD 31 = true := by
    simp (disch := decide) only [get_hi, get_lo]; rfl
  rw [decodeCode, if_pos hb, at_acas (by simp (disch := decide) only [ext_hi, ext_lo, ext_self])]
  simp (disch := decide) only [get_hi, get_lo, get_ofBool, ext_hi, ext_lo, ext_self]
  exact accept_ok rfl hw

theorem at_bmove {w : BitVec 64} (h : w.extractLsb' 24 7 = 30#7) :
    decodeLone w = accept (w.extractLsb' 58 6 == 0 && w.extractLsb' 32 20 == 0 && w.extractLsb' 20 4 == 0 && w.extractLsb' 0 2 == 0)
      (.bmove (w.extractLsb' 14 6) (w.extractLsb' 8 6) (w.extractLsb' 2 6) (w.extractLsb' 56 2) (w.getLsbD 55) (w.getLsbD 54) (w.extractLsb' 52 2)) := by
  unfold decodeLone; rw [h]; rfl

theorem bmove (x y z sz acq rel sc) : Statement (.bmove x y z sz acq rel sc) := by
  intro hw c h
  cases h
  have hb : (0#6 ++ sz ++ (ofBool acq) ++ (ofBool rel) ++ sc ++ 0#20 ++ 1#1 ++ 30#7 ++ 0#4 ++ x ++ y ++ z ++ 0#2).getLsbD 31 = true := by
    simp (disch := decide) only [get_hi, get_lo]; rfl
  rw [decodeCode, if_pos hb, at_bmove (by simp (disch := decide) only [ext_hi, ext_lo, ext_self])]
  simp (disch := decide) only [get_hi, get_lo, get_ofBool, ext_hi, ext_lo, ext_self]
  exact accept_ok rfl hw

theorem at_cpsub {w : BitVec 64} (h : w.extractLsb' 24 7 = 32#7) :
    decodeLone w = accept (w.extractLsb' 58 6 == 0 && w.extractLsb' 33 25 == 0 && w.extractLsb' 0 2 == 0)
      (.cpsub (w.extractLsb' 20 4) (w.extractLsb' 14 6) (w.extractLsb' 8 6) (w.extractLsb' 2 6) (w.getLsbD 32)) := by
  unfold decodeLone; rw [h]; rfl

theorem cpsub (la x y z wait) : Statement (.cpsub la x y z wait) := by
  intro hw c h
  cases h
  have hb : (0#6 ++ 0#25 ++ (ofBool wait) ++ 1#1 ++ 32#7 ++ la ++ x ++ y ++ z ++ 0#2).getLsbD 31 = true := by
    simp (disch := decide) only [get_hi, get_lo]; rfl
  rw [decodeCode, if_pos hb, at_cpsub (by simp (disch := decide) only [ext_hi, ext_lo, ext_self])]
  simp (disch := decide) only [get_hi, get_lo, get_ofBool, ext_hi, ext_lo, ext_self]
  exact accept_ok rfl hw

theorem at_bmv {w : BitVec 64} (h : w.extractLsb' 24 7 = 33#7) :
    decodeLone w = accept (w.extractLsb' 58 6 == 0 && w.extractLsb' 32 26 == 0 && w.extractLsb' 2 6 == 0 && w.extractLsb' 0 2 == 0)
      (.bmv (w.extractLsb' 20 4) (w.extractLsb' 14 6) (w.extractLsb' 8 6)) := by
  unfold decodeLone; rw [h]; rfl

theorem bmv (la x y) : Statement (.bmv la x y) := by
  intro hw c h
  cases h
  have hb : (0#6 ++ 0#26 ++ 1#1 ++ 33#7 ++ la ++ x ++ y ++ 0#6 ++ 0#2).getLsbD 31 = true := by
    simp (disch := decide) only [get_hi, get_lo]; rfl
  rw [decodeCode, if_pos hb, at_bmv (by simp (disch := decide) only [ext_hi, ext_lo, ext_self])]
  simp (disch := decide) only [get_hi, get_lo, get_ofBool, ext_hi, ext_lo, ext_self]
  exact accept_ok rfl hw

theorem at_coll {w : BitVec 64} (h : w.extractLsb' 24 7 = 34#7) :
    decodeLone w = accept (w.extractLsb' 58 6 == 0 && w.extractLsb' 32 26 == 0 && w.extractLsb' 0 2 == 0)
      (.coll (w.extractLsb' 20 4) (w.extractLsb' 14 6) (w.extractLsb' 8 6) (w.extractLsb' 2 6)) := by
  unfold decodeLone; rw [h]; rfl

theorem coll (la x y z) : Statement (.coll la x y z) := by
  intro hw c h
  cases h
  have hb : (0#6 ++ 0#26 ++ 1#1 ++ 34#7 ++ la ++ x ++ y ++ z ++ 0#2).getLsbD 31 = true := by
    simp (disch := decide) only [get_hi, get_lo]; rfl
  rw [decodeCode, if_pos hb, at_coll (by simp (disch := decide) only [ext_hi, ext_lo, ext_self])]
  simp (disch := decide) only [get_hi, get_lo, get_ofBool, ext_hi, ext_lo, ext_self]
  exact accept_ok rfl hw

theorem at_cwait {w : BitVec 64} (h : w.extractLsb' 24 7 = 35#7) :
    decodeLone w = accept (w.extractLsb' 58 6 == 0 && w.extractLsb' 33 25 == 0 && w.extractLsb' 20 4 == 0 && w.extractLsb' 0 2 == 0)
      (.cwait (w.extractLsb' 14 6) (w.extractLsb' 8 6) (w.extractLsb' 2 6) (w.getLsbD 32)) := by
  unfold decodeLone; rw [h]; rfl

theorem cwait (x y z poll) : Statement (.cwait x y z poll) := by
  intro hw c h
  cases h
  have hb : (0#6 ++ 0#25 ++ (ofBool poll) ++ 1#1 ++ 35#7 ++ 0#4 ++ x ++ y ++ z ++ 0#2).getLsbD 31 = true := by
    simp (disch := decide) only [get_hi, get_lo]; rfl
  rw [decodeCode, if_pos hb, at_cwait (by simp (disch := decide) only [ext_hi, ext_lo, ext_self])]
  simp (disch := decide) only [get_hi, get_lo, get_ofBool, ext_hi, ext_lo, ext_self]
  exact accept_ok rfl hw

theorem at_boinit {w : BitVec 64} (h : w.extractLsb' 24 7 = 36#7) :
    decodeLone w = accept (w.extractLsb' 58 6 == 0 && w.extractLsb' 32 26 == 0 && w.extractLsb' 20 4 == 0 && w.extractLsb' 14 6 == 0 && w.extractLsb' 0 2 == 0)
      (.boinit (w.extractLsb' 8 6) (w.extractLsb' 2 6)) := by
  unfold decodeLone; rw [h]; rfl

theorem boinit (y z) : Statement (.boinit y z) := by
  intro hw c h
  cases h
  have hb : (0#6 ++ 0#26 ++ 1#1 ++ 36#7 ++ 0#4 ++ 0#6 ++ y ++ z ++ 0#2).getLsbD 31 = true := by
    simp (disch := decide) only [get_hi, get_lo]; rfl
  rw [decodeCode, if_pos hb, at_boinit (by simp (disch := decide) only [ext_hi, ext_lo, ext_self])]
  simp (disch := decide) only [get_hi, get_lo, get_ofBool, ext_hi, ext_lo, ext_self]
  exact accept_ok rfl hw

theorem at_mbset {w : BitVec 64} (h : w.extractLsb' 24 7 = 37#7) :
    decodeLone w = accept (w.extractLsb' 58 6 == 0 && w.extractLsb' 32 26 == 0 && w.extractLsb' 20 4 == 0 && w.extractLsb' 0 2 == 0)
      (.mbset (w.extractLsb' 14 6) (w.extractLsb' 8 6) (w.extractLsb' 2 6)) := by
  unfold decodeLone; rw [h]; rfl

theorem mbset (x y z) : Statement (.mbset x y z) := by
  intro hw c h
  cases h
  have hb : (0#6 ++ 0#26 ++ 1#1 ++ 37#7 ++ 0#4 ++ x ++ y ++ z ++ 0#2).getLsbD 31 = true := by
    simp (disch := decide) only [get_hi, get_lo]; rfl
  rw [decodeCode, if_pos hb, at_mbset (by simp (disch := decide) only [ext_hi, ext_lo, ext_self])]
  simp (disch := decide) only [get_hi, get_lo, get_ofBool, ext_hi, ext_lo, ext_self]
  exact accept_ok rfl hw

theorem at_marm {w : BitVec 64} (h : w.extractLsb' 24 7 = 38#7) :
    decodeLone w = accept (w.extractLsb' 58 6 == 0 && w.extractLsb' 32 26 == 0 && w.extractLsb' 20 4 == 0 && w.extractLsb' 14 6 == 0 && w.extractLsb' 0 2 == 0)
      (.marm (w.extractLsb' 8 6) (w.extractLsb' 2 6)) := by
  unfold decodeLone; rw [h]; rfl

theorem marm (y z) : Statement (.marm y z) := by
  intro hw c h
  cases h
  have hb : (0#6 ++ 0#26 ++ 1#1 ++ 38#7 ++ 0#4 ++ 0#6 ++ y ++ z ++ 0#2).getLsbD 31 = true := by
    simp (disch := decide) only [get_hi, get_lo]; rfl
  rw [decodeCode, if_pos hb, at_marm (by simp (disch := decide) only [ext_hi, ext_lo, ext_self])]
  simp (disch := decide) only [get_hi, get_lo, get_ofBool, ext_hi, ext_lo, ext_self]
  exact accept_ok rfl hw

theorem at_mref {w : BitVec 64} (h : w.extractLsb' 24 7 = 39#7) :
    decodeLone w = accept (w.extractLsb' 33 25 == 0 && w.extractLsb' 20 4 == 0 && w.extractLsb' 14 6 == 0 && w.extractLsb' 0 2 == 0)
      (.mref (w.extractLsb' 8 6) (w.extractLsb' 2 6) (w.extractLsb' 58 6) (w.getLsbD 32)) := by
  unfold decodeLone; rw [h]; rfl

theorem mref (y z w en) : Statement (.mref y z w en) := by
  intro hw c h
  cases h
  have hb : (w ++ 0#25 ++ (ofBool en) ++ 1#1 ++ 39#7 ++ 0#4 ++ 0#6 ++ y ++ z ++ 0#2).getLsbD 31 = true := by
    simp (disch := decide) only [get_hi, get_lo]; rfl
  rw [decodeCode, if_pos hb, at_mref (by simp (disch := decide) only [ext_hi, ext_lo, ext_self])]
  simp (disch := decide) only [get_hi, get_lo, get_ofBool, ext_hi, ext_lo, ext_self]
  exact accept_ok rfl hw

theorem at_mread {w : BitVec 64} (h : w.extractLsb' 24 7 = 40#7) :
    decodeLone w = accept (w.extractLsb' 58 6 == 0 && w.extractLsb' 34 24 == 0 && w.extractLsb' 2 6 == 0 && w.extractLsb' 0 2 == 0)
      (.mread (w.extractLsb' 20 4) (w.extractLsb' 14 6) (w.extractLsb' 8 6) (w.extractLsb' 32 2)) := by
  unfold decodeLone; rw [h]; rfl

theorem mread (la x y what) : Statement (.mread la x y what) := by
  intro hw c h
  cases h
  have hb : (0#6 ++ 0#24 ++ what ++ 1#1 ++ 40#7 ++ la ++ x ++ y ++ 0#6 ++ 0#2).getLsbD 31 = true := by
    simp (disch := decide) only [get_hi, get_lo]; rfl
  rw [decodeCode, if_pos hb, at_mread (by simp (disch := decide) only [ext_hi, ext_lo, ext_self])]
  simp (disch := decide) only [get_hi, get_lo, get_ofBool, ext_hi, ext_lo, ext_self]
  exact accept_ok rfl hw

theorem at_radd {w : BitVec 64} (h : w.extractLsb' 24 7 = 48#7) :
    decodeLone w = accept (w.extractLsb' 46 12 == 0 && w.extractLsb' 2 6 == 0 && w.extractLsb' 0 2 == 0)
      (.radd (w.extractLsb' 20 4) (w.extractLsb' 14 6) (w.extractLsb' 8 6) (w.extractLsb' 58 6) (w.extractLsb' 32 13) (w.getLsbD 45)) := by
  unfold decodeLone; rw [h]; rfl

theorem radd (la x y w n1 s) : Statement (.radd la x y w n1 s) := by
  intro hw c h
  cases h
  have hb : (w ++ 0#12 ++ (ofBool s) ++ n1 ++ 1#1 ++ 48#7 ++ la ++ x ++ y ++ 0#6 ++ 0#2).getLsbD 31 = true := by
    simp (disch := decide) only [get_hi, get_lo]; rfl
  rw [decodeCode, if_pos hb, at_radd (by simp (disch := decide) only [ext_hi, ext_lo, ext_self])]
  simp (disch := decide) only [get_hi, get_lo, get_ofBool, ext_hi, ext_lo, ext_self]
  exact accept_ok rfl hw

theorem at_rmax {w : BitVec 64} (h : w.extractLsb' 24 7 = 49#7) :
    decodeLone w = accept (w.extractLsb' 46 12 == 0 && w.extractLsb' 2 6 == 0 && w.extractLsb' 0 2 == 0)
      (.rmax (w.extractLsb' 20 4) (w.extractLsb' 14 6) (w.extractLsb' 8 6) (w.extractLsb' 58 6) (w.extractLsb' 32 13) (w.getLsbD 45)) := by
  unfold decodeLone; rw [h]; rfl

theorem rmax (la x y w n1 s) : Statement (.rmax la x y w n1 s) := by
  intro hw c h
  cases h
  have hb : (w ++ 0#12 ++ (ofBool s) ++ n1 ++ 1#1 ++ 49#7 ++ la ++ x ++ y ++ 0#6 ++ 0#2).getLsbD 31 = true := by
    simp (disch := decide) only [get_hi, get_lo]; rfl
  rw [decodeCode, if_pos hb, at_rmax (by simp (disch := decide) only [ext_hi, ext_lo, ext_self])]
  simp (disch := decide) only [get_hi, get_lo, get_ofBool, ext_hi, ext_lo, ext_self]
  exact accept_ok rfl hw

theorem at_rlww {w : BitVec 64} (h : w.extractLsb' 24 7 = 50#7) :
    decodeLone w = accept (w.extractLsb' 47 11 == 0 && w.extractLsb' 32 14 == 0 && w.extractLsb' 0 2 == 0)
      (.rlww (w.extractLsb' 20 4) (w.extractLsb' 14 6) (w.extractLsb' 8 6) (w.extractLsb' 2 6) (w.extractLsb' 58 6) (w.getLsbD 46)) := by
  unfold decodeLone; rw [h]; rfl

theorem rlww (la x y z w expl) : Statement (.rlww la x y z w expl) := by
  intro hw c h
  cases h
  have hb : (w ++ 0#11 ++ (ofBool expl) ++ 0#14 ++ 1#1 ++ 50#7 ++ la ++ x ++ y ++ z ++ 0#2).getLsbD 31 = true := by
    simp (disch := decide) only [get_hi, get_lo]; rfl
  rw [decodeCode, if_pos hb, at_rlww (by simp (disch := decide) only [ext_hi, ext_lo, ext_self])]
  simp (disch := decide) only [get_hi, get_lo, get_ofBool, ext_hi, ext_lo, ext_self]
  exact accept_ok rfl hw

theorem at_rsadd {w : BitVec 64} (h : w.extractLsb' 24 7 = 51#7) :
    decodeLone w = accept (w.extractLsb' 58 6 == 0 && w.extractLsb' 32 26 == 0 && w.extractLsb' 0 2 == 0)
      (.rsadd (w.extractLsb' 20 4) (w.extractLsb' 14 6) (w.extractLsb' 8 6) (w.extractLsb' 2 6)) := by
  unfold decodeLone; rw [h]; rfl

theorem rsadd (la x y z) : Statement (.rsadd la x y z) := by
  intro hw c h
  cases h
  have hb : (0#6 ++ 0#26 ++ 1#1 ++ 51#7 ++ la ++ x ++ y ++ z ++ 0#2).getLsbD 31 = true := by
    simp (disch := decide) only [get_hi, get_lo]; rfl
  rw [decodeCode, if_pos hb, at_rsadd (by simp (disch := decide) only [ext_hi, ext_lo, ext_self])]
  simp (disch := decide) only [get_hi, get_lo, get_ofBool, ext_hi, ext_lo, ext_self]
  exact accept_ok rfl hw

theorem at_rsrem {w : BitVec 64} (h : w.extractLsb' 24 7 = 52#7) :
    decodeLone w = accept (w.extractLsb' 58 6 == 0 && w.extractLsb' 32 26 == 0 && w.extractLsb' 0 2 == 0)
      (.rsrem (w.extractLsb' 20 4) (w.extractLsb' 14 6) (w.extractLsb' 8 6) (w.extractLsb' 2 6)) := by
  unfold decodeLone; rw [h]; rfl

theorem rsrem (la x y z) : Statement (.rsrem la x y z) := by
  intro hw c h
  cases h
  have hb : (0#6 ++ 0#26 ++ 1#1 ++ 52#7 ++ la ++ x ++ y ++ z ++ 0#2).getLsbD 31 = true := by
    simp (disch := decide) only [get_hi, get_lo]; rfl
  rw [decodeCode, if_pos hb, at_rsrem (by simp (disch := decide) only [ext_hi, ext_lo, ext_self])]
  simp (disch := decide) only [get_hi, get_lo, get_ofBool, ext_hi, ext_lo, ext_self]
  exact accept_ok rfl hw

theorem at_rshas {w : BitVec 64} (h : w.extractLsb' 24 7 = 53#7) :
    decodeLone w = accept (w.extractLsb' 58 6 == 0 && w.extractLsb' 47 11 == 0 && w.extractLsb' 32 14 == 0 && w.extractLsb' 0 2 == 0)
      (.rshas (w.extractLsb' 20 4) (w.extractLsb' 14 6) (w.extractLsb' 8 6) (w.extractLsb' 2 6) (w.getLsbD 46)) := by
  unfold decodeLone; rw [h]; rfl

theorem rshas (la x y z stable) : Statement (.rshas la x y z stable) := by
  intro hw c h
  cases h
  have hb : (0#6 ++ 0#11 ++ (ofBool stable) ++ 0#14 ++ 1#1 ++ 53#7 ++ la ++ x ++ y ++ z ++ 0#2).getLsbD 31 = true := by
    simp (disch := decide) only [get_hi, get_lo]; rfl
  rw [decodeCode, if_pos hb, at_rshas (by simp (disch := decide) only [ext_hi, ext_lo, ext_self])]
  simp (disch := decide) only [get_hi, get_lo, get_ofBool, ext_hi, ext_lo, ext_self]
  exact accept_ok rfl hw

theorem at_rmean {w : BitVec 64} (h : w.extractLsb' 24 7 = 54#7) :
    decodeLone w = accept (w.extractLsb' 46 12 == 0 && w.extractLsb' 0 2 == 0)
      (.rmean (w.extractLsb' 20 4) (w.extractLsb' 14 6) (w.extractLsb' 8 6) (w.extractLsb' 2 6) (w.extractLsb' 58 6) (w.extractLsb' 32 13) (w.getLsbD 45)) := by
  unfold decodeLone; rw [h]; rfl

theorem rmean (la x y z w n1 s) : Statement (.rmean la x y z w n1 s) := by
  intro hw c h
  cases h
  have hb : (w ++ 0#12 ++ (ofBool s) ++ n1 ++ 1#1 ++ 54#7 ++ la ++ x ++ y ++ z ++ 0#2).getLsbD 31 = true := by
    simp (disch := decide) only [get_hi, get_lo]; rfl
  rw [decodeCode, if_pos hb, at_rmean (by simp (disch := decide) only [ext_hi, ext_lo, ext_self])]
  simp (disch := decide) only [get_hi, get_lo, get_ofBool, ext_hi, ext_lo, ext_self]
  exact accept_ok rfl hw

theorem at_rread {w : BitVec 64} (h : w.extractLsb' 24 7 = 55#7) :
    decodeLone w = accept (w.extractLsb' 58 6 == 0 && w.extractLsb' 51 7 == 0 && w.extractLsb' 2 6 == 0 && w.extractLsb' 0 2 == 0)
      (.rread (w.extractLsb' 20 4) (w.extractLsb' 14 6) (w.extractLsb' 8 6) (w.extractLsb' 32 13) (w.getLsbD 45) (w.getLsbD 46) (w.extractLsb' 47 3) (w.getLsbD 50)) := by
  unfold decodeLone; rw [h]; rfl

theorem rread (la x y n1 s stable rm cnt) : Statement (.rread la x y n1 s stable rm cnt) := by
  intro hw c h
  cases h
  have hb : (0#6 ++ 0#7 ++ (ofBool cnt) ++ rm ++ (ofBool stable) ++ (ofBool s) ++ n1 ++ 1#1 ++ 55#7 ++ la ++ x ++ y ++ 0#6 ++ 0#2).getLsbD 31 = true := by
    simp (disch := decide) only [get_hi, get_lo]; rfl
  rw [decodeCode, if_pos hb, at_rread (by simp (disch := decide) only [ext_hi, ext_lo, ext_self])]
  simp (disch := decide) only [get_hi, get_lo, get_ofBool, ext_hi, ext_lo, ext_self]
  exact accept_ok rfl hw

theorem at_rfront {w : BitVec 64} (h : w.extractLsb' 24 7 = 56#7) :
    decodeLone w = accept (w.extractLsb' 58 6 == 0 && w.extractLsb' 34 24 == 0 && w.extractLsb' 0 2 == 0)
      (.rfront (w.extractLsb' 20 4) (w.extractLsb' 14 6) (w.extractLsb' 8 6) (w.extractLsb' 2 6) (w.extractLsb' 32 2)) := by
  unfold decodeLone; rw [h]; rfl

theorem rfront (la x y z sel) : Statement (.rfront la x y z sel) := by
  intro hw c h
  cases h
  have hb : (0#6 ++ 0#24 ++ sel ++ 1#1 ++ 56#7 ++ la ++ x ++ y ++ z ++ 0#2).getLsbD 31 = true := by
    simp (disch := decide) only [get_hi, get_lo]; rfl
  rw [decodeCode, if_pos hb, at_rfront (by simp (disch := decide) only [ext_hi, ext_lo, ext_self])]
  simp (disch := decide) only [get_hi, get_lo, get_ofBool, ext_hi, ext_lo, ext_self]
  exact accept_ok rfl hw

theorem at_rstab {w : BitVec 64} (h : w.extractLsb' 24 7 = 57#7) :
    decodeLone w = accept (w.extractLsb' 33 25 == 0 && w.extractLsb' 0 2 == 0)
      (.rstab (w.extractLsb' 20 4) (w.extractLsb' 14 6) (w.extractLsb' 8 6) (w.extractLsb' 2 6) (w.extractLsb' 58 6) (w.getLsbD 32)) := by
  unfold decodeLone; rw [h]; rfl

theorem rstab (la x y z w poll) : Statement (.rstab la x y z w poll) := by
  intro hw c h
  cases h
  have hb : (w ++ 0#25 ++ (ofBool poll) ++ 1#1 ++ 57#7 ++ la ++ x ++ y ++ z ++ 0#2).getLsbD 31 = true := by
    simp (disch := decide) only [get_hi, get_lo]; rfl
  rw [decodeCode, if_pos hb, at_rstab (by simp (disch := decide) only [ext_hi, ext_lo, ext_self])]
  simp (disch := decide) only [get_hi, get_lo, get_ofBool, ext_hi, ext_lo, ext_self]
  exact accept_ok rfl hw

theorem at_rhlc {w : BitVec 64} (h : w.extractLsb' 24 7 = 58#7) :
    decodeLone w = accept (w.extractLsb' 58 6 == 0 && w.extractLsb' 34 24 == 0 && w.extractLsb' 8 6 == 0 && w.extractLsb' 0 2 == 0)
      (.rhlc (w.extractLsb' 20 4) (w.extractLsb' 14 6) (w.extractLsb' 2 6) (w.extractLsb' 32 2)) := by
  unfold decodeLone; rw [h]; rfl

theorem rhlc (la x z op) : Statement (.rhlc la x z op) := by
  intro hw c h
  cases h
  have hb : (0#6 ++ 0#24 ++ op ++ 1#1 ++ 58#7 ++ la ++ x ++ 0#6 ++ z ++ 0#2).getLsbD 31 = true := by
    simp (disch := decide) only [get_hi, get_lo]; rfl
  rw [decodeCode, if_pos hb, at_rhlc (by simp (disch := decide) only [ext_hi, ext_lo, ext_self])]
  simp (disch := decide) only [get_hi, get_lo, get_ofBool, ext_hi, ext_lo, ext_self]
  exact accept_ok rfl hw

theorem at_tld {w : BitVec 64} (h : w.extractLsb' 24 7 = 64#7) :
    decodeLone w = accept (w.extractLsb' 49 6 == 0 && w.extractLsb' 10 5 == 0 && w.extractLsb' 5 5 == 0 && w.extractLsb' 0 5 == 0)
      (.tld (w.extractLsb' 20 4) (w.extractLsb' 15 5) (w.extractLsb' 58 6) (w.extractLsb' 56 2) (w.getLsbD 55) (w.extractLsb' 44 5) (w.extractLsb' 32 12)) := by
  unfold decodeLone; rw [h]; rfl

theorem tld (la td gx sc acq nrow1 pitch) : Statement (.tld la td gx sc acq nrow1 pitch) := by
  intro hw c h
  cases h
  have hb : (gx ++ sc ++ (ofBool acq) ++ 0#6 ++ nrow1 ++ pitch ++ 1#1 ++ 64#7 ++ la ++ td ++ 0#5 ++ 0#5 ++ 0#5).getLsbD 31 = true := by
    simp (disch := decide) only [get_hi, get_lo]; rfl
  rw [decodeCode, if_pos hb, at_tld (by simp (disch := decide) only [ext_hi, ext_lo, ext_self])]
  simp (disch := decide) only [get_hi, get_lo, get_ofBool, ext_hi, ext_lo, ext_self]
  exact accept_ok rfl hw

theorem at_tst {w : BitVec 64} (h : w.extractLsb' 24 7 = 65#7) :
    decodeLone w = accept (w.extractLsb' 49 6 == 0 && w.extractLsb' 15 5 == 0 && w.extractLsb' 5 5 == 0 && w.extractLsb' 0 5 == 0)
      (.tst (w.extractLsb' 20 4) (w.extractLsb' 10 5) (w.extractLsb' 58 6) (w.extractLsb' 56 2) (w.getLsbD 55) (w.extractLsb' 44 5) (w.extractLsb' 32 12)) := by
  unfold decodeLone; rw [h]; rfl

theorem tst (la ta gx sc rel nrow1 pitch) : Statement (.tst la ta gx sc rel nrow1 pitch) := by
  intro hw c h
  cases h
  have hb : (gx ++ sc ++ (ofBool rel) ++ 0#6 ++ nrow1 ++ pitch ++ 1#1 ++ 65#7 ++ la ++ 0#5 ++ ta ++ 0#5 ++ 0#5).getLsbD 31 = true := by
    simp (disch := decide) only [get_hi, get_lo]; rfl
  rw [decodeCode, if_pos hb, at_tst (by simp (disch := decide) only [ext_hi, ext_lo, ext_self])]
  simp (disch := decide) only [get_hi, get_lo, get_ofBool, ext_hi, ext_lo, ext_self]
  exact accept_ok rfl hw

theorem at_tmov {w : BitVec 64} (h : w.extractLsb' 24 7 = 66#7) :
    decodeLone w = accept (w.extractLsb' 43 21 == 0 && w.extractLsb' 5 5 == 0 && w.extractLsb' 0 5 == 0)
      (.tmov (w.extractLsb' 20 4) (w.extractLsb' 15 5) (w.extractLsb' 10 5) (w.getLsbD 42) (w.extractLsb' 37 5) (w.extractLsb' 32 5)) := by
  unfold decodeLone; rw [h]; rfl

theorem tmov (la td ta row rd ra) : Statement (.tmov la td ta row rd ra) := by
  intro hw c h
  cases h
  have hb : (0#21 ++ (ofBool row) ++ rd ++ ra ++ 1#1 ++ 66#7 ++ la ++ td ++ ta ++ 0#5 ++ 0#5).getLsbD 31 = true := by
    simp (disch := decide) only [get_hi, get_lo]; rfl
  rw [decodeCode, if_pos hb, at_tmov (by simp (disch := decide) only [ext_hi, ext_lo, ext_self])]
  simp (disch := decide) only [get_hi, get_lo, get_ofBool, ext_hi, ext_lo, ext_self]
  exact accept_ok rfl hw

theorem at_tfill {w : BitVec 64} (h : w.extractLsb' 24 7 = 67#7) :
    decodeLone w = accept (w.extractLsb' 52 6 == 0 && w.extractLsb' 43 7 == 0 && w.extractLsb' 32 5 == 0 && w.extractLsb' 10 5 == 0 && w.extractLsb' 5 5 == 0 && w.extractLsb' 0 5 == 0)
      (.tfill (w.extractLsb' 20 4) (w.extractLsb' 15 5) (w.extractLsb' 58 6) (w.extractLsb' 50 2) (w.getLsbD 42) (w.extractLsb' 37 5)) := by
  unfold decodeLone; rw [h]; rfl

theorem tfill (la td gx sz row rd) : Statement (.tfill la td gx sz row rd) := by
  intro hw c h
  cases h
  have hb : (gx ++ 0#6 ++ sz ++ 0#7 ++ (ofBool row) ++ rd ++ 0#5 ++ 1#1 ++ 67#7 ++ la ++ td ++ 0#5 ++ 0#5 ++ 0#5).getLsbD 31 = true := by
    simp (disch := decide) only [get_hi, get_lo]; rfl
  rw [decodeCode, if_pos hb, at_tfill (by simp (disch := decide) only [ext_hi, ext_lo, ext_self])]
  simp (disch := decide) only [get_hi, get_lo, get_ofBool, ext_hi, ext_lo, ext_self]
  exact accept_ok rfl hw

theorem at_vadd {w : BitVec 64} (h : w.extractLsb' 24 7 = 72#7) :
    decodeLone w = accept (w.extractLsb' 32 17 == 0 && w.extractLsb' 0 5 == 0)
      (.vadd (w.extractLsb' 20 4) (w.extractLsb' 15 5) (w.extractLsb' 10 5) (w.extractLsb' 5 5) (w.extractLsb' 58 6) (w.extractLsb' 55 3) (w.extractLsb' 51 4) (w.getLsbD 50) (w.getLsbD 49)) := by
  unfold decodeLone; rw [h]; rfl

theorem vadd (la td ta tb gx rm te sati bc) : Statement (.vadd la td ta tb gx rm te sati bc) := by
  intro hw c h
  cases h
  have hb : (gx ++ rm ++ te ++ (ofBool sati) ++ (ofBool bc) ++ 0#17 ++ 1#1 ++ 72#7 ++ la ++ td ++ ta ++ tb ++ 0#5).getLsbD 31 = true := by
    simp (disch := decide) only [get_hi, get_lo]; rfl
  rw [decodeCode, if_pos hb, at_vadd (by simp (disch := decide) only [ext_hi, ext_lo, ext_self])]
  simp (disch := decide) only [get_hi, get_lo, get_ofBool, ext_hi, ext_lo, ext_self]
  exact accept_ok rfl hw

theorem at_vsub {w : BitVec 64} (h : w.extractLsb' 24 7 = 73#7) :
    decodeLone w = accept (w.extractLsb' 32 17 == 0 && w.extractLsb' 0 5 == 0)
      (.vsub (w.extractLsb' 20 4) (w.extractLsb' 15 5) (w.extractLsb' 10 5) (w.extractLsb' 5 5) (w.extractLsb' 58 6) (w.extractLsb' 55 3) (w.extractLsb' 51 4) (w.getLsbD 50) (w.getLsbD 49)) := by
  unfold decodeLone; rw [h]; rfl

theorem vsub (la td ta tb gx rm te sati bc) : Statement (.vsub la td ta tb gx rm te sati bc) := by
  intro hw c h
  cases h
  have hb : (gx ++ rm ++ te ++ (ofBool sati) ++ (ofBool bc) ++ 0#17 ++ 1#1 ++ 73#7 ++ la ++ td ++ ta ++ tb ++ 0#5).getLsbD 31 = true := by
    simp (disch := decide) only [get_hi, get_lo]; rfl
  rw [decodeCode, if_pos hb, at_vsub (by simp (disch := decide) only [ext_hi, ext_lo, ext_self])]
  simp (disch := decide) only [get_hi, get_lo, get_ofBool, ext_hi, ext_lo, ext_self]
  exact accept_ok rfl hw

theorem at_vmul {w : BitVec 64} (h : w.extractLsb' 24 7 = 74#7) :
    decodeLone w = accept (w.extractLsb' 32 17 == 0 && w.extractLsb' 0 5 == 0)
      (.vmul (w.extractLsb' 20 4) (w.extractLsb' 15 5) (w.extractLsb' 10 5) (w.extractLsb' 5 5) (w.extractLsb' 58 6) (w.extractLsb' 55 3) (w.extractLsb' 51 4) (w.getLsbD 50) (w.getLsbD 49)) := by
  unfold decodeLone; rw [h]; rfl

theorem vmul (la td ta tb gx rm te sati bc) : Statement (.vmul la td ta tb gx rm te sati bc) := by
  intro hw c h
  cases h
  have hb : (gx ++ rm ++ te ++ (ofBool sati) ++ (ofBool bc) ++ 0#17 ++ 1#1 ++ 74#7 ++ la ++ td ++ ta ++ tb ++ 0#5).getLsbD 31 = true := by
    simp (disch := decide) only [get_hi, get_lo]; rfl
  rw [decodeCode, if_pos hb, at_vmul (by simp (disch := decide) only [ext_hi, ext_lo, ext_self])]
  simp (disch := decide) only [get_hi, get_lo, get_ofBool, ext_hi, ext_lo, ext_self]
  exact accept_ok rfl hw

theorem at_vfma {w : BitVec 64} (h : w.extractLsb' 24 7 = 75#7) :
    decodeLone w = accept (w.extractLsb' 32 17 == 0)
      (.vfma (w.extractLsb' 20 4) (w.extractLsb' 15 5) (w.extractLsb' 10 5) (w.extractLsb' 5 5) (w.extractLsb' 0 5) (w.extractLsb' 58 6) (w.extractLsb' 55 3) (w.extractLsb' 51 4) (w.getLsbD 50) (w.getLsbD 49)) := by
  unfold decodeLone; rw [h]; rfl

theorem vfma (la td ta tb tc gx rm te sati bc) : Statement (.vfma la td ta tb tc gx rm te sati bc) := by
  intro hw c h
  cases h
  have hb : (gx ++ rm ++ te ++ (ofBool sati) ++ (ofBool bc) ++ 0#17 ++ 1#1 ++ 75#7 ++ la ++ td ++ ta ++ tb ++ tc).getLsbD 31 = true := by
    simp (disch := decide) only [get_hi, get_lo]; rfl
  rw [decodeCode, if_pos hb, at_vfma (by simp (disch := decide) only [ext_hi, ext_lo, ext_self])]
  simp (disch := decide) only [get_hi, get_lo, get_ofBool, ext_hi, ext_lo, ext_self]
  exact accept_ok rfl hw

theorem at_vdiv {w : BitVec 64} (h : w.extractLsb' 24 7 = 76#7) :
    decodeLone w = accept (w.extractLsb' 50 1 == 0 && w.extractLsb' 32 17 == 0 && w.extractLsb' 0 5 == 0)
      (.vdiv (w.extractLsb' 20 4) (w.extractLsb' 15 5) (w.extractLsb' 10 5) (w.extractLsb' 5 5) (w.extractLsb' 58 6) (w.extractLsb' 55 3) (w.extractLsb' 51 4) (w.getLsbD 49)) := by
  unfold decodeLone; rw [h]; rfl

theorem vdiv (la td ta tb gx rm te bc) : Statement (.vdiv la td ta tb gx rm te bc) := by
  intro hw c h
  cases h
  have hb : (gx ++ rm ++ te ++ 0#1 ++ (ofBool bc) ++ 0#17 ++ 1#1 ++ 76#7 ++ la ++ td ++ ta ++ tb ++ 0#5).getLsbD 31 = true := by
    simp (disch := decide) only [get_hi, get_lo]; rfl
  rw [decodeCode, if_pos hb, at_vdiv (by simp (disch := decide) only [ext_hi, ext_lo, ext_self])]
  simp (disch := decide) only [get_hi, get_lo, get_ofBool, ext_hi, ext_lo, ext_self]
  exact accept_ok rfl hw

theorem at_vsqrt {w : BitVec 64} (h : w.extractLsb' 24 7 = 77#7) :
    decodeLone w = accept (w.extractLsb' 58 6 == 0 && w.extractLsb' 32 19 == 0 && w.extractLsb' 5 5 == 0 && w.extractLsb' 0 5 == 0)
      (.vsqrt (w.extractLsb' 20 4) (w.extractLsb' 15 5) (w.extractLsb' 10 5) (w.extractLsb' 55 3) (w.extractLsb' 51 4)) := by
  unfold decodeLone; rw [h]; rfl

theorem vsqrt (la td ta rm te) : Statement (.vsqrt la td ta rm te) := by
  intro hw c h
  cases h
  have hb : (0#6 ++ rm ++ te ++ 0#19 ++ 1#1 ++ 77#7 ++ la ++ td ++ ta ++ 0#5 ++ 0#5).getLsbD 31 = true := by
    simp (disch := decide) only [get_hi, get_lo]; rfl
  rw [decodeCode, if_pos hb, at_vsqrt (by simp (disch := decide) only [ext_hi, ext_lo, ext_self])]
  simp (disch := decide) only [get_hi, get_lo, get_ofBool, ext_hi, ext_lo, ext_self]
  exact accept_ok rfl hw

theorem at_vmin {w : BitVec 64} (h : w.extractLsb' 24 7 = 78#7) :
    decodeLone w = accept (w.extractLsb' 55 3 == 0 && w.extractLsb' 32 17 == 0 && w.extractLsb' 0 5 == 0)
      (.vmin (w.extractLsb' 20 4) (w.extractLsb' 15 5) (w.extractLsb' 10 5) (w.extractLsb' 5 5) (w.extractLsb' 58 6) (w.extractLsb' 51 4) (w.getLsbD 50) (w.getLsbD 49)) := by
  unfold decodeLone; rw [h]; rfl

theorem vmin (la td ta tb gx te sati bc) : Statement (.vmin la td ta tb gx te sati bc) := by
  intro hw c h
  cases h
  have hb : (gx ++ 0#3 ++ te ++ (ofBool sati) ++ (ofBool bc) ++ 0#17 ++ 1#1 ++ 78#7 ++ la ++ td ++ ta ++ tb ++ 0#5).getLsbD 31 = true := by
    simp (disch := decide) only [get_hi, get_lo]; rfl
  rw [decodeCode, if_pos hb, at_vmin (by simp (disch := decide) only [ext_hi, ext_lo, ext_self])]
  simp (disch := decide) only [get_hi, get_lo, get_ofBool, ext_hi, ext_lo, ext_self]
  exact accept_ok rfl hw

theorem at_vmax {w : BitVec 64} (h : w.extractLsb' 24 7 = 79#7) :
    decodeLone w = accept (w.extractLsb' 55 3 == 0 && w.extractLsb' 32 17 == 0 && w.extractLsb' 0 5 == 0)
      (.vmax (w.extractLsb' 20 4) (w.extractLsb' 15 5) (w.extractLsb' 10 5) (w.extractLsb' 5 5) (w.extractLsb' 58 6) (w.extractLsb' 51 4) (w.getLsbD 50) (w.getLsbD 49)) := by
  unfold decodeLone; rw [h]; rfl

theorem vmax (la td ta tb gx te sati bc) : Statement (.vmax la td ta tb gx te sati bc) := by
  intro hw c h
  cases h
  have hb : (gx ++ 0#3 ++ te ++ (ofBool sati) ++ (ofBool bc) ++ 0#17 ++ 1#1 ++ 79#7 ++ la ++ td ++ ta ++ tb ++ 0#5).getLsbD 31 = true := by
    simp (disch := decide) only [get_hi, get_lo]; rfl
  rw [decodeCode, if_pos hb, at_vmax (by simp (disch := decide) only [ext_hi, ext_lo, ext_self])]
  simp (disch := decide) only [get_hi, get_lo, get_ofBool, ext_hi, ext_lo, ext_self]
  exact accept_ok rfl hw

theorem at_vexp2 {w : BitVec 64} (h : w.extractLsb' 24 7 = 80#7) :
    decodeLone w = accept (w.extractLsb' 58 6 == 0 && w.extractLsb' 32 19 == 0 && w.extractLsb' 5 5 == 0 && w.extractLsb' 0 5 == 0)
      (.vexp2 (w.extractLsb' 20 4) (w.extractLsb' 15 5) (w.extractLsb' 10 5) (w.extractLsb' 55 3) (w.extractLsb' 51 4)) := by
  unfold decodeLone; rw [h]; rfl

theorem vexp2 (la td ta rm te) : Statement (.vexp2 la td ta rm te) := by
  intro hw c h
  cases h
  have hb : (0#6 ++ rm ++ te ++ 0#19 ++ 1#1 ++ 80#7 ++ la ++ td ++ ta ++ 0#5 ++ 0#5).getLsbD 31 = true := by
    simp (disch := decide) only [get_hi, get_lo]; rfl
  rw [decodeCode, if_pos hb, at_vexp2 (by simp (disch := decide) only [ext_hi, ext_lo, ext_self])]
  simp (disch := decide) only [get_hi, get_lo, get_ofBool, ext_hi, ext_lo, ext_self]
  exact accept_ok rfl hw

theorem at_vabs {w : BitVec 64} (h : w.extractLsb' 24 7 = 81#7) :
    decodeLone w = accept (w.extractLsb' 55 9 == 0 && w.extractLsb' 32 18 == 0 && w.extractLsb' 5 5 == 0 && w.extractLsb' 0 5 == 0)
      (.vabs (w.extractLsb' 20 4) (w.extractLsb' 15 5) (w.extractLsb' 10 5) (w.extractLsb' 51 4) (w.getLsbD 50)) := by
  unfold decodeLone; rw [h]; rfl

theorem vabs (la td ta te sati) : Statement (.vabs la td ta te sati) := by
  intro hw c h
  cases h
  have hb : (0#9 ++ te ++ (ofBool sati) ++ 0#18 ++ 1#1 ++ 81#7 ++ la ++ td ++ ta ++ 0#5 ++ 0#5).getLsbD 31 = true := by
    simp (disch := decide) only [get_hi, get_lo]; rfl
  rw [decodeCode, if_pos hb, at_vabs (by simp (disch := decide) only [ext_hi, ext_lo, ext_self])]
  simp (disch := decide) only [get_hi, get_lo, get_ofBool, ext_hi, ext_lo, ext_self]
  exact accept_ok rfl hw

theorem at_vneg {w : BitVec 64} (h : w.extractLsb' 24 7 = 82#7) :
    decodeLone w = accept (w.extractLsb' 55 9 == 0 && w.extractLsb' 32 18 == 0 && w.extractLsb' 5 5 == 0 && w.extractLsb' 0 5 == 0)
      (.vneg (w.extractLsb' 20 4) (w.extractLsb' 15 5) (w.extractLsb' 10 5) (w.extractLsb' 51 4) (w.getLsbD 50)) := by
  unfold decodeLone; rw [h]; rfl

theorem vneg (la td ta te sati) : Statement (.vneg la td ta te sati) := by
  intro hw c h
  cases h
  have hb : (0#9 ++ te ++ (ofBool sati) ++ 0#18 ++ 1#1 ++ 82#7 ++ la ++ td ++ ta ++ 0#5 ++ 0#5).getLsbD 31 = true := by
    simp (disch := decide) only [get_hi, get_lo]; rfl
  rw [decodeCode, if_pos hb, at_vneg (by simp (disch := decide) only [ext_hi, ext_lo, ext_self])]
  simp (disch := decide) only [get_hi, get_lo, get_ofBool, ext_hi, ext_lo, ext_self]
  exact accept_ok rfl hw

theorem at_vand {w : BitVec 64} (h : w.extractLsb' 24 7 = 83#7) :
    decodeLone w = accept (w.extractLsb' 55 3 == 0 && w.extractLsb' 50 1 == 0 && w.extractLsb' 32 17 == 0 && w.extractLsb' 0 5 == 0)
      (.vand (w.extractLsb' 20 4) (w.extractLsb' 15 5) (w.extractLsb' 10 5) (w.extractLsb' 5 5) (w.extractLsb' 58 6) (w.extractLsb' 51 4) (w.getLsbD 49)) := by
  unfold decodeLone; rw [h]; rfl

theorem vand (la td ta tb gx te bc) : Statement (.vand la td ta tb gx te bc) := by
  intro hw c h
  cases h
  have hb : (gx ++ 0#3 ++ te ++ 0#1 ++ (ofBool bc) ++ 0#17 ++ 1#1 ++ 83#7 ++ la ++ td ++ ta ++ tb ++ 0#5).getLsbD 31 = true := by
    simp (disch := decide) only [get_hi, get_lo]; rfl
  rw [decodeCode, if_pos hb, at_vand (by simp (disch := decide) only [ext_hi, ext_lo, ext_self])]
  simp (disch := decide) only [get_hi, get_lo, get_ofBool, ext_hi, ext_lo, ext_self]
  exact accept_ok rfl hw

theorem at_vor {w : BitVec 64} (h : w.extractLsb' 24 7 = 84#7) :
    decodeLone w = accept (w.extractLsb' 55 3 == 0 && w.extractLsb' 50 1 == 0 && w.extractLsb' 32 17 == 0 && w.extractLsb' 0 5 == 0)
      (.vor (w.extractLsb' 20 4) (w.extractLsb' 15 5) (w.extractLsb' 10 5) (w.extractLsb' 5 5) (w.extractLsb' 58 6) (w.extractLsb' 51 4) (w.getLsbD 49)) := by
  unfold decodeLone; rw [h]; rfl

theorem vor (la td ta tb gx te bc) : Statement (.vor la td ta tb gx te bc) := by
  intro hw c h
  cases h
  have hb : (gx ++ 0#3 ++ te ++ 0#1 ++ (ofBool bc) ++ 0#17 ++ 1#1 ++ 84#7 ++ la ++ td ++ ta ++ tb ++ 0#5).getLsbD 31 = true := by
    simp (disch := decide) only [get_hi, get_lo]; rfl
  rw [decodeCode, if_pos hb, at_vor (by simp (disch := decide) only [ext_hi, ext_lo, ext_self])]
  simp (disch := decide) only [get_hi, get_lo, get_ofBool, ext_hi, ext_lo, ext_self]
  exact accept_ok rfl hw

theorem at_vxor {w : BitVec 64} (h : w.extractLsb' 24 7 = 85#7) :
    decodeLone w = accept (w.extractLsb' 55 3 == 0 && w.extractLsb' 50 1 == 0 && w.extractLsb' 32 17 == 0 && w.extractLsb' 0 5 == 0)
      (.vxor (w.extractLsb' 20 4) (w.extractLsb' 15 5) (w.extractLsb' 10 5) (w.extractLsb' 5 5) (w.extractLsb' 58 6) (w.extractLsb' 51 4) (w.getLsbD 49)) := by
  unfold decodeLone; rw [h]; rfl

theorem vxor (la td ta tb gx te bc) : Statement (.vxor la td ta tb gx te bc) := by
  intro hw c h
  cases h
  have hb : (gx ++ 0#3 ++ te ++ 0#1 ++ (ofBool bc) ++ 0#17 ++ 1#1 ++ 85#7 ++ la ++ td ++ ta ++ tb ++ 0#5).getLsbD 31 = true := by
    simp (disch := decide) only [get_hi, get_lo]; rfl
  rw [decodeCode, if_pos hb, at_vxor (by simp (disch := decide) only [ext_hi, ext_lo, ext_self])]
  simp (disch := decide) only [get_hi, get_lo, get_ofBool, ext_hi, ext_lo, ext_self]
  exact accept_ok rfl hw

theorem at_vshl {w : BitVec 64} (h : w.extractLsb' 24 7 = 86#7) :
    decodeLone w = accept (w.extractLsb' 55 3 == 0 && w.extractLsb' 50 1 == 0 && w.extractLsb' 32 17 == 0 && w.extractLsb' 0 5 == 0)
      (.vshl (w.extractLsb' 20 4) (w.extractLsb' 15 5) (w.extractLsb' 10 5) (w.extractLsb' 5 5) (w.extractLsb' 58 6) (w.extractLsb' 51 4) (w.getLsbD 49)) := by
  unfold decodeLone; rw [h]; rfl

theorem vshl (la td ta tb gx te bc) : Statement (.vshl la td ta tb gx te bc) := by
  intro hw c h
  cases h
  have hb : (gx ++ 0#3 ++ te ++ 0#1 ++ (ofBool bc) ++ 0#17 ++ 1#1 ++ 86#7 ++ la ++ td ++ ta ++ tb ++ 0#5).getLsbD 31 = true := by
    simp (disch := decide) only [get_hi, get_lo]; rfl
  rw [decodeCode, if_pos hb, at_vshl (by simp (disch := decide) only [ext_hi, ext_lo, ext_self])]
  simp (disch := decide) only [get_hi, get_lo, get_ofBool, ext_hi, ext_lo, ext_self]
  exact accept_ok rfl hw

theorem at_vshr {w : BitVec 64} (h : w.extractLsb' 24 7 = 87#7) :
    decodeLone w = accept (w.extractLsb' 55 3 == 0 && w.extractLsb' 32 17 == 0 && w.extractLsb' 0 5 == 0)
      (.vshr (w.extractLsb' 20 4) (w.extractLsb' 15 5) (w.extractLsb' 10 5) (w.extractLsb' 5 5) (w.extractLsb' 58 6) (w.extractLsb' 51 4) (w.getLsbD 50) (w.getLsbD 49)) := by
  unfold decodeLone; rw [h]; rfl

theorem vshr (la td ta tb gx te arith bc) : Statement (.vshr la td ta tb gx te arith bc) := by
  intro hw c h
  cases h
  have hb : (gx ++ 0#3 ++ te ++ (ofBool arith) ++ (ofBool bc) ++ 0#17 ++ 1#1 ++ 87#7 ++ la ++ td ++ ta ++ tb ++ 0#5).getLsbD 31 = true := by
    simp (disch := decide) only [get_hi, get_lo]; rfl
  rw [decodeCode, if_pos hb, at_vshr (by simp (disch := decide) only [ext_hi, ext_lo, ext_self])]
  simp (disch := decide) only [get_hi, get_lo, get_ofBool, ext_hi, ext_lo, ext_self]
  exact accept_ok rfl hw

theorem at_vcvt {w : BitVec 64} (h : w.extractLsb' 24 7 = 88#7) :
    decodeLone w = accept (w.extractLsb' 58 6 == 0 && w.extractLsb' 40 11 == 0 && w.extractLsb' 5 5 == 0 && w.extractLsb' 0 5 == 0)
      (.vcvt (w.extractLsb' 20 4) (w.extractLsb' 15 5) (w.extractLsb' 10 5) (w.extractLsb' 55 3) (w.extractLsb' 51 4) (w.extractLsb' 36 4) (w.extractLsb' 32 4)) := by
  unfold decodeLone; rw [h]; rfl

theorem vcvt (la td ta rm te ste part) : Statement (.vcvt la td ta rm te ste part) := by
  intro hw c h
  cases h
  have hb : (0#6 ++ rm ++ te ++ 0#11 ++ ste ++ part ++ 1#1 ++ 88#7 ++ la ++ td ++ ta ++ 0#5 ++ 0#5).getLsbD 31 = true := by
    simp (disch := decide) only [get_hi, get_lo]; rfl
  rw [decodeCode, if_pos hb, at_vcvt (by simp (disch := decide) only [ext_hi, ext_lo, ext_self])]
  simp (disch := decide) only [get_hi, get_lo, get_ofBool, ext_hi, ext_lo, ext_self]
  exact accept_ok rfl hw

theorem at_vrsum {w : BitVec 64} (h : w.extractLsb' 24 7 = 89#7) :
    decodeLone w = accept (w.extractLsb' 58 6 == 0 && w.extractLsb' 32 19 == 0 && w.extractLsb' 5 5 == 0 && w.extractLsb' 0 5 == 0)
      (.vrsum (w.extractLsb' 20 4) (w.extractLsb' 15 5) (w.extractLsb' 10 5) (w.extractLsb' 55 3) (w.extractLsb' 51 4)) := by
  unfold decodeLone; rw [h]; rfl

theorem vrsum (la td ta rm te) : Statement (.vrsum la td ta rm te) := by
  intro hw c h
  cases h
  have hb : (0#6 ++ rm ++ te ++ 0#19 ++ 1#1 ++ 89#7 ++ la ++ td ++ ta ++ 0#5 ++ 0#5).getLsbD 31 = true := by
    simp (disch := decide) only [get_hi, get_lo]; rfl
  rw [decodeCode, if_pos hb, at_vrsum (by simp (disch := decide) only [ext_hi, ext_lo, ext_self])]
  simp (disch := decide) only [get_hi, get_lo, get_ofBool, ext_hi, ext_lo, ext_self]
  exact accept_ok rfl hw

theorem at_vrmax {w : BitVec 64} (h : w.extractLsb' 24 7 = 90#7) :
    decodeLone w = accept (w.extractLsb' 55 9 == 0 && w.extractLsb' 32 19 == 0 && w.extractLsb' 5 5 == 0 && w.extractLsb' 0 5 == 0)
      (.vrmax (w.extractLsb' 20 4) (w.extractLsb' 15 5) (w.extractLsb' 10 5) (w.extractLsb' 51 4)) := by
  unfold decodeLone; rw [h]; rfl

theorem vrmax (la td ta te) : Statement (.vrmax la td ta te) := by
  intro hw c h
  cases h
  have hb : (0#9 ++ te ++ 0#19 ++ 1#1 ++ 90#7 ++ la ++ td ++ ta ++ 0#5 ++ 0#5).getLsbD 31 = true := by
    simp (disch := decide) only [get_hi, get_lo]; rfl
  rw [decodeCode, if_pos hb, at_vrmax (by simp (disch := decide) only [ext_hi, ext_lo, ext_self])]
  simp (disch := decide) only [get_hi, get_lo, get_ofBool, ext_hi, ext_lo, ext_self]
  exact accept_ok rfl hw

theorem at_vtrans {w : BitVec 64} (h : w.extractLsb' 24 7 = 91#7) :
    decodeLone w = accept (w.extractLsb' 55 9 == 0 && w.extractLsb' 33 18 == 0 && w.extractLsb' 0 5 == 0)
      (.vtrans (w.extractLsb' 20 4) (w.extractLsb' 15 5) (w.extractLsb' 10 5) (w.extractLsb' 5 5) (w.extractLsb' 51 4) (w.getLsbD 32)) := by
  unfold decodeLone; rw [h]; rfl

theorem vtrans (la td ta tb te h) : Statement (.vtrans la td ta tb te h) := by
  intro hw c h
  cases h
  have hb : (0#9 ++ te ++ 0#18 ++ (ofBool h) ++ 1#1 ++ 91#7 ++ la ++ td ++ ta ++ tb ++ 0#5).getLsbD 31 = true := by
    simp (disch := decide) only [get_hi, get_lo]; rfl
  rw [decodeCode, if_pos hb, at_vtrans (by simp (disch := decide) only [ext_hi, ext_lo, ext_self])]
  simp (disch := decide) only [get_hi, get_lo, get_ofBool, ext_hi, ext_lo, ext_self]
  exact accept_ok rfl hw

theorem at_mxpack {w : BitVec 64} (h : w.extractLsb' 24 7 = 92#7) :
    decodeLone w = accept (w.extractLsb' 58 6 == 0 && w.extractLsb' 35 16 == 0 && w.extractLsb' 5 5 == 0)
      (.mxpack (w.extractLsb' 20 4) (w.extractLsb' 15 5) (w.extractLsb' 10 5) (w.extractLsb' 0 5) (w.extractLsb' 55 3) (w.extractLsb' 51 4) (w.extractLsb' 32 3)) := by
  unfold decodeLone; rw [h]; rfl

theorem mxpack (la td ta tc rm te part) : Statement (.mxpack la td ta tc rm te part) := by
  intro hw c h
  cases h
  have hb : (0#6 ++ rm ++ te ++ 0#16 ++ part ++ 1#1 ++ 92#7 ++ la ++ td ++ ta ++ 0#5 ++ tc).getLsbD 31 = true := by
    simp (disch := decide) only [get_hi, get_lo]; rfl
  rw [decodeCode, if_pos hb, at_mxpack (by simp (disch := decide) only [ext_hi, ext_lo, ext_self])]
  simp (disch := decide) only [get_hi, get_lo, get_ofBool, ext_hi, ext_lo, ext_self]
  exact accept_ok rfl hw

theorem at_mxunpk {w : BitVec 64} (h : w.extractLsb' 24 7 = 93#7) :
    decodeLone w = accept (w.extractLsb' 58 6 == 0 && w.extractLsb' 35 16 == 0 && w.extractLsb' 5 5 == 0)
      (.mxunpk (w.extractLsb' 20 4) (w.extractLsb' 15 5) (w.extractLsb' 10 5) (w.extractLsb' 0 5) (w.extractLsb' 55 3) (w.extractLsb' 51 4) (w.extractLsb' 32 3)) := by
  unfold decodeLone; rw [h]; rfl

theorem mxunpk (la td ta tc rm te part) : Statement (.mxunpk la td ta tc rm te part) := by
  intro hw c h
  cases h
  have hb : (0#6 ++ rm ++ te ++ 0#16 ++ part ++ 1#1 ++ 93#7 ++ la ++ td ++ ta ++ 0#5 ++ tc).getLsbD 31 = true := by
    simp (disch := decide) only [get_hi, get_lo]; rfl
  rw [decodeCode, if_pos hb, at_mxunpk (by simp (disch := decide) only [ext_hi, ext_lo, ext_self])]
  simp (disch := decide) only [get_hi, get_lo, get_ofBool, ext_hi, ext_lo, ext_self]
  exact accept_ok rfl hw

theorem at_vscal {w : BitVec 64} (h : w.extractLsb' 24 7 = 94#7) :
    decodeLone w = accept (w.extractLsb' 58 6 == 0 && w.extractLsb' 32 19 == 0)
      (.vscal (w.extractLsb' 20 4) (w.extractLsb' 15 5) (w.extractLsb' 10 5) (w.extractLsb' 5 5) (w.extractLsb' 0 5) (w.extractLsb' 55 3) (w.extractLsb' 51 4)) := by
  unfold decodeLone; rw [h]; rfl

theorem vscal (la td ta tb tc rm te) : Statement (.vscal la td ta tb tc rm te) := by
  intro hw c h
  cases h
  have hb : (0#6 ++ rm ++ te ++ 0#19 ++ 1#1 ++ 94#7 ++ la ++ td ++ ta ++ tb ++ tc).getLsbD 31 = true := by
    simp (disch := decide) only [get_hi, get_lo]; rfl
  rw [decodeCode, if_pos hb, at_vscal (by simp (disch := decide) only [ext_hi, ext_lo, ext_self])]
  simp (disch := decide) only [get_hi, get_lo, get_ofBool, ext_hi, ext_lo, ext_self]
  exact accept_ok rfl hw

theorem at_mcfg {w : BitVec 64} (h : w.extractLsb' 24 7 = 96#7) :
    decodeLone w = accept (w.extractLsb' 38 17 == 0 && w.extractLsb' 20 4 == 0 && w.extractLsb' 15 5 == 0 && w.extractLsb' 10 5 == 0 && w.extractLsb' 5 5 == 0 && w.extractLsb' 0 5 == 0)
      (.mcfg (w.extractLsb' 58 6) (w.extractLsb' 55 3) (w.getLsbD 37) (w.getLsbD 36) (w.extractLsb' 34 2) (w.extractLsb' 32 2)) := by
  unfold decodeLone; rw [h]; rfl

theorem mcfg (gx c as bs fa fb) : Statement (.mcfg gx c as bs fa fb) := by
  intro hw c h
  cases h
  have hb : (gx ++ c ++ 0#17 ++ (ofBool as) ++ (ofBool bs) ++ fa ++ fb ++ 1#1 ++ 96#7 ++ 0#4 ++ 0#5 ++ 0#5 ++ 0#5 ++ 0#5).getLsbD 31 = true := by
    simp (disch := decide) only [get_hi, get_lo]; rfl
  rw [decodeCode, if_pos hb, at_mcfg (by simp (disch := decide) only [ext_hi, ext_lo, ext_self])]
  simp (disch := decide) only [get_hi, get_lo, get_ofBool, ext_hi, ext_lo, ext_self]
  exact accept_ok rfl hw

theorem at_mmul {w : BitVec 64} (h : w.extractLsb' 24 7 = 97#7) :
    decodeLone w = accept (w.extractLsb' 34 18 == 0 && w.extractLsb' 15 5 == 0 && w.extractLsb' 0 5 == 0)
      (.mmul (w.extractLsb' 20 4) (w.extractLsb' 10 5) (w.extractLsb' 5 5) (w.extractLsb' 58 6) (w.extractLsb' 55 3) (w.extractLsb' 53 2) (w.getLsbD 52) (w.extractLsb' 32 2)) := by
  unfold decodeLone; rw [h]; rfl

theorem mmul (la ta tb gx c sub zero mode) : Statement (.mmul la ta tb gx c sub zero mode) := by
  intro hw c h
  cases h
  have hb : (gx ++ c ++ sub ++ (ofBool zero) ++ 0#18 ++ mode ++ 1#1 ++ 97#7 ++ la ++ 0#5 ++ ta ++ tb ++ 0#5).getLsbD 31 = true := by
    simp (disch := decide) only [get_hi, get_lo]; rfl
  rw [decodeCode, if_pos hb, at_mmul (by simp (disch := decide) only [ext_hi, ext_lo, ext_self])]
  simp (disch := decide) only [get_hi, get_lo, get_ofBool, ext_hi, ext_lo, ext_self]
  exact accept_ok rfl hw

theorem at_msend {w : BitVec 64} (h : w.extractLsb' 24 7 = 98#7) :
    decodeLone w = accept (w.extractLsb' 0 5 == 0)
      (.msend (w.extractLsb' 20 4) (w.extractLsb' 15 5) (w.extractLsb' 10 5) (w.extractLsb' 5 5) (w.extractLsb' 58 6) (w.extractLsb' 55 3) (w.extractLsb' 53 2) (w.getLsbD 52) (w.extractLsb' 50 2) (w.extractLsb' 32 18)) := by
  unfold decodeLone; rw [h]; rfl

theorem msend (la td ta tb gx c sub zero kind ext) : Statement (.msend la td ta tb gx c sub zero kind ext) := by
  intro hw c h
  cases h
  have hb : (gx ++ c ++ sub ++ (ofBool zero) ++ kind ++ ext ++ 1#1 ++ 98#7 ++ la ++ td ++ ta ++ tb ++ 0#5).getLsbD 31 = true := by
    simp (disch := decide) only [get_hi, get_lo]; rfl
  rw [decodeCode, if_pos hb, at_msend (by simp (disch := decide) only [ext_hi, ext_lo, ext_self])]
  simp (disch := decide) only [get_hi, get_lo, get_ofBool, ext_hi, ext_lo, ext_self]
  exact accept_ok rfl hw

theorem at_acget {w : BitVec 64} (h : w.extractLsb' 24 7 = 99#7) :
    decodeLone w = accept (w.extractLsb' 58 6 == 0 && w.extractLsb' 50 1 == 0 && w.extractLsb' 10 5 == 0 && w.extractLsb' 5 5 == 0 && w.extractLsb' 0 5 == 0)
      (.acget (w.extractLsb' 20 4) (w.extractLsb' 15 5) (w.extractLsb' 55 3) (w.extractLsb' 51 4) (w.extractLsb' 41 9) (w.extractLsb' 32 9)) := by
  unfold decodeLone; rw [h]; rfl

theorem acget (la td rm te row col) : Statement (.acget la td rm te row col) := by
  intro hw c h
  cases h
  have hb : (0#6 ++ rm ++ te ++ 0#1 ++ row ++ col ++ 1#1 ++ 99#7 ++ la ++ td ++ 0#5 ++ 0#5 ++ 0#5).getLsbD 31 = true := by
    simp (disch := decide) only [get_hi, get_lo]; rfl
  rw [decodeCode, if_pos hb, at_acget (by simp (disch := decide) only [ext_hi, ext_lo, ext_self])]
  simp (disch := decide) only [get_hi, get_lo, get_ofBool, ext_hi, ext_lo, ext_self]
  exact accept_ok rfl hw

theorem at_acput {w : BitVec 64} (h : w.extractLsb' 24 7 = 100#7) :
    decodeLone w = accept (w.extractLsb' 50 14 == 0 && w.extractLsb' 15 5 == 0 && w.extractLsb' 5 5 == 0 && w.extractLsb' 0 5 == 0)
      (.acput (w.extractLsb' 20 4) (w.extractLsb' 10 5) (w.extractLsb' 41 9) (w.extractLsb' 32 9)) := by
  unfold decodeLone; rw [h]; rfl

theorem acput (la ta row col) : Statement (.acput la ta row col) := by
  intro hw c h
  cases h
  have hb : (0#14 ++ row ++ col ++ 1#1 ++ 100#7 ++ la ++ 0#5 ++ ta ++ 0#5 ++ 0#5).getLsbD 31 = true := by
    simp (disch := decide) only [get_hi, get_lo]; rfl
  rw [decodeCode, if_pos hb, at_acput (by simp (disch := decide) only [ext_hi, ext_lo, ext_self])]
  simp (disch := decide) only [get_hi, get_lo, get_ofBool, ext_hi, ext_lo, ext_self]
  exact accept_ok rfl hw

theorem at_aczero {w : BitVec 64} (h : w.extractLsb' 24 7 = 101#7) :
    decodeLone w = accept (w.extractLsb' 58 6 == 0 && w.extractLsb' 15 5 == 0 && w.extractLsb' 10 5 == 0 && w.extractLsb' 5 5 == 0 && w.extractLsb' 0 5 == 0)
      (.aczero (w.extractLsb' 20 4) (w.extractLsb' 41 9) (w.extractLsb' 32 9) (w.extractLsb' 54 4) (w.extractLsb' 50 4)) := by
  unfold decodeLone; rw [h]; rfl

theorem aczero (la row col h1 w1) : Statement (.aczero la row col h1 w1) := by
  intro hw c h
  cases h
  have hb : (0#6 ++ h1 ++ w1 ++ row ++ col ++ 1#1 ++ 101#7 ++ la ++ 0#5 ++ 0#5 ++ 0#5 ++ 0#5).getLsbD 31 = true := by
    simp (disch := decide) only [get_hi, get_lo]; rfl
  rw [decodeCode, if_pos hb, at_aczero (by simp (disch := decide) only [ext_hi, ext_lo, ext_self])]
  simp (disch := decide) only [get_hi, get_lo, get_ofBool, ext_hi, ext_lo, ext_self]
  exact accept_ok rfl hw

theorem at_amerge {w : BitVec 64} (h : w.extractLsb' 24 7 = 102#7) :
    decodeLone w = accept (w.extractLsb' 41 23 == 0 && w.extractLsb' 32 4 == 0 && w.extractLsb' 0 5 == 0)
      (.amerge (w.extractLsb' 20 4) (w.extractLsb' 15 5) (w.extractLsb' 10 5) (w.extractLsb' 5 5) (w.extractLsb' 36 5)) := by
  unfold decodeLone; rw [h]; rfl

theorem amerge (la td ta tb d16) : Statement (.amerge la td ta tb d16) := by
  intro hw c h
  cases h
  have hb : (0#23 ++ d16 ++ 0#4 ++ 1#1 ++ 102#7 ++ la ++ td ++ ta ++ tb ++ 0#5).getLsbD 31 = true := by
    simp (disch := decide) only [get_hi, get_lo]; rfl
  rw [decodeCode, if_pos hb, at_amerge (by simp (disch := decide) only [ext_hi, ext_lo, ext_self])]
  simp (disch := decide) only [get_hi, get_lo, get_ofBool, ext_hi, ext_lo, ext_self]
  exact accept_ok rfl hw

theorem at_anorm {w : BitVec 64} (h : w.extractLsb' 24 7 = 103#7) :
    decodeLone w = accept (w.extractLsb' 41 23 == 0 && w.extractLsb' 32 4 == 0 && w.extractLsb' 5 5 == 0 && w.extractLsb' 0 5 == 0)
      (.anorm (w.extractLsb' 20 4) (w.extractLsb' 15 5) (w.extractLsb' 10 5) (w.extractLsb' 36 5)) := by
  unfold decodeLone; rw [h]; rfl

theorem anorm (la td ta d16) : Statement (.anorm la td ta d16) := by
  intro hw c h
  cases h
  have hb : (0#23 ++ d16 ++ 0#4 ++ 1#1 ++ 103#7 ++ la ++ td ++ ta ++ 0#5 ++ 0#5).getLsbD 31 = true := by
    simp (disch := decide) only [get_hi, get_lo]; rfl
  rw [decodeCode, if_pos hb, at_anorm (by simp (disch := decide) only [ext_hi, ext_lo, ext_self])]
  simp (disch := decide) only [get_hi, get_lo, get_ofBool, ext_hi, ext_lo, ext_self]
  exact accept_ok rfl hw

theorem at_slen {w : BitVec 64} (h : w.extractLsb' 24 7 = 112#7) :
    decodeLone w = accept (w.extractLsb' 34 30 == 0 && w.extractLsb' 20 4 == 0 && w.extractLsb' 12 4 == 0 && w.extractLsb' 8 4 == 0 && w.extractLsb' 4 4 == 0 && w.extractLsb' 0 4 == 0)
      (.slen (w.extractLsb' 16 4) (w.extractLsb' 32 2)) := by
  unfold decodeLone; rw [h]; rfl

theorem slen (qd len) : Statement (.slen qd len) := by
  intro hw c h
  cases h
  have hb : (0#30 ++ len ++ 1#1 ++ 112#7 ++ 0#4 ++ qd ++ 0#4 ++ 0#4 ++ 0#4 ++ 0#4).getLsbD 31 = true := by
    simp (disch := decide) only [get_hi, get_lo]; rfl
  rw [decodeCode, if_pos hb, at_slen (by simp (disch := decide) only [ext_hi, ext_lo, ext_self])]
  simp (disch := decide) only [get_hi, get_lo, get_ofBool, ext_hi, ext_lo, ext_self]
  exact accept_ok rfl hw

theorem at_sgen {w : BitVec 64} (h : w.extractLsb' 24 7 = 113#7) :
    decodeLone w = accept (w.extractLsb' 49 9 == 0 && w.extractLsb' 12 4 == 0 && w.extractLsb' 8 4 == 0 && w.extractLsb' 4 4 == 0 && w.extractLsb' 0 4 == 0)
      (.sgen (w.extractLsb' 20 4) (w.extractLsb' 16 4) (w.extractLsb' 58 6) (w.extractLsb' 32 5) (w.extractLsb' 37 5) (w.getLsbD 42) (w.extractLsb' 43 6)) := by
  unfold decodeLone; rw [h]; rfl

theorem sgen (la qd gx ts row bip src) : Statement (.sgen la qd gx ts row bip src) := by
  intro hw c h
  cases h
  have hb : (gx ++ 0#9 ++ src ++ (ofBool bip) ++ row ++ ts ++ 1#1 ++ 113#7 ++ la ++ qd ++ 0#4 ++ 0#4 ++ 0#4 ++ 0#4).getLsbD 31 = true := by
    simp (disch := decide) only [get_hi, get_lo]; rfl
  rw [decodeCode, if_pos hb, at_sgen (by simp (disch := decide) only [ext_hi, ext_lo, ext_self])]
  simp (disch := decide) only [get_hi, get_lo, get_ofBool, ext_hi, ext_lo, ext_self]
  exact accept_ok rfl hw

theorem at_sand {w : BitVec 64} (h : w.extractLsb' 24 7 = 114#7) :
    decodeLone w = accept (w.extractLsb' 32 32 == 0 && w.extractLsb' 4 4 == 0 && w.extractLsb' 0 4 == 0)
      (.sand (w.extractLsb' 20 4) (w.extractLsb' 16 4) (w.extractLsb' 12 4) (w.extractLsb' 8 4)) := by
  unfold decodeLone; rw [h]; rfl

theorem sand (la qd qa qb) : Statement (.sand la qd qa qb) := by
  intro hw c h
  cases h
  have hb : (0#32 ++ 1#1 ++ 114#7 ++ la ++ qd ++ qa ++ qb ++ 0#4 ++ 0#4).getLsbD 31 = true := by
    simp (disch := decide) only [get_hi, get_lo]; rfl
  rw [decodeCode, if_pos hb, at_sand (by simp (disch := decide) only [ext_hi, ext_lo, ext_self])]
  simp (disch := decide) only [get_hi, get_lo, get_ofBool, ext_hi, ext_lo, ext_self]
  exact accept_ok rfl hw

theorem at_sxnor {w : BitVec 64} (h : w.extractLsb' 24 7 = 115#7) :
    decodeLone w = accept (w.extractLsb' 32 32 == 0 && w.extractLsb' 4 4 == 0 && w.extractLsb' 0 4 == 0)
      (.sxnor (w.extractLsb' 20 4) (w.extractLsb' 16 4) (w.extractLsb' 12 4) (w.extractLsb' 8 4)) := by
  unfold decodeLone; rw [h]; rfl

theorem sxnor (la qd qa qb) : Statement (.sxnor la qd qa qb) := by
  intro hw c h
  cases h
  have hb : (0#32 ++ 1#1 ++ 115#7 ++ la ++ qd ++ qa ++ qb ++ 0#4 ++ 0#4).getLsbD 31 = true := by
    simp (disch := decide) only [get_hi, get_lo]; rfl
  rw [decodeCode, if_pos hb, at_sxnor (by simp (disch := decide) only [ext_hi, ext_lo, ext_self])]
  simp (disch := decide) only [get_hi, get_lo, get_ofBool, ext_hi, ext_lo, ext_self]
  exact accept_ok rfl hw

theorem at_smux {w : BitVec 64} (h : w.extractLsb' 24 7 = 116#7) :
    decodeLone w = accept (w.extractLsb' 32 32 == 0 && w.extractLsb' 0 4 == 0)
      (.smux (w.extractLsb' 20 4) (w.extractLsb' 16 4) (w.extractLsb' 12 4) (w.extractLsb' 8 4) (w.extractLsb' 4 4)) := by
  unfold decodeLone; rw [h]; rfl

theorem smux (la qd qa qb qc) : Statement (.smux la qd qa qb qc) := by
  intro hw c h
  cases h
  have hb : (0#32 ++ 1#1 ++ 116#7 ++ la ++ qd ++ qa ++ qb ++ qc ++ 0#4).getLsbD 31 = true := by
    simp (disch := decide) only [get_hi, get_lo]; rfl
  rw [decodeCode, if_pos hb, at_smux (by simp (disch := decide) only [ext_hi, ext_lo, ext_self])]
  simp (disch := decide) only [get_hi, get_lo, get_ofBool, ext_hi, ext_lo, ext_self]
  exact accept_ok rfl hw

theorem at_scnt {w : BitVec 64} (h : w.extractLsb' 24 7 = 117#7) :
    decodeLone w = accept (w.extractLsb' 44 20 == 0 && w.extractLsb' 16 4 == 0 && w.extractLsb' 8 4 == 0 && w.extractLsb' 4 4 == 0 && w.extractLsb' 0 4 == 0)
      (.scnt (w.extractLsb' 20 4) (w.extractLsb' 12 4) (w.extractLsb' 32 5) (w.extractLsb' 37 5) (w.extractLsb' 42 2)) := by
  unfold decodeLone; rw [h]; rfl

theorem scnt (la qa td row out) : Statement (.scnt la qa td row out) := by
  intro hw c h
  cases h
  have hb : (0#20 ++ out ++ row ++ td ++ 1#1 ++ 117#7 ++ la ++ 0#4 ++ qa ++ 0#4 ++ 0#4 ++ 0#4).getLsbD 31 = true := by
    simp (disch := decide) only [get_hi, get_lo]; rfl
  rw [decodeCode, if_pos hb, at_scnt (by simp (disch := decide) only [ext_hi, ext_lo, ext_self])]
  simp (disch := decide) only [get_hi, get_lo, get_ofBool, ext_hi, ext_lo, ext_self]
  exact accept_ok rfl hw

theorem at_sregen {w : BitVec 64} (h : w.extractLsb' 24 7 = 118#7) :
    decodeLone w = accept (w.extractLsb' 49 9 == 0 && w.extractLsb' 32 11 == 0 && w.extractLsb' 8 4 == 0 && w.extractLsb' 4 4 == 0 && w.extractLsb' 0 4 == 0)
      (.sregen (w.extractLsb' 20 4) (w.extractLsb' 16 4) (w.extractLsb' 12 4) (w.extractLsb' 58 6) (w.extractLsb' 43 6)) := by
  unfold decodeLone; rw [h]; rfl

theorem sregen (la qd qa gx src) : Statement (.sregen la qd qa gx src) := by
  intro hw c h
  cases h
  have hb : (gx ++ 0#9 ++ src ++ 0#11 ++ 1#1 ++ 118#7 ++ la ++ qd ++ qa ++ 0#4 ++ 0#4 ++ 0#4).getLsbD 31 = true := by
    simp (disch := decide) only [get_hi, get_lo]; rfl
  rw [decodeCode, if_pos hb, at_sregen (by simp (disch := decide) only [ext_hi, ext_lo, ext_self])]
  simp (disch := decide) only [get_hi, get_lo, get_ofBool, ext_hi, ext_lo, ext_self]
  exact accept_ok rfl hw

theorem powerOn : Statement (.powerOn) := fun _ _ h => nomatch h

theorem moduleReset : Statement (.moduleReset) := fun _ _ h => nomatch h

theorem cellRelease (x0) : Statement (.cellRelease x0) := fun _ _ h => nomatch h

theorem sensorConversion (x0 x1 x2) : Statement (.sensorConversion x0 x1 x2) := fun _ _ h => nomatch h

theorem criticalHalt (x0) : Statement (.criticalHalt x0) := fun _ _ h => nomatch h

theorem criticalResume (x0) : Statement (.criticalResume x0) := fun _ _ h => nomatch h

theorem throttleStepDown (x0) : Statement (.throttleStepDown x0) := fun _ _ h => nomatch h

theorem throttleStepUp (x0) : Statement (.throttleStepUp x0) := fun _ _ h => nomatch h

theorem warmLoopEval (x0) : Statement (.warmLoopEval x0) := fun _ _ h => nomatch h

theorem powerLimitEval (x0) : Statement (.powerLimitEval x0) := fun _ _ h => nomatch h

theorem clockStepApply (x0) : Statement (.clockStepApply x0) := fun _ _ h => nomatch h

theorem ballastSetpoint (x0 x1) : Statement (.ballastSetpoint x0 x1) := fun _ _ h => nomatch h

theorem ballastWindow (x0) : Statement (.ballastWindow x0) := fun _ _ h => nomatch h

theorem hbmTempReading (x0 x1) : Statement (.hbmTempReading x0 x1) := fun _ _ h => nomatch h

theorem linkFrameReceive (x0 x1) : Statement (.linkFrameReceive x0 x1) := fun _ _ h => nomatch h

theorem apply (x0) : Statement (.apply x0) := fun _ _ h => nomatch h

theorem rehashComplete (x0) : Statement (.rehashComplete x0) := fun _ _ h => nomatch h

theorem clrcnt (x0) : Statement (.clrcnt x0) := fun _ _ h => nomatch h

theorem hxmWrite (x0 x1 x2) : Statement (.hxmWrite x0 x1 x2) := fun _ _ h => nomatch h

theorem elheadWrite (x0 x1) : Statement (.elheadWrite x0 x1) := fun _ _ h => nomatch h

theorem dahliaAdmit (x0 x1) : Statement (.dahliaAdmit x0 x1) := fun _ _ h => nomatch h

theorem migrationRetry (x0 x1) : Statement (.migrationRetry x0 x1) := fun _ _ h => nomatch h

theorem lingerReturn (x0 x1) : Statement (.lingerReturn x0 x1) := fun _ _ h => nomatch h

theorem migrationDepart (x0 x1) : Statement (.migrationDepart x0 x1) := fun _ _ h => nomatch h

theorem banksideStart (x0) : Statement (.banksideStart x0) := fun _ _ h => nomatch h

theorem banksideComplete (x0) : Statement (.banksideComplete x0) := fun _ _ h => nomatch h

theorem burstReceive (x0 x1 x2 x3) : Statement (.burstReceive x0 x1 x2 x3) := fun _ _ h => nomatch h

theorem nakRepeat (x0) : Statement (.nakRepeat x0) := fun _ _ h => nomatch h

theorem aseqTimer (x0) : Statement (.aseqTimer x0) := fun _ _ h => nomatch h

theorem totalsFlitSend (x0) : Statement (.totalsFlitSend x0) := fun _ _ h => nomatch h

theorem portSilenceTimeout (x0) : Statement (.portSilenceTimeout x0) := fun _ _ h => nomatch h

theorem laneCountClear : Statement (.laneCountClear) := fun _ _ h => nomatch h

theorem laneRepairStart (x0) : Statement (.laneRepairStart x0) := fun _ _ h => nomatch h

theorem laneSwitchComplete (x0) : Statement (.laneSwitchComplete x0) := fun _ _ h => nomatch h

theorem rewiden (x0) : Statement (.rewiden x0) := fun _ _ h => nomatch h

theorem rewidenComplete (x0 x1) : Statement (.rewidenComplete x0 x1) := fun _ _ h => nomatch h

theorem portDisable (x0) : Statement (.portDisable x0) := fun _ _ h => nomatch h

theorem portEnable (x0) : Statement (.portEnable x0) := fun _ _ h => nomatch h

theorem disableFlit (x0) : Statement (.disableFlit x0) := fun _ _ h => nomatch h

theorem farEndTraining (x0) : Statement (.farEndTraining x0) := fun _ _ h => nomatch h

theorem portTrained (x0) : Statement (.portTrained x0) := fun _ _ h => nomatch h

theorem packetForward (x0 x1) : Statement (.packetForward x0 x1) := fun _ _ h => nomatch h

theorem e2eGapTimeout (x0 x1) : Statement (.e2eGapTimeout x0 x1) := fun _ _ h => nomatch h

theorem retransmitTimeout (x0 x1) : Statement (.retransmitTimeout x0 x1) := fun _ _ h => nomatch h

theorem ack (x0 x1 x2) : Statement (.ack x0 x1 x2) := fun _ _ h => nomatch h

theorem nak (x0 x1 x2) : Statement (.nak x0 x1 x2) := fun _ _ h => nomatch h

theorem syn (x0 x1 x2 x3) : Statement (.syn x0 x1 x2 x3) := fun _ _ h => nomatch h

theorem resync (x0 x1 x2) : Statement (.resync x0 x1 x2) := fun _ _ h => nomatch h

theorem rtcmdWrite : Statement (.rtcmdWrite) := fun _ _ h => nomatch h

theorem rtcmdWriteComplete : Statement (.rtcmdWriteComplete) := fun _ _ h => nomatch h

theorem rtcmdRead : Statement (.rtcmdRead) := fun _ _ h => nomatch h

theorem fidWrite (x0) : Statement (.fidWrite x0) := fun _ _ h => nomatch h

theorem rdreq (x0) : Statement (.rdreq x0) := fun _ _ h => nomatch h

theorem rdresp (x0 x1 x2 x3 x4) : Statement (.rdresp x0 x1 x2 x3 x4) := fun _ _ h => nomatch h

theorem write (x0) : Statement (.write x0) := fun _ _ h => nomatch h

theorem wrdone (x0 x1 x2 x3) : Statement (.wrdone x0 x1 x2 x3) := fun _ _ h => nomatch h

theorem amo (x0) : Statement (.amo x0) := fun _ _ h => nomatch h

theorem amoreq (x0) : Statement (.amoreq x0) := fun _ _ h => nomatch h

theorem amoresp (x0 x1 x2 x3 x4) : Statement (.amoresp x0 x1 x2 x3 x4) := fun _ _ h => nomatch h

theorem syncst (x0) : Statement (.syncst x0) := fun _ _ h => nomatch h

theorem migrate (x0 x1 x2) : Statement (.migrate x0 x1 x2) := fun _ _ h => nomatch h

theorem mighome (x0 x1 x2 x3) : Statement (.mighome x0 x1 x2 x3) := fun _ _ h => nomatch h

theorem mignak (x0 x1) : Statement (.mignak x0 x1) := fun _ _ h => nomatch h

theorem copydata (x0) : Statement (.copydata x0) := fun _ _ h => nomatch h

theorem trapframe (x0 x1) : Statement (.trapframe x0 x1) := fun _ _ h => nomatch h

theorem tretframe (x0) : Statement (.tretframe x0) := fun _ _ h => nomatch h

theorem framedead (x0 x1 x2) : Statement (.framedead x0 x1 x2) := fun _ _ h => nomatch h

theorem digest (x0 x1 x2) : Statement (.digest x0 x1 x2) := fun _ _ h => nomatch h

theorem delta (x0 x1 x2) : Statement (.delta x0 x1 x2) := fun _ _ h => nomatch h

theorem deltac (x0 x1 x2 x3 x4 x5 x6) : Statement (.deltac x0 x1 x2 x3 x4 x5 x6) := fun _ _ h => nomatch h

theorem donor (x0 x1 x2) : Statement (.donor x0 x1 x2) := fun _ _ h => nomatch h

theorem rejoinSwitch (x0 x1 x2) : Statement (.rejoinSwitch x0 x1 x2) := fun _ _ h => nomatch h

theorem resetRejoin (x0 x1 x2) : Statement (.resetRejoin x0 x1 x2) := fun _ _ h => nomatch h

theorem deltaPartsTimeout (x0 x1 x2 x3 x4) : Statement (.deltaPartsTimeout x0 x1 x2 x3 x4) := fun _ _ h => nomatch h

theorem gossipRound (x0 x1 x2) : Statement (.gossipRound x0 x1 x2) := fun _ _ h => nomatch h

theorem frontierUpdate (x0 x1 x2) : Statement (.frontierUpdate x0 x1 x2) := fun _ _ h => nomatch h

theorem groupFold (x0 x1 x2) : Statement (.groupFold x0 x1 x2) := fun _ _ h => nomatch h

theorem ringPoll (x0 x1 x2) : Statement (.ringPoll x0 x1 x2) := fun _ _ h => nomatch h

theorem ringRotationTick (x0) : Statement (.ringRotationTick x0) := fun _ _ h => nomatch h

theorem callPacket (x0 x1 x2 x3 x4) : Statement (.callPacket x0 x1 x2 x3 x4) := fun _ _ h => nomatch h

theorem go (x0 x1 x2) : Statement (.go x0 x1 x2) := fun _ _ h => nomatch h

theorem mismatch (x0 x1 x2) : Statement (.mismatch x0 x1 x2) := fun _ _ h => nomatch h

theorem collectiveComplete (x0 x1 x2) : Statement (.collectiveComplete x0 x1 x2) := fun _ _ h => nomatch h

theorem collectivePeerTimeout (x0 x1 x2) : Statement (.collectivePeerTimeout x0 x1 x2) := fun _ _ h => nomatch h

theorem taskDispatch (x0) : Statement (.taskDispatch x0) := fun _ _ h => nomatch h

theorem taskOffer (x0 x1) : Statement (.taskOffer x0 x1) := fun _ _ h => nomatch h

theorem ballastKill (x0 x1) : Statement (.ballastKill x0 x1) := fun _ _ h => nomatch h

theorem taskEnd (x0) : Statement (.taskEnd x0) := fun _ _ h => nomatch h

theorem eventRecordProcess (x0 x1) : Statement (.eventRecordProcess x0 x1) := fun _ _ h => nomatch h

theorem cancel (x0) : Statement (.cancel x0) := fun _ _ h => nomatch h

theorem kill (x0) : Statement (.kill x0) := fun _ _ h => nomatch h

theorem cancelgraph (x0) : Statement (.cancelgraph x0) := fun _ _ h => nomatch h

theorem cheadWrite (x0 x1 x2) : Statement (.cheadWrite x0 x1 x2) := fun _ _ h => nomatch h

theorem copyRecordRead (x0 x1) : Statement (.copyRecordRead x0 x1) := fun _ _ h => nomatch h

theorem copyPacketSend (x0 x1) : Statement (.copyPacketSend x0 x1) := fun _ _ h => nomatch h

theorem copyOwnReread (x0 x1) : Statement (.copyOwnReread x0 x1) := fun _ _ h => nomatch h

theorem copyRecordComplete (x0 x1) : Statement (.copyRecordComplete x0 x1) := fun _ _ h => nomatch h

theorem cctlEnWrite (x0 x1 x2) : Statement (.cctlEnWrite x0 x1 x2) := fun _ _ h => nomatch h

theorem abort (x0 x1) : Statement (.abort x0 x1) := fun _ _ h => nomatch h

theorem loadReturn (x0 x1 x2) : Statement (.loadReturn x0 x1 x2) := fun _ _ h => nomatch h

theorem trapFrameSend (x0 x1) : Statement (.trapFrameSend x0 x1) := fun _ _ h => nomatch h

theorem trapFrameRetry (x0 x1) : Statement (.trapFrameRetry x0 x1) := fun _ _ h => nomatch h

theorem yieldEnd (x0 x1) : Statement (.yieldEnd x0 x1) := fun _ _ h => nomatch h

theorem meshMessageArrive (x0 x1) : Statement (.meshMessageArrive x0 x1) := fun _ _ h => nomatch h

theorem fillArrive (x0 x1 x2 x3) : Statement (.fillArrive x0 x1 x2 x3) := fun _ _ h => nomatch h

theorem fillRetry (x0 x1) : Statement (.fillRetry x0 x1) := fun _ _ h => nomatch h

theorem bankWake (x0 x1) : Statement (.bankWake x0 x1) := fun _ _ h => nomatch h

theorem bankPowerApply (x0 x1) : Statement (.bankPowerApply x0 x1) := fun _ _ h => nomatch h

theorem bankAutoRetention (x0 x1) : Statement (.bankAutoRetention x0 x1) := fun _ _ h => nomatch h

theorem matrixMessageArrive (x0 x1) : Statement (.matrixMessageArrive x0 x1) := fun _ _ h => nomatch h

theorem matrixCommandStart (x0) : Statement (.matrixCommandStart x0) := fun _ _ h => nomatch h

theorem matrixCommandFinish (x0 x1) : Statement (.matrixCommandFinish x0 x1) := fun _ _ h => nomatch h

theorem bankSwitch (x0) : Statement (.bankSwitch x0) := fun _ _ h => nomatch h

theorem bankSwitchComplete (x0) : Statement (.bankSwitchComplete x0) := fun _ _ h => nomatch h

theorem lazySwapUnit (x0 x1) : Statement (.lazySwapUnit x0 x1) := fun _ _ h => nomatch h

theorem dstopWrite (x0 x1) : Statement (.dstopWrite x0 x1) := fun _ _ h => nomatch h

theorem einjArm (x0) : Statement (.einjArm x0) := fun _ _ h => nomatch h

theorem einjDisarm (x0) : Statement (.einjDisarm x0) := fun _ _ h => nomatch h

theorem skewMeasure (x0 x1) : Statement (.skewMeasure x0 x1) := fun _ _ h => nomatch h

theorem traceSample (x0) : Statement (.traceSample x0) := fun _ _ h => nomatch h

theorem trace (x0 x1) : Statement (.trace x0 x1) := fun _ _ h => nomatch h

theorem tctlClear : Statement (.tctlClear) := fun _ _ h => nomatch h

theorem tctlFreeze (x0) : Statement (.tctlFreeze x0) := fun _ _ h => nomatch h

theorem map (x0) : Statement (.map x0) := fun _ _ h => nomatch h

theorem unmap (x0) : Statement (.unmap x0) := fun _ _ h => nomatch h

theorem protect (x0) : Statement (.protect x0) := fun _ _ h => nomatch h

theorem move (x0) : Statement (.move x0) := fun _ _ h => nomatch h

theorem pin (x0) : Statement (.pin x0) := fun _ _ h => nomatch h

theorem unpin (x0) : Statement (.unpin x0) := fun _ _ h => nomatch h

theorem flush (x0) : Statement (.flush x0) := fun _ _ h => nomatch h

theorem xcmdComplete (x0) : Statement (.xcmdComplete x0) := fun _ _ h => nomatch h

theorem placementInterval (x0) : Statement (.placementInterval x0) := fun _ _ h => nomatch h

theorem pageMoveSwitch (x0 x1) : Statement (.pageMoveSwitch x0 x1) := fun _ _ h => nomatch h

theorem backgroundFill (x0 x1) : Statement (.backgroundFill x0 x1) := fun _ _ h => nomatch h

theorem pageMoveFinish (x0 x1) : Statement (.pageMoveFinish x0 x1) := fun _ _ h => nomatch h

theorem ptrootWrite (x0 x1) : Statement (.ptrootWrite x0 x1) := fun _ _ h => nomatch h

theorem syncAccessPerform (x0) : Statement (.syncAccessPerform x0) := fun _ _ h => nomatch h

theorem syncRetry (x0 x1) : Statement (.syncRetry x0 x1) := fun _ _ h => nomatch h

theorem barrierWaitRetry (x0 x1) : Statement (.barrierWaitRetry x0 x1) := fun _ _ h => nomatch h

theorem partitionCreate (x0 x1) : Statement (.partitionCreate x0 x1) := fun _ _ h => nomatch h

theorem partitionEnd (x0 x1) : Statement (.partitionEnd x0 x1) := fun _ _ h => nomatch h

theorem fsrvWrite (x0 x1) : Statement (.fsrvWrite x0 x1) := fun _ _ h => nomatch h

theorem mreadPacket (x0 x1) : Statement (.mreadPacket x0 x1) := fun _ _ h => nomatch h

theorem mwrite (x0 x1 x2) : Statement (.mwrite x0 x1 x2) := fun _ _ h => nomatch h

theorem mresp (x0 x1 x2) : Statement (.mresp x0 x1 x2) := fun _ _ h => nomatch h

theorem stage (x0) : Statement (.stage x0) := fun _ _ h => nomatch h

theorem activate (x0) : Statement (.activate x0) := fun _ _ h => nomatch h

theorem attest (x0) : Statement (.attest x0) := fun _ _ h => nomatch h

theorem raisemin (x0) : Statement (.raisemin x0) := fun _ _ h => nomatch h

theorem recover (x0) : Statement (.recover x0) := fun _ _ h => nomatch h

theorem mbcmdUnknown (x0 x1) : Statement (.mbcmdUnknown x0 x1) := fun _ _ h => nomatch h

theorem mailboxComplete : Statement (.mailboxComplete) := fun _ _ h => nomatch h

theorem registerWrite (x0 x1) : Statement (.registerWrite x0 x1) := fun _ _ h => nomatch h

theorem hostLinkTraining (x0) : Statement (.hostLinkTraining x0) := fun _ _ h => nomatch h

theorem ringGetsWork (x0 x1 x2) : Statement (.ringGetsWork x0 x1 x2) := fun _ _ h => nomatch h

end Sys2Proof.Laws.Encoding
end

