-- ==== Sys2Proof/Safety.lean ====
section
/-! DEFINITION. What counts as a safe run, and the terms in which statements speak of a step: an instruction that
completes, what it leaves alone, and how a result reaches a register (R176 to R178, R293). -/
namespace Sys2Proof.Machine

/-- A step is safe: it answers a next state. -/
def Safe (s : State) : Prop := ∃ t, step s = .next t

/-- The instruction completes at `s` in a state of which `P` holds. -/
def Completes (i : Instr) (s : State) (P : State → Prop) : Prop := ∃ t, exec i s = .next t ∧ P t

/-- The issuing thread is neither stopped nor waiting, and no operand of the instruction raises a trap (R138, R178, R181,
R182, R282). -/
def Issues (i : Instr) (s : State) : Prop :=
  s.preTrap i = none ∧ s.thr.stop = none ∧ s.thr.wait.holds = false

/-! ## What is left alone -/

/-- Every byte of HBM, of every scratchpad and of host memory reads as before, and every line's metadata. -/
def MemSame (s t : State) : Prop :=
  (∀ a, t.hbmByte a = s.hbmByte a) ∧ (∀ a, t.lineOf a = s.lineOf a) ∧
  (∀ n b o, t.scrByte n b o = s.scrByte n b o) ∧ ∀ a, t.hostByte a = s.hostByte a

/-- Outside the issuing thread's slot, the incoming FIFOs of its cell and the messages on their way, nothing changes:
every special register, engine, die, stack, link, partition and other thread is as before. -/
def OnlyThread (s t : State) : Prop :=
  { t with cells := s.cells, flights := s.flights } = s ∧
  (∀ n, n ≠ s.turn → t.cellAt n = s.cellAt n) ∧
  { t.cell with slots := s.cell.slots, mesh := s.cell.mesh } = s.cell ∧
  ∀ k, k ≠ s.cur → t.thr? s.turn k = s.thr? s.turn k

/-- Of the issuing thread only scalar registers, full/empty bits, st, the next pc and the annulled bundles may change. -/
def OnlyRegisters (s t : State) : Prop :=
  { t.thr with g := s.thr.g, full := s.thr.full, st := s.thr.st, npc := s.thr.npc, skip := s.thr.skip } = s.thr

/-- The mesh ports among the sources are popped once each, unless the bundle's operands were captured before (R178, R281). -/
def Popped (i : Instr) (s t : State) : Prop :=
  ∀ p, t.fifo s.turn p =
    if s.thr.latch = none ∧ p < 4 ∧ (s.srcsOf i).any (fun r => r.toNat == 48 + p) then (s.fifo s.turn p).drop 1
    else s.fifo s.turn p

/-! ## Results -/

/-- A scalar register of the issuing thread as it stands. -/
def State.regVal (s : State) (r : Nat) : Word := s.regOf s.turn s.thr r

/-- A register that a result fills: g0 to g47, g60, lk (R176). -/
def fillable (r : Nat) : Bool := r < 48 || r == 60 || r == 62

/-- The message that a result sends when its destination is a mesh port (R178). -/
def portMessage (s : State) (d : GReg) (v : Word) : List Flight :=
  if 48 ≤ d.toNat ∧ d.toNat < 52 then
    match meshNeighbour s.turn (d.toNat - 48) with
    | some m => [{ cell := m, slot := 0, reg := 64 + (d.toNat - 46) % 4, v := v, fromCell := s.turn, fromSlot := s.cur, landed := false }]
    | none => []
  else []

/-- The value `v` has been written to register `d` and the flags `fl` ORed into st (R176 to R178, R293): a register that can
be filled holds `v` and is full; st takes the low byte; a mesh port sends `v` to its neighbour; any other destination
discards it. Every other register keeps its value and its full/empty bit. -/
def Wrote (s t : State) (d : GReg) (v : Word) (fl : BitVec 8) : Prop :=
  (∀ r, r < 64 → (r < 48 ∨ 52 ≤ r) → r ≠ 61 → t.regVal r = if r = d.toNat ∧ fillable r then v else s.regVal r) ∧
  t.thr.st = (if d = 61 then v.setWidth 8 else s.thr.st) ||| fl ∧
  (∀ r, fillable r → t.thr.full.getLsbD r = (decide (r = d.toNat) || s.thr.full.getLsbD r)) ∧
  t.flights = s.flights ++ portMessage s d v

/-- An instruction of one scalar result: `v` in `d`, the flags in st, the next pc and the bundles annulled behind it, ports
popped, and nothing else. -/
def Result (i : Instr) (s t : State) (d : GReg) (v : Word) (fl : BitVec 8) (npc : Word) (skip : Nat) : Prop :=
  Wrote s t d v fl ∧ t.thr.npc = npc ∧ t.thr.skip = skip ∧
  OnlyRegisters s t ∧ OnlyThread s t ∧ Popped i s t ∧ MemSame s t

/-- At `s` the instruction completes with the value `v` in `d`, no flag raised, and the pc as it otherwise goes. -/
def Computes (i : Instr) (d : GReg) (s : State) (v : Word) : Prop :=
  Completes i s fun t => Result i s t d v 0#8 s.thr.npc s.thr.skip

/-- The same with flags. -/
def ComputesF (i : Instr) (d : GReg) (s : State) (v : Word) (fl : BitVec 8) : Prop :=
  Completes i s fun t => Result i s t d v fl s.thr.npc s.thr.skip

/-- At `s` the instruction completes, writes no register and goes to `pc`. -/
def GoesTo (i : Instr) (s : State) (pc : Word) : Prop :=
  Completes i s fun t => Result i s t 63 0#64 0#8 pc s.thr.skip

/-! ## Instructions that complete later -/

/-- The scalar registers and st of the issuing thread are as before. -/
def RegsSame (s t : State) : Prop :=
  (∀ r, r < 64 → (r < 48 ∨ 52 ≤ r) → t.regVal r = s.regVal r) ∧ t.thr.st = s.thr.st

/-- Outside its own registers of tiles and streams, the instruction's cell and every other part of the machine are as before,
but for the issuing thread's slot and the incoming FIFOs. -/
def OnlyCell (i : Instr) (s t : State) : Prop :=
  { t with cells := s.cells } = s ∧ (∀ n, n ≠ s.turn → t.cellAt n = s.cellAt n) ∧
  { t.cell with slots := s.cell.slots, tiles := s.cell.tiles, strms := s.cell.strms, mesh := s.cell.mesh } = s.cell ∧
  (∀ k, k ≠ s.cur → t.thr? s.turn k = s.thr? s.turn k) ∧
  (∀ key, key ∉ (tileDsts i).map (fun k => 32 * (s.cur / 16) + s.tphys k) →
    tget (fun _ => Tile.init) t.cell.tiles key = tget (fun _ => Tile.init) s.cell.tiles key) ∧
  ∀ key, key ∉ (strmDsts i).map (fun k => 16 * (s.cur / 16) + s.sphys k) →
    tget (fun _ => Strm.init) t.cell.strms key = tget (fun _ => Strm.init) s.cell.strms key

/-- The instruction has issued and is outstanding (R171, R181, R253, R255): the last of the thread's unfinished
instructions, with its encoding, its bundle's pc, its lookahead, its address, what it still has to do, and of which `P` holds;
its scalar destination is empty, its tile and stream destinations are empty with a write pending; every register keeps its
value, and nothing else changes but the thread's standing place and, of a context of another device, the window that its slot named (log 16). -/
def Issued (i : Instr) (s t : State) (addr : Word) (act : Act) (P : Pend → Prop) : Prop :=
  (∃ p, t.thr.out = s.thr.out ++ [p] ∧ p.inst = (codeOf i).2 ∧ p.slot = (codeOf i).1 ∧ p.pc = s.thr.pc ∧
    p.la = (laOf i).getD 0 ∧ p.since = 0 ∧ p.addr = addr ∧ p.act = act ∧
    p.dst = (scalarDst i).map (·.toNat) ∧ p.seq = s.thr.seqNo ∧ P p) ∧
  (∀ r, fillable r → t.thr.full.getLsbD r = (s.thr.full.getLsbD r && !((scalarDst i).any fun d => d.toNat == r))) ∧
  (∀ k ∈ tileDsts i, (t.tile k).full = false ∧ (t.tile k).pending = true ∧ (t.tile k).bytes = (s.tile k).bytes) ∧
  (∀ k ∈ strmDsts i, (t.strm k).full = false ∧ (t.strm k).pending = true) ∧
  RegsSame s t ∧
  { t.thr with out := s.thr.out, full := s.thr.full, seqNo := s.thr.seqNo, site := s.thr.site, farWin := s.thr.farWin } = s.thr ∧
  OnlyCell i s t ∧ Popped i s t ∧ MemSame s t

/-- An outstanding access or message that has neither performed nor failed. -/
def Outstanding (i : Instr) (s t : State) (addr : Word) (act : Act) : Prop :=
  Issued i s t addr act fun p => p.perf = none ∧ p.late = none

/-- An outstanding instruction whose results `ws` and flags `fl` are computed and have only to return. -/
def Returns (i : Instr) (s t : State) (addr : Word) (ws : List RegWrite) (fl : BitVec 8) : Prop :=
  Issued i s t addr (.ret ws fl) fun p => p.late = none

/-- A posted access has issued (R239, R244): it is the last of the thread's unacknowledged posted accesses, and nothing else
changes; no byte of memory does until it performs. -/
def PostedOne (i : Instr) (s t : State) (l : Loc) (n : Nat) (v w : Word) (op : Option AOp) (sync rel : Bool) (sc : Nat) (addr : Word) : Prop :=
  (∃ p, t.thr.posted = s.thr.posted ++ [p] ∧ p.loc = l ∧ p.n = n ∧ p.val = v ∧ p.val2 = w ∧ p.op = op ∧ p.sync = sync ∧
    p.rel = rel ∧ p.sc = sc ∧ p.pc = s.thr.pc ∧ p.addr = addr ∧ p.performed = false ∧ p.wide = none ∧ p.seq = s.thr.seqNo) ∧
  { t.thr with posted := s.thr.posted, seqNo := s.thr.seqNo } = s.thr ∧ RegsSame s t ∧
  OnlyThread s t ∧ Popped i s t ∧ MemSame s t

/-- A location on this device. -/
def Loc.isHere : Loc → Bool
  | .peer _ _ _ => false
  | _ => true

/-- The value of a finite number: (-1)^neg * m * 2^e. -/
def finVal (neg : Bool) (m : Nat) (e : Int) : Rat := (if neg then -1 else 1) * (m : Rat) * (2 : Rat) ^ e

end Sys2Proof.Machine
end

