-- ==== Sys2Proof/Certificates/Slice0/Obligations.lean ====
section
/-! DEFINITION. The statements for the provers: each def says in its docstring which rules of the spec it formalises. -/
open Sys2Proof Sys2Proof.Machine

/-! ## Encodings -/

/-- R272 to R286: decoding the encoded word of any well-formed instruction gives that instruction back, with every operand
at every value that the encoding admits (an event has no word). -/
def Obligations.DecodeOfEncode : Prop := ∀ i : Instr, Sys2Proof.Laws.Encoding.Statement i

/-- R282: what the decoder accepts is well formed, and the word is the only one that encodes it: no bit of a word is
ignored. -/
def Obligations.EncodeOfDecode : Prop :=
  ∀ (c : Code) (i : Instr), decodeCode c = .ok i → i.wf = true ∧ encode i = some c

/-- Words written out from the formats of R274 to R276 and the maps of R284 to R286 decode to the instructions they stand
for. -/
def Obligations.WordsDecode : Prop :=
  decodeCode (.c 0x010FFFFE#32) = .ok (.br (-2)) ∧
  decodeCode (.c 0x100080C1#32) = .ok (.ld 0 2 0 3 1) ∧
  decodeCode (.a 0x01042080#32) = .ok (.add 1 2 2) ∧
  decodeCode (.a 0x30042157#32) = .ok (.cmp 1 2 5 1 7) ∧
  decodeCode (.lone 0x0000000780004000#64) = .ok (.ldi 1 7) ∧
  decodeCode (.lone 0x0300000094004208#64) = .ok (.aadd 0 1 2 2 3 false false 0 0) ∧
  decodeCode (.lone 0x04000000C0008000#64) = .ok (.tld 0 1 1 0 false 0 0) ∧
  decodeCode (.lone 0x00000000E1000000#64) = .ok (.mmul 0 0 0 0 0 0 false 0)

/-- R272, R279, R281, R282, R302: a bundle with L = 0 is a pair if both words are instructions, no register but z is the
destination of both, no compare with a skip stands beside br, call, bz, bnz, jr, jlr, rep or done, and no take empties the
C slot's destination; it is refused by name otherwise. That mkempty and mkfull count as writers of their register is the
model's reading (log 29). -/
def Obligations.PairRules : Prop :=
  ∀ (w0 w1 : BitVec 32) (c a : Instr), w0.getLsbD 31 = false → decodeCode (.c w0) = .ok c → decodeCode (.a w1) = .ok a →
    decodeBundle (w1 ++ w0) =
      if (∃ x, cDst c = some x ∧ aDst a = some x ∧ x ≠ 63) ∨ (skipOf a ≠ 0 ∧ steers c = true) ∨
         (∃ d r, a = .take d r ∧ cDst c = some r) then .error .pairing
      else .ok (.pair c a)

/-! ## Reset and memory -/

/-- R17, R20, R30, R182, R230, R271: what a module reset leaves. Every byte of HBM reads as zero through an unfilled line
whose full/empty bits are full and which is not poisoned; no partition is enabled; the fixed and the reset values of the registers
that have one are these; automatic retention is on in every cell. -/
def Obligations.ResetValues : Prop :=
  (∀ a, State.reset.seenByte a = 0#8 ∧ (State.reset.lineOf a).unfilled = some .zero ∧ (State.reset.lineOf a).fe = 0xFF#8 ∧
    (State.reset.lineOf a).poison = false) ∧
  (∀ q, q < 8 → State.reset.fld 5 0 (0x40 * q) 0 1 = 0 ∧ State.reset.running q = false) ∧
  State.reset.reg 1 0 0x280 = 0x766C64#64 ∧
  (∀ k, k < 16 → State.reset.mask k 0 = 0x0041040000 ∧ State.reset.mask k 1 = 0x0082080000 ∧
    State.reset.mask k 2 = 0x0104100000 ∧ State.reset.mask k 3 = 0x0208200000 ∧ State.reset.mask k 4 = 0x0410400000 ∧
    State.reset.mask k 5 = 0x0820800000) ∧
  (∀ q, q < 8 → State.reset.reg 10 0 (0x40 * q) = 0#64 ∧ State.reset.reg 10 0 (0x40 * q + 0x10) = 0x01000001#64 ∧
    State.reset.reg 11 0 (0x100 * q) = 0#64) ∧
  State.reset.reg 11 0 0x818 = 0xA0#64 ∧
  ∀ n, (State.reset.cellAt n).cbank = 0x10000#64

/-- Every memory of the state after reset is in canonical form. -/
def Obligations.CanonicalAtReset : Prop := State.reset.memWf = true

/-- Every step keeps every memory (HBM, host memory, the scratchpads) in canonical form: addresses strictly rising, no
entry equal to what an unlisted address reads as. -/
def Obligations.CanonicalKept : Prop := ∀ s t : State, s.memWf = true → step s = .next t → t.memWf = true

/-- R5: bytes are little-endian. What a write of `n` bytes stores reads back as the low `n` bytes of the value, and every byte
outside them reads as before. -/
def LittleEndian : Prop :=
  ∀ (m : List Host.Cell) (a v n : Nat),
    readLE (tget memDefault (writeLE m a v n)) a n = v % 256 ^ n ∧
    ∀ x, x < a ∨ a + n ≤ x → tget memDefault (writeLE m a v n) x = tget memDefault m x

/-- R31, R33, R34: a write of `n` bytes inside one line of HBM for a partition whose key made the line's tag, while the line is
filled and not poisoned, no injection is armed and the stack's link is up: the bytes read back, every byte outside them
reads as before, the line's full/empty bits stay, its tag is the partition's; other lines keep their metadata. -/
def HbmWrite : Prop :=
  ∀ (s : State) (q a n v : Nat), a % 64 + n ≤ 64 → (s.lineOf a).unfilled = none → (s.lineOf a).poison = false →
    s.tagBad (s.keyOf q) a = false → s.fld 11 0 0x808 3 1 = 0 → s.fld 2 0 (0x1000 * (a / 2 ^ 36) + 8) 2 1 = 0 →
    let t := (s.hbmWrite q a n v).1
    (s.hbmWrite q a n v).2 = 0 ∧ readLE t.hbmByte a n = v % 256 ^ n ∧
    (∀ x, x < a ∨ a + n ≤ x → t.hbmByte x = s.hbmByte x) ∧
    (t.lineOf a).fe = (s.lineOf a).fe ∧ (t.lineOf a).key = s.keyOf q ∧ (t.lineOf a).poison = false ∧
    (∀ x, x / 64 ≠ a / 64 → t.lineOf x = s.lineOf x) ∧
    (∀ x, t.hostByte x = s.hostByte x) ∧ ∀ c b o, t.scrByte c b o = s.scrByte c b o

/-- R20, R31: the first access to an unfilled line with zero as its source fills it: its 64 bytes are zero, its eight
full/empty bits full, it is not poisoned, and no other line or byte changes. -/
def FirstTouch : Prop :=
  ∀ (s : State) (a : Nat), (s.lineOf a).unfilled = some .zero →
    (∀ x, (s.touch a).hbmByte x = if x / 64 = a / 64 then 0#8 else s.hbmByte x) ∧
    ((s.touch a).lineOf a).unfilled = none ∧ ((s.touch a).lineOf a).fe = 0xFF#8 ∧ ((s.touch a).lineOf a).poison = false ∧
    ∀ x, x / 64 ≠ a / 64 → (s.touch a).lineOf x = s.lineOf x

/-- R34, R72: a read of a poisoned line gives the cause of a poisoned response and zero data; a write of fewer than all its
words is discarded: no byte changes and the line stays poisoned. -/
def PoisonedLine : Prop :=
  ∀ (s : State) (q a n v : Nat), n < 64 → (s.lineOf a).unfilled = none → (s.lineOf a).poison = true → s.fld 11 0 0x808 3 1 = 0 →
    s.fld 2 0 (0x1000 * (a / 2 ^ 36) + 8) 2 1 = 0 →
    (s.hbmRead q a n).bad = 7 ∧ (s.hbmRead q a n).v = 0 ∧
    (∀ x, (s.hbmWrite q a n v).1.hbmByte x = s.hbmByte x) ∧ (((s.hbmWrite q a n v).1).lineOf a).poison = true

/-- R5, R31, R33, R34: bytes of memory. A write stores its bytes little-endian where it stands and no other; the first access fills an unfilled line; a
poisoned line reads as zero and a write of fewer than all its words leaves it. -/
def Obligations.MemoryBytes : Prop := LittleEndian ∧ HbmWrite ∧ FirstTouch ∧ PoisonedLine

/-- R226 to R228: a paged address under four levels of tables. With PTROOT.EN = 0 every one raises XLATE; under the tables at
root, with valid pointers at L0, L1 and L2 and a valid 64 KiB leaf at L3, it lands at the leaf's frame if the leaf holds
every right needed, and raises PERM otherwise. -/
def Obligations.PageWalk : Prop :=
  ∀ (s : State) (q va need : Nat),
    (s.fld 10 0 (0x40 * q) 0 1 = 0 → s.paged q va need = .error cXLATE) ∧
    (∀ e0 e1 e2 e3 : Word, s.fld 10 0 (0x40 * q) 0 1 = 1 →
      s.seenWord q (s.fld 10 0 (0x40 * q) 20 20 * 2 ^ 20 + 8 * (va / 2 ^ 39 % 2 ^ 17)) = e0 → ptrOk e0 4096 = true →
      s.seenWord q (entAddr e0 + 8 * (va / 2 ^ 30 % 512)) = e1 → ptrOk e1 4096 = true →
      s.seenWord q (entAddr e1 + 8 * (va / 2 ^ 21 % 512)) = e2 → ptrOk e2 256 = true →
      s.seenWord q (entAddr e2 + 8 * (va / 2 ^ 16 % 32)) = e3 → leafOk e3 (2 ^ 16) = true → e3.getLsbD 56 = false →
      s.paged q va need = if rightsOk e3 need then .ok (.hbm (entAddr e3 + va % 2 ^ 16)) else .error cPERM)

/-! ## A step -/

/-- R170, R171, R172, R237, R281: a step at the turn of a cell for which it is not too late in the cycle (log 2) and whose turn is not over. The bytes at the pc of the thread that the rotation chooses are
fetched and decoded, and the step is the execution of that bundle: of a lone instruction its meaning, of a pair both
meanings from operands captured before either; the thread then goes to its next pc, past the bundles annulled, the ports read are
popped and the lookahead windows move on; the only other effect is the count of the rotation slot (R173). -/
def Obligations.StepRunsTheBundle : Prop :=
  ∀ (s s' : State) (n j : Nat) (r : List Turn) (t : Thread) (y x : State) (w : BitVec 64) (b : Bundle),
    s.agenda = .cell n :: r → ({ s with agenda := r } : State).enter 3 = some s' → s'.turnOver n = false →
    let k := (s'.cycle + 32 - n % 64 / 8 - n % 8) % 16
    let s0 := (s'.setCell n { s'.cellAt n with issuedAt := s'.cycle + 1 }).takeDrift n
    let s1 := s0.keepWaits (s'.cellBank n) (fun x j => attemptHome exec x n j)
    s1.choose n (s'.cellBank n) k (fun j => attemptHome exec s1 n j) = some j →
    s1.thr? n j = some t → t.site = .home → t.lanes = [] → (s1.blocked n j t).isNone = true → t.owed = [] → t.replay = [] →
    (t.noBreak = true ∨ (s1.at n j).breakHit t = false) →
    (s1.at n j).fetch = .word y w → decodeBundle w = .ok b → y.unready (instrsOf b) = none →
    (instrsOf b).findSome? y.sleeping = none → (instrsOf b).findSome? y.unloaded = none →
    let z := (y.setThr { y.thr with npc := y.thr.pc + 8#64, skip := 0, wait := y.thr.wait.atBundle }).capture (instrsOf b)
    (match b with
     | .lone i => exec i z = .next x
     | .pair c a => ∃ u, exec c z = .next u ∧ u.stopped = false ∧ u.thr.wait.holds = false ∧
         (∃ v, exec a z = .next v ∧ v.stopped = false ∧ v.thr.wait.holds = false) ∧ exec a u = .next x) →
    x.stopped = false → x.thr.wait.holds = false → (x.thr? x.turn x.cur).isSome = true →
    ∃ m c, step s = .next (((((x.popBundle (instrsOf b)).nameBanks (instrsOf b)).commit y.thr.seqNo)).countSlot n k m c
      (j != 16 * s'.cellBank n + k))

/-- R237: the fetch of a bundle from a readable line of HBM that the partition may execute, whose bundle no fetch buffer
holds: the eight bytes at the pc, low byte first. -/
def FetchReadsThePc : Prop :=
  ∀ (s : State) (a : Nat), s.thr.far = none → isPaged s.thr.pc.toNat = true → s.thr.pc.toNat / 2 ^ 57 = 0 →
    s.paged s.thr.part s.thr.pc.toNat rEX = .ok (.hbm a) → s.locStall (.hbm a) = false →
    s.moveStall s.thr.part s.thr.pc.toNat = false →
    (s.openLine (s.keyOf s.thr.part) a).lineBad a = false →
    (∀ e ∈ (s.openLine (s.keyOf s.thr.part) a).fetchBuf, e.1 ≠ s.thr.part * 2 ^ 57 + s.thr.pc.toNat) →
    ∃ y, s.fetch = .word y (W (readLE (s.openLine (s.keyOf s.thr.part) a).hbmByte a 8)) ∧ y.thr = s.thr

/-- What else the agenda brings: an event is its meaning, and the agenda's other entries are the turns of Dahlia cores, the accesses that
perform, time, a step as without an agenda, the host's writes, of its memory or of the MSI-X table, and errors of scratch words, of which an uncorrected one
poisons its word (R261); an entry that names an encoded instruction stops the machine. What has a place in the cycle acts only while nothing of
a later place has acted, and does nothing otherwise: the writes over PCIe come before those of the pod manager, and both before what the threads
do (R124). The agenda and its places are the model's own convention (log 2). -/
def AgendaTurns : Prop :=
  ∀ (s : State) (r : List Turn),
    let s' : State := { s with agenda := r }
    (∀ q, (q < s.order → s'.enter q = none) ∧ (s.order ≤ q → (2 ≤ s.order ∨ q < 2) → s'.enter q = some { s' with order := q }) ∧
      (s.order < 2 → 2 ≤ q → s'.enter q = some { s'.privAll false with order := q })) ∧
    (∀ t q, s.agenda = t :: r → t.rank s' = some q → s'.enter q = none → step s = .next s') ∧
    (∀ i x, s.agenda = .event i :: r → encode i = none → s'.enter (eventRank i s') = some x → step s = exec i x) ∧
    (∀ i c, s.agenda = .event i :: r → encode i = some c → (s'.enter (eventRank i s')).isSome = true → step s = .fault .notAnEvent) ∧
    (∀ ns, s.agenda = .elapse ns :: r → step s = .next (s'.elapse ns)) ∧
    (∀ n k i x, s.agenda = .perform n k i :: r → s'.enter 4 = some x → step s = .next (x.performPosted n k i)) ∧
    (∀ n k i x, s.agenda = .performOut n k i :: r → s'.enter 4 = some x → step s = .next (x.performOut n k i)) ∧
    (∀ k j x, s.agenda = .core k j :: r → s'.enter 3 = some x → step s = issueCore exec k j x) ∧
    (∀ p, s.agenda = .rest p :: r → step s = defaultStep exec p s') ∧
    (s.agenda = [] → step s = defaultStep exec true s) ∧
    (∀ n w bad, s.agenda = .scrError n w bad :: r → ∃ t, step s = .next t ∧
      (t.cellAt n).badWords.contains w = (bad || (s.cellAt n).badWords.contains w) ∧ ∀ m, m ≠ n → t.cellAt m = s.cellAt m) ∧
    (∀ k v, s.agenda = .msixWrite k v :: r → k < 32 → step s = .next { s' with msixTable := tput s.msixTable k v }) ∧
    ∀ a v, s.agenda = .hostWrite a v :: r → ∃ t, step s = .next t ∧ t.hostByte a = v ∧ ∀ x, x ≠ a → t.hostByte x = s.hostByte x

/-- R170 to R172: the choice of the issuing thread in rotation slot `k`, the slots taken in the order k, k+1, … mod 16. A ready owner of class 1 to 3 issues.
Where it does not, the slot is lent to the ready single thread of class 1 to 3 of the highest effective class, the first in the order on a tie; where
there is none, the first ready thread of class 0 issues, a gang's lane only in its own slot; otherwise nothing issues. So where some thread can issue, one does. -/
def Obligations.RotationChoice : Prop :=
  ∀ (s : State) (n b k : Nat) (att : Nat → Attempt), k < 16 →
    let slot := fun i => 16 * b + (k + i) % 16
    let lent := fun i => s.lendable n (slot i) = true ∧ (att (slot i)).ready = true
    let zero := fun i => (att (slot i)).ready = true ∧ (s.thrAt n (slot i)).cls = 0 ∧ ((s.thrAt n (slot i)).lanes = [] ∨ i = 0)
    let own := (att (16 * b + k)).ready = true ∧ (s.thrAt n (16 * b + k)).cls ≠ 0
    (own → s.choose n b k att = some (16 * b + k)) ∧
    (¬own → ∀ i, i < 16 → lent i → (∀ m, m < 16 → lent m → s.effCls n (slot m) ≤ s.effCls n (slot i)) →
      (∀ m, m < i → lent m → s.effCls n (slot m) < s.effCls n (slot i)) → s.choose n b k att = some (slot i)) ∧
    (¬own → (∀ m, m < 16 → ¬lent m) → ∀ i, i < 16 → zero i → (∀ m, m < i → ¬zero m) → s.choose n b k att = some (slot i)) ∧
    ((∃ i, i < 16 ∧ (lent i ∨ zero i)) → ∃ j, s.choose n b k att = some j) ∧
    (¬own → (∀ i, i < 16 → ¬lent i ∧ ¬zero i) → s.choose n b k att = none) ∧
    ∀ j, s.choose n b k att = some j →
      (att j).ready = true ∧ 16 * b ≤ j ∧ j < 16 * b + 16 ∧
      (j ≠ 16 * b + k → (s.thrAt n j).cls ≠ 0 → ∀ i, 16 * b ≤ i → i < 16 * b + 16 → s.lendable n i = true → (att i).ready = true →
        s.effCls n i ≤ s.effCls n j) ∧
      ((s.thrAt n j).lanes ≠ [] → j = 16 * b + k) ∧
      ((s.thrAt n j).cls = 0 → ∀ i, 16 * b ≤ i → i < 16 * b + 16 → s.lendable n i = true → (att i).ready = false)

/-- R237, and the model's agenda (log 2): what a step fetches, and what it does at an event, at a passing of time, at an access that performs and at a
host write. -/
def Obligations.FetchAndAgenda : Prop := FetchReadsThePc ∧ AgendaTurns

/-- R252, R282: nothing ends a run. Every instruction and every event answers a next state from every state, a trap or a wait among them, and
so does a step, but for an agenda that names an encoded instruction as an event (the model's own convention, log 2). -/
def Obligations.NothingRefused : Prop :=
  (∀ (i : Instr) (s : State), Completes i s fun _ => True) ∧
  ∀ s : State, Safe s ∨ (∃ i r, s.agenda = .event i :: r ∧ (encode i).isSome = true)
/-! ## Integer arithmetic -/

/-- R293, R295: sums, differences and products of the register forms, modulo 2^64 or the high half of the 128-bit product; the
scaled sum. Each completes with the result in its destination and changes nothing else. -/
def SumsAndProducts : Prop :=
  ∀ (d a b : GReg) (n : BitVec 6) (s : State),
    let x := s.rd a
    let y := s.rd b
    (Issues (.add d a b) s → Computes (.add d a b) d s (W (x.toNat + y.toNat))) ∧
    (Issues (.sub d a b) s → Computes (.sub d a b) d s (W (x.toNat + 2 ^ 64 - y.toNat))) ∧
    (Issues (.mul d a b) s → Computes (.mul d a b) d s (W (x.toNat * y.toNat))) ∧
    (Issues (.mulh d a b) s → Computes (.mulh d a b) d s (BitVec.ofInt 64 (x.toInt * y.toInt / 2 ^ 64))) ∧
    (Issues (.mulhu d a b) s → Computes (.mulhu d a b) d s (W (x.toNat * y.toNat / 2 ^ 64))) ∧
    (Issues (.addsc d a b n) s → n.toNat ≤ 7 ∧ Computes (.addsc d a b n) d s (W (x.toNat + y.toNat * 2 ^ n.toNat)))

/-- R295: division. By zero the quotients are all ones and the remainders the dividend; otherwise the signed quotient is
truncated toward zero and the signed remainder takes the sign of the dividend; -2^63 by -1 gives -2^63 and 0. -/
def Division : Prop :=
  ∀ (d a b : GReg) (s : State),
    let x := s.rd a
    let y := s.rd b
    (Issues (.div d a b) s → Computes (.div d a b) d s
      (if y = 0#64 then BitVec.allOnes 64 else BitVec.ofInt 64 (x.toInt.tdiv y.toInt))) ∧
    (Issues (.divu d a b) s → Computes (.divu d a b) d s (if y = 0#64 then BitVec.allOnes 64 else W (x.toNat / y.toNat))) ∧
    (Issues (.rem d a b) s → Computes (.rem d a b) d s (if y = 0#64 then x else BitVec.ofInt 64 (x.toInt.tmod y.toInt))) ∧
    (Issues (.remu d a b) s → Computes (.remu d a b) d s (if y = 0#64 then x else W (x.toNat % y.toNat))) ∧
    (x.toInt = -2 ^ 63 → y.toInt = -1 → BitVec.ofInt 64 (x.toInt.tdiv y.toInt) = x ∧ x.toInt.tmod y.toInt = 0)

/-- R295: bitwise operations, bit by bit. -/
def BitwiseOperations : Prop :=
  ∀ (d a b : GReg) (s : State),
    let x := s.rd a
    let y := s.rd b
    let f := fun (i : Instr) (g : Bool → Bool → Bool) (z : Word) => Issues i s → ∃ v : Word, Computes i d s v ∧
      ∀ k, k < 64 → v.getLsbD k = g (x.getLsbD k) (z.getLsbD k)
    f (.and d a b) (· && ·) y ∧ f (.or d a b) (· || ·) y ∧ f (.xor d a b) (· != ·) y ∧
    f (.andn d a b) (fun p q => p && !q) y

/-- R295: shifts and rotates. The count is the low six bits of the register. -/
def ShiftsAndRotates : Prop :=
  ∀ (d a b : GReg) (s : State),
    let x := s.rd a
    let c := (s.rd b).toNat % 64
    (Issues (.shl d a b) s → Computes (.shl d a b) d s (W (x.toNat * 2 ^ c))) ∧
    (Issues (.shr d a b) s → Computes (.shr d a b) d s (W (x.toNat / 2 ^ c))) ∧
    (Issues (.sra d a b) s → Computes (.sra d a b) d s (BitVec.ofInt 64 (x.toInt / 2 ^ c))) ∧
    (Issues (.rol d a b) s → Computes (.rol d a b) d s (W (x.toNat * 2 ^ c + x.toNat / 2 ^ (64 - c)))) ∧
    (Issues (.ror d a b) s → Computes (.ror d a b) d s (W (x.toNat / 2 ^ c + x.toNat * 2 ^ (64 - c))))

/-- R295: the lesser and the greater of two values, signed and unsigned, and the select. -/
def MinMaxSelect : Prop :=
  ∀ (d a b c : GReg) (s : State),
    let x := s.rd a
    let y := s.rd b
    (Issues (.min d a b) s → ∃ v, Computes (.min d a b) d s v ∧ v.toInt = min x.toInt y.toInt) ∧
    (Issues (.max d a b) s → ∃ v, Computes (.max d a b) d s v ∧ v.toInt = max x.toInt y.toInt) ∧
    (Issues (.minu d a b) s → ∃ v, Computes (.minu d a b) d s v ∧ v.toNat = min x.toNat y.toNat) ∧
    (Issues (.maxu d a b) s → ∃ v, Computes (.maxu d a b) d s v ∧ v.toNat = max x.toNat y.toNat) ∧
    (Issues (.sel d a b c) s → Computes (.sel d a b c) d s (if s.rd c ≠ 0#64 then x else y))

/-- R295: counts of bits, the reversal of bytes, and bit fields. -/
def BitFields : Prop :=
  ∀ (d a b : GReg) (w n : BitVec 6) (s : State),
    let x := s.rd a
    let c := (s.rd b).toNat % 64
    (Issues (.clz d a) s → ∃ k, Computes (.clz d a) d s (W k) ∧ k ≤ 64 ∧ x.toNat < 2 ^ (64 - k) ∧ (k < 64 → 2 ^ (63 - k) ≤ x.toNat)) ∧
    (Issues (.ctz d a) s → ∃ k, Computes (.ctz d a) d s (W k) ∧ k ≤ 64 ∧ (∀ j, j < k → x.getLsbD j = false) ∧ (k < 64 → x.getLsbD k = true)) ∧
    (Issues (.popc d a) s → Computes (.popc d a) d s (W ((List.range 64).countP fun k => x.getLsbD k))) ∧
    (Issues (.bswap d a) s → ∃ v, Computes (.bswap d a) d s v ∧ ∀ k, k < 8 → v.extractLsb' (8 * k) 8 = x.extractLsb' (56 - 8 * k) 8) ∧
    (Issues (.bext d a b w) s → Computes (.bext d a b w) d s (W (x.toNat / 2 ^ c % 2 ^ (w.toNat + 1)))) ∧
    (Issues (.bins d a b w) s → ∃ v, Computes (.bins d a b w) d s v ∧ ∀ k, k < 64 →
      v.getLsbD k = if c ≤ k ∧ k ≤ c + w.toNat then x.getLsbD (k - c) else (s.rd d).getLsbD k) ∧
    (Issues (.sext d a n) s → ∃ v, Computes (.sext d a n) d s v ∧ ∀ k, k < 64 → v.getLsbD k = x.getLsbD (min k n.toNat))

/-- R295: the register operations. Each completes with the table's result in its destination, writes no flag and changes nothing
else; addsc with FN above 7 raises ILLEGAL (1), and a word of a unary form with a nonzero B, or of a form to which FN means nothing with a nonzero
FN, is refused. -/
def Obligations.RegisterOperations : Prop :=
  SumsAndProducts ∧ Division ∧ BitwiseOperations ∧ ShiftsAndRotates ∧ MinMaxSelect ∧ BitFields ∧
  (∀ (d a b : GReg) (n : BitVec 6) (s : State), 7 < n.toNat → exec (.addsc d a b n) s = .next (s.trap 1 0#64)) ∧
  ∀ (w : BitVec 32) (i : Instr) (d a b : GReg) (n : BitVec 6), decodeCode (.a w) = .ok i →
    (i ∈ [Instr.clz d a, .ctz d a, .popc d a, .bswap d a, .sext d a n] → w.extractLsb' 6 6 = 0#6) ∧
    (i ∈ [Instr.add d a b, .sub d a b, .mul d a b, .mulh d a b, .mulhu d a b, .div d a b, .divu d a b, .rem d a b, .remu d a b, .and d a b, .or d a b,
      .xor d a b, .andn d a b, .shl d a b, .shr d a b, .sra d a b, .rol d a b, .ror d a b, .min d a b, .max d a b, .minu d a b, .maxu d a b,
      .clz d a, .ctz d a, .popc d a, .bswap d a] → w.extractLsb' 0 6 = 0#6)

/-- R296: the immediate operations. The immediate is sign-extended to 64 bits; the shifts take it as their count, and one outside 0 to 63 raises
ILLEGAL (1). -/
def Obligations.ImmediateOperations : Prop :=
  ∀ (d a : GReg) (e : BitVec 12) (s : State),
    let x := s.rd a
    let n := e.toNat
    let bits := fun (i : Instr) (g : Bool → Bool → Bool) => Issues i s → ∃ v : Word, Computes i d s v ∧
      ∀ k, k < 64 → v.getLsbD k = g (x.getLsbD k) ((e.signExtend 64).getLsbD k)
    (Issues (.addi d a e) s → Computes (.addi d a e) d s (BitVec.ofInt 64 (x.toInt + e.toInt))) ∧
    (Issues (.muli d a e) s → Computes (.muli d a e) d s (BitVec.ofInt 64 (x.toInt * e.toInt))) ∧
    bits (.andi d a e) (· && ·) ∧ bits (.ori d a e) (· || ·) ∧ bits (.xori d a e) (· != ·) ∧
    (n < 64 → (Issues (.shli d a e) s → Computes (.shli d a e) d s (W (x.toNat * 2 ^ n))) ∧
      (Issues (.shri d a e) s → Computes (.shri d a e) d s (W (x.toNat / 2 ^ n))) ∧
      (Issues (.srai d a e) s → Computes (.srai d a e) d s (BitVec.ofInt 64 (x.toInt / 2 ^ n)))) ∧
    (64 ≤ n → ∀ i ∈ [Instr.shli d a e, .shri d a e, .srai d a e], exec i s = .next (s.trap 1 0#64))

/-- R283, R297, R318: the constants, the timebase reads, and the two instructions that do nothing. -/
def Obligations.ConstantsAndNops : Prop :=
  ∀ (x : GReg) (i : BitVec 32) (s : State),
    (Issues (.ldi x i) s → Computes (.ldi x i) x s (BitVec.ofInt 64 i.toInt)) ∧
    (Issues (.ldih x i) s → Computes (.ldih x i) x s (W (i.toNat * 2 ^ 32 + (s.rd x).toNat % 2 ^ 32))) ∧
    (Issues (.rdtb x 0) s → Computes (.rdtb x 0) x s (s.reg 11 0 (0xA10 + 0x40 * (s.turn / 64)))) ∧
    (Issues (.rdtb x 1) s → Computes (.rdtb x 1) x s (s.reg 11 0 (0xA18 + 0x40 * (s.turn / 64)))) ∧
    (Issues .nopc s → exec .nopc s = .next s) ∧ (Issues .nopa s → exec .nopa s = .next s) ∧
    (48 ≤ x.toNat → x.toNat < 52 → exec (.ldih x i) s = .next (s.trap 1 0#64)) ∧
    ∀ k : BitVec 2, 2 ≤ k.toNat → exec (.rdtb x k) s = .next (s.trap 1 0#64)

/-- R278, R279: the compares. The result is 1 or 0 by the condition; a condition that holds with a skip of k moves a single
thread's next pc past k bundles, and marks k bundles as annulled on the own lane of a gang. -/
def Compares : Prop :=
  ∀ (d a b : GReg) (i : BitVec 6) (k : BitVec 2) (c : BitVec 4) (s : State),
    let holds := fun (x y : Word) => match c.toNat with
      | 0 => decide (x = y) | 1 => decide (x ≠ y) | 2 => decide (x.toInt < y.toInt) | 3 => decide (y.toInt ≤ x.toInt)
      | 4 => decide (x.toNat < y.toNat) | 5 => decide (y.toNat ≤ x.toNat) | 6 => decide (x.toInt ≤ y.toInt)
      | 7 => decide (y.toInt < x.toInt) | 8 => decide (x.toNat ≤ y.toNat) | 9 => decide (y.toNat < x.toNat)
      | 10 => decide (x &&& y ≠ 0#64) | _ => decide (x &&& y = 0#64)
    let goes := fun (j : Instr) (h : Bool) => Completes j s fun t =>
      Result j s t d (if h then 1#64 else 0#64) 0#8
        (if h && decide (k ≠ 0) && s.thr.lanes.isEmpty then s.thr.pc + W (8 * (k.toNat + 1)) else s.thr.npc)
        (if h && decide (k ≠ 0) && !s.thr.lanes.isEmpty then k.toNat else s.thr.skip)
    (Issues (.cmp d a b k c) s → goes (.cmp d a b k c) (holds (s.rd a) (s.rd b))) ∧
    (Issues (.cmpi d a i k c) s → goes (.cmpi d a i k c) (holds (s.rd a) (i.signExtend 64))) ∧
    (Issues (.fcmp d a b k c) s → goes (.fcmp d a b k c) (fcond c.toNat (fdecode fp32 ((s.rd a).toNat % 2 ^ 32)) (fdecode fp32 ((s.rd b).toNat % 2 ^ 32)))) ∧
    (Issues (.fcmpd d a b k c) s → goes (.fcmpd d a b k c) (fcond c.toNat (fdecode fp64 (s.rd a).toNat) (fdecode fp64 (s.rd b).toNat)))

/-- R278: the eight floating conditions over finite values are those of the numbers, with -0 equal to +0, and a NaN operand
makes only fcne and fcun hold. -/
def FloatConditions : Prop :=
  (∀ (p q : Bool) (m n : Nat) (e f : Int),
    let x := finVal p m e
    let y := finVal q n f
    let c := fun k => fcond k (.fin p m e) (.fin q n f)
    c 0 = decide (x = y) ∧ c 1 = decide (x ≠ y) ∧ c 2 = decide (x < y) ∧ c 3 = decide (y ≤ x) ∧ c 4 = decide (x ≤ y) ∧
    c 5 = decide (y < x) ∧ c 6 = false ∧ c 7 = true) ∧
  ∀ (p : Bool) (v : FVal) (k : Nat), k < 8 →
    fcond k (.nan p) v = decide (k = 1 ∨ k = 6) ∧ fcond k v (.nan p) = decide (k = 1 ∨ k = 6)

/-- R278, R279: the compares and their conditions. A condition that has no meaning raises ILLEGAL (1). -/
def Obligations.CompareConditions : Prop :=
  Compares ∧ FloatConditions ∧ ∀ (d a b : GReg) (i : BitVec 6) (j : BitVec 2) (c : BitVec 4) (s : State),
    (11 < c.toNat → exec (.cmp d a b j c) s = .next (s.trap 1 0#64) ∧ exec (.cmpi d a i j c) s = .next (s.trap 1 0#64)) ∧
    (7 < c.toNat → exec (.fcmp d a b j c) s = .next (s.trap 1 0#64) ∧ exec (.fcmpd d a b j c) s = .next (s.trap 1 0#64))

/-- R301, R302: the full/empty operations on a register for which no fill is held. take reads and empties its source and
writes its destination; mkempty and mkfull keep the value; isfull answers 1 or 0 and empties nothing. -/
def Obligations.FullEmpty : Prop :=
  ∀ (d a : GReg) (s : State), s.thr.latch = none →
    let quiet := fun (t : State) => MemSame s t ∧ OnlyThread s t ∧ OnlyRegisters s t ∧ t.thr.npc = s.thr.npc ∧
      t.thr.skip = s.thr.skip ∧ t.thr.st = s.thr.st ∧ ∀ r, r < 64 → (r < 48 ∨ 52 ≤ r) → r ≠ d.toNat → t.regVal r = s.regVal r
    (Issues (.take d a) s → s.cell.fills = [] → fillable d.toNat = true → Completes (.take d a) s fun t =>
      t.regVal d.toNat = s.regVal a.toNat ∧ quiet t ∧
      ∀ r, fillable r = true → t.thr.full.getLsbD r = if r = d.toNat then true else if r = a.toNat then false else s.thr.full.getLsbD r) ∧
    (Issues (.mkempty d) s → s.cell.fills = [] → Completes (.mkempty d) s fun t =>
      quiet t ∧ t.regVal d.toNat = s.regVal d.toNat ∧
      ∀ r, fillable r = true → t.thr.full.getLsbD r = (!decide (r = d.toNat) && s.thr.full.getLsbD r)) ∧
    (Issues (.mkfull d) s → Completes (.mkfull d) s fun t =>
      quiet t ∧ t.regVal d.toNat = s.regVal d.toNat ∧
      ∀ r, fillable r = true → t.thr.full.getLsbD r = (decide (r = d.toNat) || s.thr.full.getLsbD r)) ∧
    (Issues (.isfull d a) s → Computes (.isfull d a) d s
      (if (if 48 ≤ a.toNat ∧ a.toNat < 52 then !(s.fifo s.turn (a.toNat - 48)).isEmpty
           else if fillable a.toNat then s.thr.full.getLsbD a.toNat else true) then 1#64 else 0#64)) ∧
    ∀ f : Fill, Issues (.mkempty d) s → s.thr.site = .home → s.cell.fills = [f] → f.slot = s.cur → f.reg = d.toNat →
      Completes (.mkempty d) s fun t => t.regVal d.toNat = f.v ∧ t.thr.full.getLsbD d.toNat = true ∧ t.cell.fills = []

/-! ## Scalar floating point -/

/-- R202, R204 to R207, R298, R299: floating arithmetic. Operands are the low bits of the registers in the format; the exact
value is rounded once to the format of the destination, the flags are ORed into st, and nothing else changes. -/
def Obligations.FloatArithmetic : Prop :=
  ∀ (d a b : GReg) (r : BitVec 3) (f g : BitVec 2) (y : BitVec 6) (s : State),
    let F := fmtOfF f
    let v := fun (x : GReg) => fdecode F ((s.rd x).toNat % 2 ^ F.width)
    let u := (rng (s.rdN 60) s.thr.pc s.thr.lane 0).toNat
    let gives := fun (i : Instr) (G : Fmt) (x : FVal × Nat) => Issues i s →
      ComputesF i d s (W (fencode G r.toNat u x.1).1) (BitVec.ofNat 8 ((fencode G r.toNat u x.1).2 ||| x.2))
    gives (.fadd d a b r f) F (fadd2 r.toNat (v a) (v b)) ∧ gives (.fsub d a b r f) F (fsub2 r.toNat (v a) (v b)) ∧
    gives (.fmul d a b r f) F (fmul2 (v a) (v b)) ∧ gives (.fdiv d a b r f) F (fdiv2 (v a) (v b)) ∧
    gives (.fsqrt d a r f) F (fsqrt1 (v a)) ∧ gives (.fma d a b r f) F (ffma3 r.toNat (v a) (v b) (v d)) ∧
    gives (.fcvt d a g r f) (fmtOfF g) (v a, 0) ∧ gives (.fexp2 d a r f) F (fexp2v (v a)) ∧
    gives (.icvtf d a y r f) F (ofInt (match y.toNat with
      | 0 => (s.rd a).toInt | 1 => (s.rd a).toNat | 2 => ((s.rd a).setWidth 32).toInt | _ => ((s.rd a).setWidth 32).toNat) 0, 0) ∧
    (Issues (.fcvti d a y r f) s →
      let x := fToInt r.toNat u (ityRange y.toNat).1 (ityRange y.toNat).2 (v a)
      ComputesF (.fcvti d a y r f) d s (BitVec.ofInt 64 x.1) (BitVec.ofNat 8 x.2))

/-- R202, R205: the exact values that are rounded. Sums, differences and products of finite values are exact as rational
numbers and raise no flag; infinities and NaNs by R202: an invalid combination gives +NaN and NV, and a NaN operand passes
with its sign. -/
def FloatExact : Prop :=
  ∀ (rm : Nat) (p q : Bool) (m n : Nat) (e f : Int),
    let x : FVal := .fin p m e
    let y : FVal := .fin q n f
    (∃ z k g, fadd2 rm x y = (.fin z k g, 0) ∧ finVal z k g = finVal p m e + finVal q n f) ∧
    (∃ z k g, fsub2 rm x y = (.fin z k g, 0) ∧ finVal z k g = finVal p m e - finVal q n f) ∧
    (∃ z k g, fmul2 x y = (.fin z k g, 0) ∧ finVal z k g = finVal p m e * finVal q n f ∧ z = (p != q)) ∧
    fadd2 rm (.inf p) (.inf q) = (if p = q then (.inf p, 0) else (.nan false, flNV)) ∧
    fadd2 rm x (.inf q) = (.inf q, 0) ∧ fadd2 rm (.nan p) y = (.nan p, 0) ∧ fadd2 rm x (.nan q) = (.nan q, 0) ∧
    fmul2 (.inf p) (.fin q 0 f) = (.nan false, flNV) ∧ (m ≠ 0 → fmul2 (.inf q) x = (.inf (q != p), 0)) ∧
    fdiv2 (.fin p 0 e) (.fin q 0 f) = (.nan false, flNV) ∧ (m ≠ 0 → fdiv2 x (.fin q 0 f) = (.inf (p != q), flDZ))

/-- R203, R204: a value that a format represents is written as itself, in every rounding and without a flag, so that a
pattern decoded and written again is the same pattern. -/
def RoundExactKept : Prop :=
  ∀ (F : Fmt) (rm u b : Nat), F ∈ [fp64, fp32, fp16, bf16, e4m3, e5m2, e2m3, e3m2, e2m1] → b < 2 ^ F.width →
    (∃ p m e, fdecode F b = .fin p m e) → fencode F rm u (fdecode F b) = (b, 0)

/-- R202 to R205: the values that are rounded are exact, and a value that a format represents is written as itself. -/
def Obligations.FloatValues : Prop := FloatExact ∧ RoundExactKept

/-- R202, R298: what the lesser of two operands is, given their patterns and values, or the greater where `up`: a NaN operand gives the canonical NaN
with the sign of the first one; an infinity and finite values are ordered by value, and -0 lies below +0. -/
def Chosen (F : Fmt) (up : Bool) (x y : Nat) (v w : FVal) (z : Nat) : Prop :=
  (∀ p, v = .nan p → z = (F.nanPat p).1) ∧
  (∀ q, v.isNan = false → w = .nan q → z = (F.nanPat q).1) ∧
  (∀ p, v = .inf p → w.isNan = false → z = if p = up then y else x) ∧
  (∀ q, v.isNan = false → w = .inf q → z = if q = up then x else y) ∧
  ∀ p m e q n g, v = .fin p m e → w = .fin q n g →
    (finVal p m e < finVal q n g → z = if up then y else x) ∧
    (finVal q n g < finVal p m e → z = if up then x else y) ∧
    (finVal p m e = finVal q n g → z = if p = up then y else x)

/-- R298, R300: the floating operations that raise no flag. Each completes with its result in its destination: fabs and fneg clear and invert the sign bit
and keep every other bit, fclass gives one bit by the class of the value, fmin and fmax give the lesser and the greater operand, with -0
below +0, or the canonical NaN. -/
def Obligations.FloatSigns : Prop :=
  ∀ (d a b : GReg) (f : BitVec 2) (s : State),
    let F := fmtOfF f
    let w := F.width
    let pat := fun (r : GReg) => (s.rd r).toNat % 2 ^ w
    let x := pat a
    let v := fun (r : GReg) => fdecode F (pat r)
    (Issues (.fabs d a f) s → Computes (.fabs d a f) d s (W (x % 2 ^ (w - 1)))) ∧
    (Issues (.fneg d a f) s → Computes (.fneg d a f) d s (W (if x < 2 ^ (w - 1) then x + 2 ^ (w - 1) else x - 2 ^ (w - 1)))) ∧
    (Issues (.fclass d a f) s → ∃ k, Computes (.fclass d a f) d s (W (2 ^ k)) ∧
      (match v a with
       | .inf p => k = if p then 0 else 7
       | .nan p => k = if p then 9 else 8
       | .fin p m _ => if m = 0 then k = (if p then 3 else 4) else if m < 2 ^ F.mw then k = (if p then 2 else 5) else k = (if p then 1 else 6))) ∧
    (Issues (.fmin d a b f) s → ∃ z, Computes (.fmin d a b f) d s (W z) ∧ Chosen F false x (pat b) (v a) (v b) z) ∧
    (Issues (.fmax d a b f) s → ∃ z, Computes (.fmax d a b f) d s (W z) ∧ Chosen F true x (pat b) (v a) (v b) z)

/-! ## Control flow -/

/-- R305 to R307: the branches. Targets count bundles from the bundle's own address; in a gang the direction and the target
are the leader's. call and jlr write pc + 8; rep counts its register down and loops while it is not zero. -/
def Branches : Prop :=
  ∀ (x y : GReg) (o : BitVec 20) (p : BitVec 14) (n : BitVec 12) (s : State),
    let pc := s.thr.pc
    let far := BitVec.ofInt 64 (pc.toInt + 8 * o.toInt)
    let near := BitVec.ofInt 64 (pc.toInt + 8 * p.toInt)
    (Issues (.br o) s → GoesTo (.br o) s far) ∧
    (Issues (.call o) s → Completes (.call o) s fun t => Result (.call o) s t 62 (pc + 8#64) 0#8 far s.thr.skip) ∧
    (Issues (.bz x p) s → GoesTo (.bz x p) s (if s.rdLead x = 0#64 then near else pc + 8#64)) ∧
    (Issues (.bnz x p) s → GoesTo (.bnz x p) s (if s.rdLead x = 0#64 then pc + 8#64 else near)) ∧
    (Issues (.jr y) s → (s.rdLead y).toNat % 8 = 0 → (s.rdLead y).toNat < 2 ^ 57 → GoesTo (.jr y) s (s.rdLead y)) ∧
    (Issues (.jlr x y) s → (s.rdLead y).toNat % 8 = 0 → (s.rdLead y).toNat < 2 ^ 57 →
      Completes (.jlr x y) s fun t => Result (.jlr x y) s t x (pc + 8#64) 0#8 (s.rdLead y) s.thr.skip) ∧
    (Issues (.rep x n) s → s.rdLead x = s.rd x → Completes (.rep x n) s fun t =>
      (s.rd x = 0#64 → Result (.rep x n) s t 63 0#64 0#8 (pc + 8#64) s.thr.skip) ∧
      (s.rd x ≠ 0#64 → Result (.rep x n) s t x (s.rd x - 1#64) 0#8
        (if s.rd x = 1#64 then pc + 8#64 else pc - W (8 * n.toNat)) s.thr.skip))

/-- R305: a jr or jlr whose target has a bit of [2:0] set raises ALIGN at the instruction, and one with a bit of [63:57] set
XLATE; the pc is left at the bundle and no link is written. -/
def JumpTargets : Prop :=
  ∀ (x y : GReg) (s : State), let v := s.rdLead y
    (∀ i, i = Instr.jr y ∨ i = Instr.jlr x y → Issues i s → v.toNat % 8 ≠ 0 → exec i s = .next (s.trap cALIGN v)) ∧
    (∀ i, i = Instr.jr y ∨ i = Instr.jlr x y → Issues i s → v.toNat % 8 = 0 → 2 ^ 57 ≤ v.toNat → exec i s = .next (s.trap cXLATE v)) ∧
    ∀ c, (s.trap c v).thr.pc = resumePc c s.thr.pc ∧ ∀ r, r < 48 ∨ r = 60 ∨ r = 62 → (s.trap c v).regVal r = s.regVal r

/-- R305 to R307: branches, jumps, links and the counted loop, and the traps of a jump's target. -/
def Obligations.ControlTransfers : Prop := Branches ∧ JumpTargets

/-! ## Threads and tasks -/

/-- R308, R309, R310, R311: yield, done, setpri, and a tbar that has no group to wait for or is not the last lane of its gang. -/
def ThreadControl : Prop :=
  ∀ (x y : GReg) (s : State),
    let only := fun (i : Instr) (th : Thread) => Completes i s fun t => t.thr = th ∧ OnlyThread s t ∧ t.flights = s.flights ∧ MemSame s t
    (Issues .yield s → only .yield { s.thr with wait := .yielding s.cycle }) ∧
    (Issues .done s → s.thr.out = [] → only .done { s.thr with ended := true }) ∧
    (Issues .tbar s → s.thr.bgrp = 0 → exec .tbar s = .next s) ∧
    (Issues .tbar s → s.thr.bgrp ≠ 0 → s.thr.lanes ≠ [] → s.thr.lane + 1 ≠ s.thr.lanes.length →
      (∀ m, m < 16 → ((s.monOf s.thr.part m).before s.cycle).owned s.thr.die s.thr.graph s.thr.bgrp = false) →
      only .tbar { s.thr with rounds := s.thr.rounds + 1, wait := .tbar (s.thr.rounds + 1) s.thr.pc }) ∧
    (Issues (.setpri x y) s → Completes (.setpri x y) s fun t =>
      Wrote s t x (W s.thr.cls) 0#8 ∧ OnlyThread s t ∧ Popped (.setpri x y) s t ∧
      t.thr.cls = if s.thr.cls = 0 then 0 else min (max (s.rdLead y).toNat 1) s.thr.dcls)

/-- R309: the bundle of done waits on memory while a long-latency instruction of the thread has not completed: the thread
stands where it stood, at the bundle. -/
def DoneWaits : Prop :=
  ∀ s : State, Issues .done s → s.thr.out ≠ [] → Completes .done s fun t =>
    t.thr = { s.thr with wait := .parked false, npc := s.thr.pc } ∧ OnlyThread s t ∧ MemSame s t

/-- R179, R303: a fill that has not been sent. A target word with a nonzero zero field, REG above 47 or a die outside the partition raises XLATE, a slot
without a task of the partition PERM; otherwise the value travels to the slot and the thread waits for it on message, its bundle not over. Once the value has been written or held,
the bundle's fill does no more. That FADDR of its traps at issue is the target word is the model's reading (log 28). -/
def Fills : Prop :=
  ∀ (y z : GReg) (s : State), Issues (.fill y z) s →
    (s.thr.fillOver = true → Completes (.fill y z) s fun t => t.thr = { s.thr with wait := .none } ∧ OnlyThread s t ∧ Popped (.fill y z) s t ∧
      t.flights = s.flights ∧ MemSame s t) ∧
    (s.thr.fillOver = false →
    let w := s.rd y
    let n := 64 * bf w 16 3 + bf w 10 6
    let k := 16 * s.bankOf s.thr.part + bf w 6 4
    (2 ^ 19 ≤ w.toNat ∨ 47 < bf w 0 6 ∨ s.dieIn s.thr.part (bf w 16 3) = false → exec (.fill y z) s = .next (s.trap cXLATE w)) ∧
    (w.toNat < 2 ^ 19 → bf w 0 6 ≤ 47 → s.dieIn s.thr.part (bf w 16 3) = true →
      (s.thr? n k = none → exec (.fill y z) s = .next (s.trap cPERM w)) ∧
      (∀ u, s.thr? n k = some u → u.part ≠ s.thr.part → exec (.fill y z) s = .next (s.trap cPERM w)) ∧
      (∀ u, s.thr? n k = some u → u.part = s.thr.part → Completes (.fill y z) s fun t =>
        t.flights = s.flights ++ [{ cell := n, slot := k, reg := bf w 0 6, v := s.rd z, fromCell := s.turn, fromSlot := s.cur, landed := false }] ∧
        t.thr = { s.thr with wait := .fillSent s.thr.pc } ∧ OnlyThread s t ∧ (∀ p, t.fifo s.turn p = s.fifo s.turn p) ∧ MemSame s t)))

/-- R312: launch. With a valid ring of KIND 2 and a readable header that lies aligned in paged space, the instruction is outstanding with its ring
and the address of its 16 words; a ring number above 63 raises XLATE and a ring of another kind PERM, and a header that fails its check
that cause. That these traps of the ring have FADDR 0, and that another kind raises PERM, is the model's reading (log 35). -/
def Launch : Prop :=
  ∀ (x y z : GReg) (s : State), Issues (.launch x y z) s →
    (63 < (s.rd z).toNat → exec (.launch x y z) s = .next (s.trap cXLATE 0#64)) ∧
    (∀ r, (s.rd z).toNat ≤ 63 → s.ringWords s.thr.part (s.cur / 16) (s.rd z).toNat = (r, none) → exec (.launch x y z) s = .next (r.trap cXLATE 0#64)) ∧
    ∀ (r : State) (ws : List Word), (s.rd z).toNat ≤ 63 → s.ringWords s.thr.part (s.cur / 16) (s.rd z).toNat = (r, some ws) →
      (((ws.getD 0 0#64).getLsbD 63 = false ∨ ringOk ws = false) → exec (.launch x y z) s = .next (r.trap cXLATE 0#64)) ∧
      ((ws.getD 0 0#64).getLsbD 63 = true → ringOk ws = true →
        (bf (ws.getD 0 0#64) 61 2 ≠ 2 → exec (.launch x y z) s = .next (r.trap cPERM 0#64)) ∧
        (bf (ws.getD 0 0#64) 61 2 = 2 → ∀ c, r.headerCheck (s.eaOf (s.rd y)) 128 = .error c → exec (.launch x y z) s = .next (r.trap c (s.eaOf (s.rd y)))) ∧
        (bf (ws.getD 0 0#64) 61 2 = 2 → r.headerCheck (s.eaOf (s.rd y)) 128 = .ok () → s.thr.out.length < 8 →
          Completes (.launch x y z) s fun t => Outstanding (.launch x y z) r t (s.eaOf (s.rd y)) (.append 1 (s.rd z).toNat 16 0 [])))

/-- R121, R312: the header of a launch behind its release. Its words are read once each, and one that is poisoned or does not translate
stops the thread late with that cause and the word's address. What was read is appended to the ring where that has room, and the old PROD is then the
instruction's value; while the ring is full the thread waits on message. -/
def HeaderArrives : Prop :=
  (∀ (s y : State) (p : Pend) (sc r len : Nat), s.thr.out = [p] → s.thr.posted = [] → s.thr.stop = none → p.perf = none →
    p.act = .append sc r len 0 [] → s.rangeStall s.thr.part p.addr.toNat (8 * len) = false →
    let x := s.chargeRange (s.turn / 64) s.thr.part p.addr.toNat (8 * len)
    (∀ ws, x.headerRead s.thr.part p.addr.toNat len = (y, .ok ws) → ws.length = len ∧
      (s.performOut s.turn s.cur 0).thr = { s.thr with out := [{ p with act := .append sc r len s.cycle ws }] }) ∧
    ∀ c pc a, x.headerRead s.thr.part p.addr.toNat len = (y, .error (c, pc, a)) →
      ∃ f, (s.performOut s.turn s.cur 0).thr.stop = some f ∧ f.cause = BitVec.ofNat 8 c ∧ f.pcause = BitVec.ofNat 8 pc ∧ f.faddr = W a ∧ f.fpc = p.pc) ∧
  ∀ (s r t : State) (p : Pend) (sc ring len at_ : Nat) (h ws : List Word), s.thr.out = [p] → p.act = .append sc ring len at_ h →
    s.ringWords s.thr.part (s.cur / 16) ring = (r, some ws) →
    let app := r.ringAppend (r.ringDie s.thr.part ring) s.thr.part (ws.getD 1 0#64).toNat (bf (ws.getD 0 0#64) 56 5) (if sc = 0 then h.take 15 ++ [0#64] else h)
    (∀ v, app = (t, some v) → s.appendOne s.turn s.cur p.seq =
      t.setThrAt s.turn s.cur { t.thrAt s.turn s.cur with out := (t.thrAt s.turn s.cur).out.set 0 { p with perf := some (W v) } }) ∧
    (app = (t, none) → s.appendOne s.turn s.cur p.seq = t)

/-! ## Memory -/

/-- An access of `n` bytes at a virtual address passes the checks of R320 at issue, lands at `l`, and need not wait. -/
def MayAccess (s : State) (va : Word) (n need kinds : Nat) (l : Loc) (rel : Bool) (sc : Nat) : Prop :=
  s.access va n need kinds = .ok l ∧ s.accessWaits va n l = false ∧ s.peerHolds l rel sc = false

/-- Where a single thread at home stands after a returning access has issued (R185): at home for its own die, scratch and host
memory, otherwise on its way to the Dahlia core of the line's channel, or to the other device. -/
def siteFor (s : State) (l : Loc) : Site :=
  match l with
  | .hbm a => if a / 2 ^ 37 = s.turn / 64 then .home else .departing (a / 2 ^ 36) (s.channel a / 4)
  | .peer d _ _ => .departing (1000 + d) 0
  | _ => .home

/-- R171, R238, R320, R323, R325: every form of load issues as an outstanding read of its bytes, with the extension, class and scope of
its form; its destination is empty until the value returns; its address is the form's. -/
def LoadsIssue : Prop :=
  ∀ (la : BitVec 4) (x y z : GReg) (sz sc : BitVec 2) (o : BitVec 6) (f : BitVec 19) (acq sgn : Bool) (s : State) (l : Loc),
    s.thr.ea = none → s.thr.lanes = [] → s.thr.site = .home → l.isHere = true →
    let n := 2 ^ sz.toNat
    let issues := fun (i : Instr) (va : Word) (sg aq : Bool) (c : Nat) => Issues i s → MayAccess s va n rRD 1 l false 0 →
      Completes i s fun t => Outstanding i s t va (.load l n sg x.toNat aq c) ∧ t.thr.site = siteFor s l
    let cm := BitVec.ofInt 64 ((s.rd y).toInt + o.toInt * 2 ^ sz.toNat)
    issues (.ld la x y sz o) cm false false 0 ∧ issues (.lds la x y sz o) cm true false 0 ∧
    issues (.ldx la x y z sz) (s.rd y + s.rd z) false false 0 ∧ issues (.ldsx la x y z sz) (s.rd y + s.rd z) true false 0 ∧
    issues (.ldLone la x y sz acq sc sgn f) (BitVec.ofInt 64 ((s.rd y).toInt + f.toInt)) sgn acq sc.toNat

/-- R253, R325: a load that stands where it executes, with nothing before it that it must follow, reads its bytes when it performs, and
LOAD_RETURN writes them to the destination, zero- or sign-extended, and makes it full; no byte of host memory or scratch
changes, and the instruction is finished. -/
def LoadsReturn : Prop :=
  ∀ (s : State) (p : Pend) (l : Loc) (m x sc : Nat) (sg acq : Bool),
    s.thr.out = [p] → s.thr.posted = [] → p.act = .load l m sg x acq sc → p.perf = none → p.late = none → p.dst = some x →
    s.thr.site = .home → (match l with | .hbm a => a / 2 ^ 37 = s.turn / 64 | _ => True) → l.isHere = true →
    s.locStall l = false → (s.memRead s.thr.part l m).bad = 0 → fillable x = true →
    let v := (s.memRead s.thr.part l m).v
    Completes (.loadReturn s.turn s.cur 0) s fun t =>
      t.thr.out = [] ∧ t.regVal x = (if sg then BitVec.ofInt 64 (if v < 2 ^ (8 * m - 1) ∨ m = 0 then v else (v : Int) - 2 ^ (8 * m)) else W v) ∧
      t.thr.full.getLsbD x = true ∧ t.thr.st = s.thr.st ∧
      (∀ r, r < 64 → (r < 48 ∨ 52 ≤ r) → r ≠ x → t.regVal r = s.regVal r) ∧
      (∀ a, t.hostByte a = s.hostByte a) ∧ ∀ n b o, t.scrByte n b o = s.scrByte n b o

/-- R239, R244, R325: every form of store issues as a posted access of the low bytes of its source at its form's address; no
byte of memory changes before it performs. -/
def StoresIssue : Prop :=
  ∀ (x y z : GReg) (sz sc : BitVec 2) (o : BitVec 6) (f : BitVec 19) (rel : Bool) (s : State) (l : Loc),
    s.thr.ea = none → l.isHere = true →
    let n := 2 ^ sz.toNat
    let posts := fun (i : Instr) (va : Word) (r : Bool) (c : Nat) => Issues i s → MayAccess s va n rWR 2 l r c →
      Completes i s fun t => PostedOne i s t l n (s.rd x) 0#64 none false r c va
    posts (.st x y sz o) (BitVec.ofInt 64 ((s.rd y).toInt + o.toInt * 2 ^ sz.toNat)) false 0 ∧
    posts (.stx x y z sz) (s.rd y + s.rd z) false 0 ∧
    posts (.stLone x y sz rel sc f) (BitVec.ofInt 64 ((s.rd y).toInt + f.toInt)) rel sc.toNat

/-- R244, R325: a posted store to HBM performs. Where the store's translated address is `a`, in a line that is filled, not poisoned and
tagged by the partition, its bytes hold the low bytes of the value, and every byte outside them, in HBM, scratchpads and
host memory, reads as before. -/
def StoresPerform : Prop :=
  ∀ (s : State) (p : Posted) (a : Nat),
    s.thr.posted = [p] → s.thr.out = [] → p.loc = .hbm a → p.performed = false → p.op = none → p.sync = false → p.wide = none →
    a % 64 + p.n ≤ 64 → s.locStall (.hbm a) = false → (s.lineOf a).unfilled = none → (s.lineOf a).poison = false →
    s.tagBad (s.keyOf s.thr.part) a = false → s.fld 11 0 0x808 3 1 = 0 → s.fld 2 0 (0x1000 * (a / 2 ^ 36) + 8) 2 1 = 0 →
    let t := s.performPosted s.turn s.cur 0
    readLE t.hbmByte a p.n = p.val.toNat % 256 ^ p.n ∧
    (∀ x, x < a ∨ a + p.n ≤ x → t.hbmByte x = s.hbmByte x) ∧
    (∀ n b o, t.scrByte n b o = s.scrByte n b o) ∧ (∀ x, t.hostByte x = s.hostByte x) ∧
    t.thr.posted = [{ p with performed := true, bad := 0 }] ∧ RegsSame s t

/-- R245, R322, R326: the synchronising accesses issue: ldsy as an outstanding consuming load, an acquire at its scope; stsy
as a posted producing store, a release at its scope. -/
def SyncAccesses : Prop :=
  ∀ (la : BitVec 4) (x y : GReg) (sc : BitVec 2) (f : BitVec 19) (s : State) (l : Loc),
    s.thr.ea = none → s.thr.lanes = [] → s.thr.site = .home → l.isHere = true →
    let va := BitVec.ofInt 64 ((s.rd y).toInt + f.toInt)
    (Issues (.ldsy la x y sc f) s → s.accessSync va (rRD + rWR) 3 = .ok l → s.accessWaits va 8 l = false →
      Completes (.ldsy la x y sc f) s fun t =>
        Outstanding (.ldsy la x y sc f) s t va (.cons l x.toNat sc.toNat) ∧ t.thr.site = siteFor s l) ∧
    (Issues (.stsy x y sc f) s → s.accessSync va rWR 2 = .ok l → s.accessWaits va 8 l = false →
      Completes (.stsy x y sc f) s fun t => PostedOne (.stsy x y sc f) s t l 8 (s.rd x) 0#64 none true true sc.toNat va) ∧
    (va.toNat % 8 ≠ 0 → ∀ need k, s.accessSync va need k = .error cALIGN) ∧
    (va.toNat % 8 = 0 → va.toNat / 2 ^ 48 = 0xFF → ∀ need k, s.accessSync va need k = .error cXLATE)

/-- R245, R246: the condition of a synchronising access at a stack where none waits. A consuming load takes effect on a word that
is full and a producing store on one that is empty; otherwise it joins the stack's list. A full/empty bit set or cleared
reads back, and the bits of other words stay. -/
def SyncConditions : Prop :=
  ∀ (s : State) (a n k seq : Nat) (store : Bool), (s.stackAt (a / 2 ^ 36)).syncs = [] →
    (s.feBit a = !store → s.syncGo a n k seq store = (s.setStack (a / 2 ^ 36) (s.stackAt (a / 2 ^ 36)), true)) ∧
    (s.feBit a = store → (s.syncGo a n k seq store).2 = false ∧
      ((s.syncGo a n k seq store).1.stackAt (a / 2 ^ 36)).syncs = [{ cell := n, slot := k, seq := seq, store := store, hpa := a, pkt := none }]) ∧
    (∀ b, (s.setFe a b).feBit a = b) ∧
    ∀ b x, x / 8 ≠ a / 8 → (s.lineOf x).unfilled = none → (s.lineOf a).unfilled = none → (s.setFe a b).feBit x = s.feBit x

/-- R322, R327, R328: every atomic issues. With a destination it is outstanding and returns the old value; with z it is posted
and returns nothing. -/
def AtomicsIssue : Prop :=
  ∀ (la : BitVec 4) (x y z w : GReg) (sz sc : BitVec 2) (acq rel : Bool) (f : BitVec 19) (s : State) (l : Loc),
    s.thr.ea = none → s.thr.lanes = [] → s.thr.site = .home → l.isHere = true →
    let n := 2 ^ sz.toNat
    let va := BitVec.ofInt 64 ((s.rd y).toInt + f.toInt)
    let does := fun (i : Instr) (o : AOp) (u : Word) => Issues i s → MayAccess s va n rAT 3 l rel sc.toNat →
      (x ≠ 63 → Completes i s fun t =>
        Outstanding i s t va (.atom l n o (s.rd z) u x.toNat acq rel sc.toNat) ∧ t.thr.site = siteFor s l) ∧
      (x = 63 → Completes i s fun t => PostedOne i s t l n (s.rd z) u (some o) false rel sc.toNat va)
    does (.aadd la x y z sz acq rel sc f) .add 0#64 ∧ does (.aand la x y z sz acq rel sc f) .and 0#64 ∧
    does (.aor la x y z sz acq rel sc f) .or 0#64 ∧ does (.axor la x y z sz acq rel sc f) .xor 0#64 ∧
    does (.amin la x y z sz acq rel sc f) .min 0#64 ∧ does (.amax la x y z sz acq rel sc f) .max 0#64 ∧
    does (.aminu la x y z sz acq rel sc f) .minu 0#64 ∧ does (.amaxu la x y z sz acq rel sc f) .maxu 0#64 ∧
    does (.aswp la x y z sz acq rel sc f) .swp 0#64 ∧ does (.acas la x y z w sz acq rel sc f) .cas (s.rd w)

/-- R327, R328: what an atomic of 4 or 8 bytes does at its location: the value it returns is the old one, and the memory holds the
operation's new value; acas writes only where the old value equals its operand. Bytes outside the location are as before. -/
def AtomicsPerform : Prop :=
  ∀ (s : State) (q a n v w : Nat) (o : AOp), (n = 4 ∨ n = 8) → a % n = 0 →
    (s.lineOf a).unfilled = none → (s.lineOf a).poison = false →
    s.tagBad (s.keyOf q) a = false → s.fld 11 0 0x808 3 1 = 0 → s.fld 2 0 (0x1000 * (a / 2 ^ 36) + 8) 2 1 = 0 →
    let old := readLE s.hbmByte a n
    let r := s.atomic q (.hbm a) n o v w
    let m := 2 ^ (8 * n)
    let g := fun (k : Nat) => if k % m < m / 2 then ((k % m : Nat) : Int) else (k % m : Nat) - (m : Int)
    r.bad = 0 ∧ r.v = old ∧
    readLE r.s.hbmByte a n = (match o with
      | .add => (old + v) % m
      | .and => old &&& (v % m)
      | .or => old ||| (v % m)
      | .xor => old ^^^ (v % m)
      | .min => if g old ≤ g v then old else v % m
      | .max => if g old ≤ g v then v % m else old
      | .minu => min old (v % m)
      | .maxu => max old (v % m)
      | .swp => v % m
      | .cas => if old = v % m then w % m else old) ∧
    ∀ x, x < a ∨ a + n ≤ x → r.s.hbmByte x = s.hbmByte x

/-- R243, R329 to R331: a fence whose condition holds does nothing more, and one whose condition does not hold waits on memory; a
prefetch changes no register and no byte that a read sees; cinv discards the bundles of its range. That it waits, its buffers kept, while earlier
stores of the thread to this device are unperformed is the model's choice (log 12). -/
def Obligations.FencesAndCode : Prop :=
  ∀ (k sc sz : BitVec 2) (o : BitVec 6) (y z : GReg) (s : State),
    let ok := (k = 2 ∨ s.thr.out.all (fun p => p.perf.isSome || p.act.locs.isEmpty) = true) ∧
      (k = 1 ∨ s.thr.released (s.turn / 64) sc.toNat s.thr.seqNo = true)
    (Issues (.fence k sc) s → ok → exec (.fence k sc) s = .next s) ∧
    (Issues (.fence k sc) s → ¬ ok → Completes (.fence k sc) s fun t => t.thr.wait = .parked false ∧ OnlyThread s t) ∧
    (Issues (.pf y sz o) s → (∀ a v, (s.lineOf a).unfilled ≠ some (.copy v)) →
      Completes (.pf y sz o) s fun t => RegsSame s t ∧ t.thr = s.thr ∧ ∀ a, t.seenByte a = s.seenByte a) ∧
    (Issues (.cinv y z) s → (s.rd y).toNat % 8 = 0 → (s.rd z).toNat % 8 = 0 → s.thr.posted.any (fun p => !p.performed && p.loc.isHere) = true →
      Completes (.cinv y z) s fun t => t.thr.wait = .parked false ∧ OnlyThread s t ∧ t.fetchBuf = s.fetchBuf) ∧
    (Issues (.cinv y z) s → (s.rd y).toNat % 8 = 0 → (s.rd z).toNat % 8 = 0 → s.thr.posted.all (fun p => p.performed || !p.loc.isHere) = true → Completes (.cinv y z) s fun t =>
      RegsSame s t ∧ MemSame s t ∧ ∀ e, e ∈ t.fetchBuf ↔ e ∈ s.fetchBuf ∧
        ¬ (e.1 / 2 ^ 57 = s.thr.part ∧ (2 ^ 32 < (s.rd z).toNat ∨
          ((s.rd y).toNat ≤ e.1 % 2 ^ 57 ∧ e.1 % 2 ^ 57 < (s.rd y).toNat + (s.rd z).toNat)))) ∧
    (Issues (.cinv y z) s → (s.rd y).toNat % 8 ≠ 0 ∨ (s.rd z).toNat % 8 ≠ 0 → exec (.cinv y z) s = .next (s.trap cALIGN (s.rd y)))

/-- R332, R333: what bmove checks: a misaligned register or count raises ALIGN, and a release that is not over, or an element still on its way,
keeps the thread waiting on memory. A count of zero moves nothing. -/
def MoveChecks : Prop :=
  ∀ (x y z : GReg) (sz sc : BitVec 2) (acq rel : Bool) (s : State),
    let i : Instr := .bmove x y z sz acq rel sc
    let n := 2 ^ sz.toNat
    Issues i s → s.thr.latch = none →
    ((s.rd x).toNat % n ≠ 0 → exec i s = .next (s.trap cALIGN (s.rd x))) ∧
    ((s.rd x).toNat % n = 0 → (s.rd y).toNat % n ≠ 0 → exec i s = .next (s.trap cALIGN (s.rd y))) ∧
    ((s.rd x).toNat % n = 0 → (s.rd y).toNat % n = 0 → (s.rd z).toNat % n ≠ 0 → exec i s = .next (s.trap cALIGN 0#64)) ∧
    ((s.rd x).toNat % n = 0 → (s.rd y).toNat % n = 0 → (s.rd z).toNat % n = 0 → rel = true →
      s.thr.released (s.turn / 64) sc.toNat s.thr.seqNo = false → Completes i s fun t => t.thr.wait = .parked false ∧ OnlyThread s t) ∧
    ((s.rd x).toNat % n = 0 → (s.rd y).toNat % n = 0 → s.rd z = 0#64 → (rel = true → s.thr.released (s.turn / 64) sc.toNat s.thr.seqNo = true) →
      s.thr.out = [] → exec i s = .next s)

/-- R332, R333: one element within HBM is read and stored, the addresses step up and the count down by its size; then the thread waits at the
bundle, not ready on memory, for its next turn. -/
def MoveInHbm : Prop :=
  ∀ (x y z : GReg) (sz sc : BitVec 2) (acq rel : Bool) (s : State) (a b : Nat),
    let i : Instr := .bmove x y z sz acq rel sc
    let n := 2 ^ sz.toNat
    Issues i s → s.thr.latch = none → (s.rd x).toNat % n = 0 → (s.rd y).toNat % n = 0 → s.rd z = W n → s.thr.out = [] → s.thr.posted = [] →
      s.access (s.rd y) n rRD 1 = .ok (.hbm a) → s.access (s.rd x) n rWR 2 = .ok (.hbm b) →
      s.accessWaits (s.rd y) n (.hbm a) = false → s.accessWaits (s.rd x) n (.hbm b) = false →
      (s.lineOf a).unfilled = none → (s.lineOf a).poison = false → s.tagBad (s.keyOf s.thr.part) a = false →
      (s.lineOf b).unfilled = none → (s.lineOf b).poison = false → s.tagBad (s.keyOf s.thr.part) b = false →
      s.fld 11 0 0x808 3 1 = 0 → s.fld 2 0 (0x1000 * (a / 2 ^ 36) + 8) 2 1 = 0 → s.fld 2 0 (0x1000 * (b / 2 ^ 36) + 8) 2 1 = 0 →
      Completes i s fun t =>
        readLE t.hbmByte b n = readLE s.hbmByte a n ∧ (∀ c, c < b ∨ b + n ≤ c → t.hbmByte c = s.hbmByte c) ∧
        t.regVal x.toNat = s.rd x + W n ∧ t.regVal y.toNat = s.rd y + W n ∧ t.regVal z.toNat = 0#64 ∧
        t.thr.wait = .kept false ∧ t.thr.npc = s.thr.pc ∧
        ∀ r, r < 64 → (r < 48 ∨ 52 ≤ r) → r ≠ x.toNat → r ≠ y.toNat → r ≠ z.toNat → t.regVal r = s.regVal r

/-- A range of `n` bytes at a virtual address lies in the thread's scratch window (R223, R224), on a die of its partition, within the scratchpad of one cell,
of which no word is bad and no block has still to be swapped in. -/
def InWindow (s : State) (va : Word) (n : Nat) : Prop :=
  va.toNat / 2 ^ 48 = 0xFF ∧ va.toNat / 2 ^ 31 % 2 ^ 17 = 0 ∧ s.dieIn s.thr.part (va.toNat / 2 ^ 28 % 8) = true ∧
  s.thr.sb.toNat ≤ va.toNat ∧ va.toNat + n ≤ s.thr.sb.toNat + s.thr.ss.toNat ∧ va.toNat % 2 ^ 22 + n ≤ 2 ^ 22 ∧
  (s.cellAt (64 * (va.toNat / 2 ^ 28 % 8) + va.toNat / 2 ^ 22 % 64)).badWords = [] ∧
  (s.cellAt (64 * (va.toNat / 2 ^ 28 % 8) + va.toNat / 2 ^ 22 % 64)).swap = []

/-- The bundle of an instruction that keeps its thread waiting attempted `k` times more, by itself. -/
def Attempts (i : Instr) : Nat → State → State → Prop
  | 0, s, t => t = s
  | k + 1, s, t => ∃ u, exec i s = .next u ∧ Attempts i k (u.setThr { u.thr with wait := .none, npc := s.thr.npc }) t

/-- R332, R333: bmove of any count within the thread's scratch window, of ranges that do not overlap, while nothing of the thread is outstanding, no
breakpoint is enabled, no copy is under a watermark and no page is being moved: after as many turns as it has elements, every byte is copied, both
addresses are behind their ranges and the count is 0, no other byte and no other register has changed, and the turn behind them completes. -/
def MoveInScratch : Prop :=
  ∀ (x y z : GReg) (sz sc : BitVec 2) (acq rel : Bool) (s : State),
    let i : Instr := .bmove x y z sz acq rel sc
    let n := 2 ^ sz.toNat
    let m := (s.rd z).toNat
    let cx := 64 * ((s.rd x).toNat / 2 ^ 28 % 8) + (s.rd x).toNat / 2 ^ 22 % 64
    let cy := 64 * ((s.rd y).toNat / 2 ^ 28 % 8) + (s.rd y).toNat / 2 ^ 22 % 64
    let ox := (s.rd x).toNat % 2 ^ 22
    let oy := (s.rd y).toNat % 2 ^ 22
    Issues i s → s.thr.latch = none → s.thr.far = none → (s.rd x).toNat % n = 0 → (s.rd y).toNat % n = 0 → m % n = 0 →
      s.thr.out = [] → s.thr.posted = [] → s.fld 11 0 0x800 0 1 = 0 → s.chans = [] → (s.partAt s.thr.part).moves = [] →
      InWindow s (s.rd x) m → InWindow s (s.rd y) m → (cx ≠ cy ∨ ox + m ≤ oy ∨ oy + m ≤ ox) →
      ∃ t, Attempts i (m / n) s t ∧ exec i t = .next t ∧
        (∀ j, j < m → t.scrByte cx (s.cellBank cx) (ox + j) = s.scrByte cy (s.cellBank cy) (oy + j)) ∧
        (∀ c b o, ¬ (c = cx ∧ b = s.cellBank cx ∧ ox ≤ o ∧ o < ox + m) → o < 2 ^ 22 → t.scrByte c b o = s.scrByte c b o) ∧
        (∀ a, t.hbmByte a = s.hbmByte a) ∧ (∀ a, t.hostByte a = s.hostByte a) ∧
        t.regVal x.toNat = s.rd x + s.rd z ∧ t.regVal y.toNat = s.rd y + s.rd z ∧ t.regVal z.toNat = 0#64 ∧ t.thr.npc = s.thr.npc ∧
        ∀ r, r < 64 → (r < 48 ∨ 52 ≤ r) → r ≠ x.toNat → r ≠ y.toNat → r ≠ z.toNat → t.regVal r = s.regVal r

/-- R332, R333: bmove: its checks, an element within HBM, and any count within scratch. -/
def Obligations.BlockMove : Prop := MoveChecks ∧ MoveInHbm ∧ MoveInScratch

/-- R336 to R338, R344: the mailbox counters. mbset sets one and returns its old value; mbwait ends when the counter has reached the value, modulo
2^64, taking it off with .sub, and waits before that, and while a thread of a lower slot of its cell waits for the counter and it has reached that one's
value; mbread issues an acquiring read; a number above 63 raises FMT. -/
def MailboxCounters : Prop :=
  ∀ (la : BitVec 4) (x y z : GReg) (m : BitVec 2) (s : State),
    let k := (s.rd y).toNat
    let v := tget (fun _ => 0#64) s.cell.mbc k
    let sets := fun (t : State) (j : Nat) (u : Word) => ∀ h, tget (fun _ => 0#64) t.cell.mbc h = if h = j then u else tget (fun _ => 0#64) s.cell.mbc h
    (∀ i, i = Instr.mbset x y z ∨ i = Instr.mbwait x y z m ∨ i = Instr.mbread la x y → Issues i s → 63 < k → exec i s = .next (s.trap cFMT 0#64)) ∧
    (Issues (.mbset x y z) s → k ≤ 63 → Completes (.mbset x y z) s fun t => Wrote s t x v 0#8 ∧ sets t k (s.rd z) ∧ MemSame s t) ∧
    (s.mbEarlier k = true ↔ ∃ i u w, i < s.cur % 16 ∧ s.thr? s.turn (s.cur / 16 * 16 + i) = some u ∧ u.stop = none ∧ u.wait = .mbox k w ∧
      (v - w).toNat < 2 ^ 63) ∧
    (Issues (.mbwait x y z m) s → k ≤ 63 → (v - s.rd z).toNat < 2 ^ 63 → s.mbEarlier k = false → Completes (.mbwait x y z m) s fun t =>
      Wrote s t x v 0#8 ∧ sets t k (if m = 1 then v - s.rd z else v) ∧ MemSame s t) ∧
    (Issues (.mbwait x y z m) s → k ≤ 63 → 2 ^ 63 ≤ (v - s.rd z).toNat ∨ s.mbEarlier k = true → Completes (.mbwait x y z m) s fun t =>
      t.thr.wait = .mbox k (s.rd z) ∧ t.thr.npc = s.thr.pc ∧ OnlyThread s t) ∧
    (Issues (.mbread la x y) s → k ≤ 63 → Completes (.mbread la x y) s fun t => Outstanding (.mbread la x y) s t 0#64 (.mbc k x.toNat))

/-- R339 to R341: barrier objects in HBM or scratch of this device, on a line that reads without a fault. A bowait joins the list of its stack, here an
empty one, in its first turn; in a later one it ends if PHASE differs from bit 0 of its register, leaves the list and writes word 0, and stays
otherwise; one that a flip has answered writes word 0 as it stood there. For an object on another device its word is asked for there while the
thread stands at the bundle, and the answer, once it has come, is written (the model's reading, log 33); boread issues a read of word 0; boinit clears
ACC, keeps PHASE and sets EXPECT. -/
def BarrierObjects : Prop :=
  ∀ (la : BitVec 4) (x y z : GReg) (sc : BitVec 2) (s : State) (l : Loc), s.thr.ea = none → l.isHere = true →
    let va := s.rd y
    let r := (s.charge s.dieNo s.thr.part va.toNat 8).memRead s.thr.part l 8
    let fresh := ∀ v, s.thr.wait ≠ .answered v
    (Issues (.boread la x y sc) s → s.barObj va rRD 1 = .ok l → s.accessWaits va 8 l = false → Completes (.boread la x y sc) s fun t =>
      Outstanding (.boread la x y sc) s t va (.bar l x.toNat sc.toNat)) ∧
    (∀ v, Issues (.bowait x y z sc) s → s.thr.wait = .answered v → fillable x.toNat = true → Completes (.bowait x y z sc) s fun t =>
      t.regVal x.toNat = v ∧ t.thr.full.getLsbD x.toNat = true ∧ t.thr.wait = .none ∧ t.thr.out = s.thr.out ∧ t.thr.st = s.thr.st ∧ MemSame s t) ∧
    (∀ v, Issues (.bowait x y z sc) s → fresh → s.thr.phaseRead = some v → fillable x.toNat = true → Completes (.bowait x y z sc) s fun t =>
      t.regVal x.toNat = v ∧ t.thr.full.getLsbD x.toNat = true ∧ t.thr.out = s.thr.out.filter (fun p => p.replays || p.late.isSome) ∧ t.thr.st = s.thr.st ∧ MemSame s t) ∧
    (∀ d w off, Issues (.bowait x y z sc) s → fresh → s.thr.phaseRead = none → s.barObj va rRD 1 = .ok (.peer d w off) → s.accessWaits va 8 (.peer d w off) = false →
      s.peerHolds (.peer d w off) false 0 = false → s.thr.out.length < 8 → s.reachable d true = true → Completes (.bowait x y z sc) s fun t =>
        t.thr.wait = .polling ∧ t.thr.full = s.thr.full ∧ MemSame s t ∧
        (∃ p, t.thr.out = s.thr.out ++ [p] ∧ p.act = .phase (.peer d w off) sc.toNat ∧ p.perf = none ∧ p.replays = false) ∧
        ∃ k, k ∈ (t.txOf d true).unacked ++ (t.txOf d true).waiting ∧ k.kind = 0x10#8) ∧
    (Issues (.bowait x y z sc) s → fresh → s.thr.phaseRead = none → s.barObj va rRD 1 = .ok l → s.accessWaits va 8 l = false → s.nowWaits [l] = false →
      (∀ a, l = .hbm a → s.thr.wait ≠ .barDue l → (s.stackAt (a / 2 ^ 36)).bars = [] → Completes (.bowait x y z sc) s fun t =>
        t.thr.wait = .barHeld (a / 2 ^ 36) l ((s.rd z).getLsbD 0) ∧ (t.stackAt (a / 2 ^ 36)).bars = [(s.turn, s.cur)] ∧ RegsSame s t ∧ MemSame s t) ∧
      (s.thr.wait = .barDue l → r.bad = 0 → r.v < 2 ^ 64 →
        (decide (2 ^ 63 ≤ r.v) ≠ (s.rd z).getLsbD 0 → fillable x.toNat = true → Completes (.bowait x y z sc) s fun t =>
          t.regVal x.toNat = W r.v ∧ t.thr.full.getLsbD x.toNat = true ∧ t.thr.st = s.thr.st ∧
          ∀ a, l = .hbm a → (s.turn, s.cur) ∉ (t.stackAt (a / 2 ^ 36)).bars) ∧
        (∀ a, l = .hbm a → decide (2 ^ 63 ≤ r.v) = (s.rd z).getLsbD 0 → (r.s.stackAt (a / 2 ^ 36)).bars = [(s.turn, s.cur)] →
          Completes (.bowait x y z sc) s fun t =>
            t.thr.wait = .barHeld (a / 2 ^ 36) l ((s.rd z).getLsbD 0) ∧ (t.stackAt (a / 2 ^ 36)).bars = [(s.turn, s.cur)] ∧ RegsSame s t))) ∧
    (Issues (.boinit y z) s → s.barObj va rWR 2 16 = .ok l → (s.rd z).toNat < 2 ^ 48 → s.accessWaits va 16 l = false →
      s.nowWaits [l, l.plus 8] = false → ∀ a, l = .hbm a → a % 64 + 16 ≤ 64 →
      (s.lineOf a).unfilled = none → (s.lineOf a).poison = false → s.tagBad (s.keyOf s.thr.part) a = false →
      s.fld 11 0 0x808 3 1 = 0 → s.fld 2 0 (0x1000 * (a / 2 ^ 36) + 8) 2 1 = 0 →
      Completes (.boinit y z) s fun t =>
        readLE t.hbmByte a 8 = readLE s.hbmByte a 8 / 2 ^ 63 * 2 ^ 63 ∧ readLE t.hbmByte (a + 8) 8 = (s.rd z).toNat ∧
        RegsSame s t ∧ ∀ b, b < a ∨ a + 16 ≤ b → t.hbmByte b = s.hbmByte b) ∧
    (Issues (.boinit y z) s → s.barObj va rWR 2 16 = .ok l → 2 ^ 48 ≤ (s.rd z).toNat → exec (.boinit y z) s = .next (s.trap cFMT 0#64))

/-- R308 to R311: yield, done, setpri and tbar. -/
def Obligations.TaskControl : Prop := ThreadControl ∧ DoneWaits

/-- R179, R303, R312: fill and launch. -/
def Obligations.FillAndLaunch : Prop := Fills ∧ Launch ∧ HeaderArrives

/-- R171, R238, R253, R320, R325: loads, from issue to the write of their destination. -/
def Obligations.Loads : Prop := LoadsIssue ∧ LoadsReturn

/-- R239, R244, R325: stores, from issue to the bytes they write. -/
def Obligations.Stores : Prop := StoresIssue ∧ StoresPerform

/-- R245, R246, R326: synchronising accesses and their condition. -/
def Obligations.Synchronising : Prop := SyncAccesses ∧ SyncConditions

/-- R322, R327, R328: atomics, from issue to their effect. -/
def Obligations.Atomics : Prop := AtomicsIssue ∧ AtomicsPerform

/-- R336 to R341: mailbox counters and barrier objects. -/
def Obligations.CountersAndBarriers : Prop := MailboxCounters ∧ BarrierObjects

/-! ## Traps -/

/-- Thread `k` of cell `n` stops with a frame (R253, R255): the frame holds the thread's registers, the cause, the faulting
address and pc, and its unfinished instructions in issue order; the thread resumes at `resume`, has nothing outstanding, knows the fault server that
FSRV names (R122), and keeps its registers and its posted accesses; no other thread, register of the module or byte of memory changes. -/
def Stopped (s t : State) (n k cause : Nat) (faddr fpc resume : Word) : Prop :=
  ∃ u f, s.thr? n k = some u ∧
    t.thr? n k = some { u with stop := some f, sent := false, dest := s.server u.part, latch := none, pc := resume, npc := resume,
                               skip := if u.lanes.isEmpty then 0 else u.skip, out := [], replay := [], ea := none, issued := false, site := .home,
                               refusals := 0, wait := u.wait.issuedPart } ∧
    f.cause.toNat = cause ∧ f.faultIdx = 15#4 ∧ f.pcause = 0#8 ∧ f.deferred = false ∧ f.dead = false ∧ f.notify = false ∧
    f.faddr = faddr ∧ f.fpc = fpc ∧ f.ctx.pc = resume ∧ f.ctx.gid = u.gid ∧ f.ctx.st = u.st ∧ f.ctx.full = u.full.setWidth 48 ∧
    (∀ r, r < 48 → f.ctx.g.getD r 0#64 = s.regOf n u r) ∧ f.ctx.lk = s.regOf n u 62 ∧
    f.gang = !u.lanes.isEmpty ∧ f.tb = s.reg 11 0 (0xA10 + 0x40 * (n / 64)) ∧
    f.entries.length = (u.out.filter Pend.replays).length + u.replay.length ∧
    (∀ (i : Nat) (p : Pend), (u.out.filter Pend.replays)[i]? = some p → ∃ e : REntry, f.entries[i]? = some e ∧ e.inst = p.inst ∧ e.slot = p.slot ∧ e.pc = p.pc ∧ e.opA = p.opA ∧
      e.opB = p.opB ∧ e.opC = p.opC ∧ e.addr = p.addr ∧ e.action = e.perf ∧ e.perf = (p.perf.isSome && p.dst.isSome)) ∧
    (∀ m j, (m, j) ≠ (n, k) → t.thr? m j = s.thr? m j) ∧ t.regs = s.regs ∧ MemSame s t

/-- R252, R253, R255, R313: taking a trap. A trap detected at issue stops the thread with a frame of its cause; it resumes at the
bundle, or for SYSCALL (14) and DRIFT (9) at the following one; trap raises SYSCALL with its operand as FADDR. -/
def Obligations.TakingATrap : Prop :=
  ∀ (s : State) (u : Thread), s.thr? s.turn s.cur = some u →
    (∀ c a, c < 256 → Stopped s (s.trap c a) s.turn s.cur c a u.pc (if c = 14 ∨ c = 9 then u.pc + 8#64 else u.pc)) ∧
    ∀ e : BitVec 26, Issues (.trap e) s → Completes (.trap e) s fun t =>
      Stopped s t s.turn s.cur 14 (e.setWidth 64) u.pc (u.pc + 8#64)

/-- R138, R178, R181, R182, R252: what every encoded instruction may raise before anything else. Tile and stream registers at or beyond the
task's count and a mesh port off the edge raise ILLEGAL (1); then a register in a bank that is off, or a source that is empty with no
write pending, raises BANKOFF (6) with its number. -/
def Obligations.SharedTraps : Prop :=
  ∀ (i : Instr) (c : Code) (s : State), encode i = some c →
    let ts := tileSrcs i ++ tileDsts i
    let qs := strmSrcs i ++ strmDsts i
    let outOf := i.wf = false ∨ (∃ k ∈ ts, s.thr.tiles.length ≤ k) ∨ (∃ k ∈ qs, s.thr.strms.length ≤ k) ∨
      ∃ r ∈ named i, 48 ≤ r ∧ r < 52 ∧ meshNeighbour s.turn (r - 48) = none
    (outOf → exec i s = .next (s.trap 1 0#64)) ∧
    (¬ outOf → (∀ k ∈ ts, s.bankPower s.turn (s.tphys k / 8) ≠ 2) → (∀ k ∈ qs, s.bankPower s.turn (4 + s.sphys k / 8) ≠ 2) →
      (∀ k ∈ tileSrcs i, (s.tile k).full = true ∨ (s.tile k).pending = true) →
      (∀ k ∈ strmSrcs i, (s.strm k).full = true ∨ (s.strm k).pending = true) → s.preTrap i = none) ∧
    (¬ outOf → (∀ k ∈ ts, s.bankPower s.turn (s.tphys k / 8) ≠ 2) → (∀ k ∈ qs, s.bankPower s.turn (4 + s.sphys k / 8) ≠ 2) →
      (∀ l k r, tileSrcs i = l ++ k :: r → (∀ j ∈ l, (s.tile j).full = true ∨ (s.tile j).pending = true) → (s.tile k).full = false → (s.tile k).pending = false →
        exec i s = .next (s.trap 6 (W k))) ∧
      ((∀ k ∈ tileSrcs i, (s.tile k).full = true ∨ (s.tile k).pending = true) → ∀ l k r, strmSrcs i = l ++ k :: r →
        (∀ j ∈ l, (s.strm j).full = true ∨ (s.strm j).pending = true) → (s.strm k).full = false → (s.strm k).pending = false →
        exec i s = .next (s.trap 6 (W k)))) ∧
    (∀ k, ¬ outOf → ts = [k] → s.bankPower s.turn (s.tphys k / 8) = 2 → exec i s = .next (s.trap 6 (W k))) ∧
    ∀ k, ¬ outOf → ts = [] → qs = [k] → s.bankPower s.turn (4 + s.sphys k / 8) = 2 → exec i s = .next (s.trap 6 (W k))

/-- The state after a packet of a kind has been taken by its stream, or the state itself where none is held (R57). -/
def Arrives (s : State) (k : Nat) (t : State) : Prop :=
  (s.heldPkt k = none ∧ t = s) ∨ ∃ p, s.heldPkt k = some p ∧ s.accept p = (t, true)

/-- A frame names a stopped thread of this device whose frame was sent, in the context bank in use, and can be restored: its pc names a bundle, and
its entries that complete name scalar registers (R258, R273). -/
def Restorable (s : State) (f : Frame) (u : Thread) : Prop :=
  f.dead = false ∧ f.notify = false ∧ s.thr? (originCell f.origin) (originKey f.origin) = some u ∧
  (∃ g, u.stop = some g ∧ g.token = f.token) ∧ u.sent = true ∧ bf f.origin 37 3 = u.part ∧ f.ctx.pc.toNat % 8 = 0 ∧
  s.killedTask f.ctx.gid = false ∧ (f.origin, f.token) ∉ (s.partAt (bf f.origin 37 3)).killed ∧
  originKey f.origin / 16 = s.bankOf u.part ∧ (s.partAt u.part).switching = false ∧ (s.partAt u.part).returned = [] ∧
  (s.cellAt (originCell f.origin)).fills = [] ∧ ∀ e ∈ f.entries, e.action = true → ∃ d, entryDst e = some d ∧ fillable d.toNat = true

/-- What register `r` holds once the entries of a frame that complete have done so: the RESULT of the last that names it (R258). -/
def entryValue (f : Frame) (r : Nat) (v : Word) : Word :=
  (f.entries.filter (·.action)).foldl (fun v e => if (entryDst e).any (fun d => d.toNat == r) then e.result else v) v

/-- Its thread has resumed from the frame: the registers, full/empty bits, st, lk and pc are the frame's, with the results of the entries that complete;
the other entries are to be reissued, and the first bundle raises neither BREAK nor WATCH; gid, class and partition stay. -/
def Resumed (f : Frame) (u : Thread) (t : State) : Prop :=
  ∃ v, t.thr? (originCell f.origin) (originKey f.origin) = some v ∧ v.stop = none ∧ v.pc = f.ctx.pc ∧ v.npc = f.ctx.pc ∧
    v.st = f.ctx.st ∧ (∀ r, r < 48 → t.regOf (originCell f.origin) v r = entryValue f r (f.ctx.g.getD r 0#64)) ∧
    t.regOf (originCell f.origin) v 62 = entryValue f 62 f.ctx.lk ∧
    (∀ r, r < 48 → v.full.getLsbD r = (f.ctx.full.getLsbD r || f.entries.any fun e => e.action && (entryDst e).any fun d => d.toNat == r)) ∧
    v.replay = f.entries.filter (fun e => !e.action) ∧ v.noBreak = true ∧ v.gid = u.gid ∧ v.cls = u.cls ∧ v.part = u.part

/-- R44, R122, R254, R256: a stopped thread's frame is offered once every posted access is acknowledged, to the server that FSRV named when it stopped: to another
device as a packet, on this one into the queue of its partition, where no page of that stalls; without a server its cell stops issuing. A retry offers it again. -/
def FramesLeave : Prop :=
  ∀ (s : State) (n k : Nat) (f : Frame) (u : Thread), s.thr? n k = some u → u.stop = some f →
    let to_ := u.dest.or (s.server u.part)
    (u.posted ≠ [] ∨ u.sent = true → exec (.trapFrameSend n k) s = .next s) ∧
    (u.sent = false → u.posted = [] →
      (∀ dev p, to_ = some (dev, p) → dev ≠ s.devId → Completes (.trapFrameSend n k) s fun t =>
        (∃ v, t.thr? n k = some v ∧ v.sent = true ∧ v.stop = some f) ∧
        ∃ x, x ∈ (t.txOf dev true).unacked ++ (t.txOf dev true).waiting ∧ x.kind = 0x34#8 ∧ x.pay = frameWords f) ∧
      (∀ dev p s1 ok, to_ = some (dev, p) → dev = s.devId → s.tqStalls p = false → s.tqAccept p f = (s1, ok) →
        exec (.trapFrameSend n k) s = .next (s1.setThrAt n k { s1.thrAt n k with sent := ok })) ∧
      (∀ dev p, to_ = some (dev, p) → dev = s.devId → s.tqStalls p = true →
        exec (.trapFrameSend n k) s = .next (s.setThrAt n k { s.thrAt n k with sent := false })) ∧
      (to_ = none → Completes (.trapFrameSend n k) s fun t => (t.cellAt n).stopped = true ∧ t.fld 5 0 (0x40 * u.part + 8) 3 1 = 1 ∧
        ∃ v, t.thr? n k = some v ∧ v.stop = some f ∧ v.sent = false)) ∧
    (u.posted = [] → to_ = none → (s.partAt u.part).notes = [] → Completes (.trapFrameRetry n k) s fun t =>
      (t.cellAt n).stopped = (!u.sent || (s.cellAt n).stopped) ∧ ∃ v, t.thr? n k = some v ∧ v.stop = some f)

/-- R256, R259: frames at the trap queue of a partition. Where its LOG2N is 2 to 12 and slot PROD is free and clean, the frame's 128 words are stored
there and PROD moves on; a full queue, a slot on a poisoned line and an LOG2N out of range refuse it and count it. FRAMEDEAD sets DEAD in
each slot whose frame has the origin and the token. While a page of the queue stalls, the packet stays where it is. -/
def FramesArrive : Prop :=
  ∀ (s s1 : State) (q : Nat) (f : Frame),
    let refused := fun (s t : State) => t = s.setReg 11 0 (0x100 * q + 0x10) (s.reg 11 0 (0x100 * q + 0x10) + 1#64)
    let l := s1.fld 11 0 (0x100 * q + 8) 0 5
    let base := s1.fld 11 0 (0x100 * q + 8) 12 45 * 4096
    let mark := fun (s : State) (i : Nat) => match s.engWords q (base + 4096 + 1024 * i + 448) 6 with
      | (x, .error _) => x
      | (x, .ok ws) => if ws.getD 3 0#64 = f.origin ∧ ws.getD 5 0#64 = f.token then
          match x.engWrite q (base + 4096 + 1024 * i + 448) 8 (ws.getD 0 0#64 ||| 0x2000000#64).toNat with | .ok y => y | .error _ => x
        else x
    (s.tqStalls q = true → exec (.trapframe q f) s = .next s ∧ exec (.framedead q f.origin f.token) s = .next s) ∧
    (s.tqStalls q = false → Arrives s 0x34 s1 →
      (l < 2 ∨ 12 < l → Completes (.trapframe q f) s (refused s1)) ∧
      (∀ s2, 2 ≤ l → l ≤ 12 → s1.tqHead q = (s2, none) → Completes (.trapframe q f) s (refused s2)) ∧
      ∀ s2 prod cons, 2 ≤ l → l ≤ 12 → s1.tqHead q = (s2, some (prod, cons)) →
        ((prod + 2 ^ 32 - cons) % 2 ^ 32 = 2 ^ l → Completes (.trapframe q f) s (refused s2)) ∧
        ((prod + 2 ^ 32 - cons) % 2 ^ 32 ≠ 2 ^ l → s2.meetsPoison q (s2.tqSlot q prod) 1024 = true → Completes (.trapframe q f) s (refused s2)) ∧
        ∀ s3 s4, (prod + 2 ^ 32 - cons) % 2 ^ 32 ≠ 2 ^ l → s2.meetsPoison q (s2.tqSlot q prod) 1024 = false →
          s2.engPut q (s2.tqSlot q prod) (frameWords f) = .ok s3 → s3.engWrite q base 4 ((prod + 1) % 2 ^ 32) = .ok s4 →
          exec (.trapframe q f) s = .next s4) ∧
    (s.tqStalls q = false → Arrives s 0x36 s1 → exec (.framedead q f.origin f.token) s = .next (if l < 2 ∨ 12 < l then s1 else (List.range (2 ^ l)).foldl mark s1))

/-- What a frame returned to its origin comes to, with the code that answers it (R258, R259, R314): a DEAD frame, or one whose task or thread has been
killed, is discarded, 3; one whose slot holds no such thread is stale, 2; otherwise its thread resumes, 0. -/
def FrameBack (s : State) (f : Frame) (u : Thread) (t : State) (c : Nat) : Prop :=
  ((f.dead = true ∨ f.notify = true ∨ s.killedTask f.ctx.gid = true) ∧ t = s ∧ c = 3) ∨
  (f.dead = false ∧ f.notify = false ∧ s.killedTask f.ctx.gid = false ∧ (f.origin, f.token) ∈ (s.partAt (bf f.origin 37 3)).killed ∧ c = 3 ∧ t.cells = s.cells ∧
    MemSame s t) ∨
  (f.dead = false ∧ f.notify = false ∧ s.killedTask f.ctx.gid = false ∧ (f.origin, f.token) ∉ (s.partAt (bf f.origin 37 3)).killed ∧
    s.thr? (originCell f.origin) (originKey f.origin) = none ∧ t = s ∧ c = 2) ∨
  (Restorable s f u ∧ Resumed f u t ∧ MemSame s t ∧ c = 0)

/-- R258, R259, R314, R319: a frame returned to its origin, by a server of another device, to which the code goes back, or by tret. tret reads
a frame from a slot of its queue; one of this device reaches its thread at the end of the cycle, and the code is then the value of the tret, which waits
for it; a pc that names no bundle raises ALIGN; a frame of another device is sent to it and the answer awaited. That the packet is answered, and the
ALIGN, are the model's reading (log 22). -/
def FramesReturned : Prop :=
  ∀ (s s1 : State) (f : Frame) (u : Thread) (x y : GReg),
    (f.dead = true ∨ f.notify = true ∨ s.killedTask f.ctx.gid = true ∨ (f.origin, f.token) ∈ (s.partAt (bf f.origin 37 3)).killed ∨
      s.thr? (originCell f.origin) (originKey f.origin) = none ∨ Restorable s f u → FrameBack s f u (s.returnFrame f).1 (s.returnFrame f).2) ∧
    (Arrives s 0x35 s1 → bf f.origin 53 11 = s1.devId → exec (.tretframe f) s = .next (match s.heldPkt 0x35 with
      | some p => (s1.returnFrame f).1.reply p 0x11 2 0 [W (s1.returnFrame f).2]
      | none => (s1.returnFrame f).1)) ∧
    (∀ (n k : Nat) (r : Cell) (v : Thread) (p : Pend), s.cells = [(n, r)] → r.slots = [(k, some v)] → v.out = [p] → p.act = .back f → p.perf = none →
      let t := (s.returnFrame f).1
      s.returnAll = t.setThrAt n k { t.thrAt n k with out := (t.thrAt n k).out.map fun q =>
        if q.seq = p.seq then { q with perf := some (W (s.returnFrame f).2) } else q }) ∧
    let va := s.eaOf (s.rd y)
    (Issues (.tret x y) s → s.slotCheck s.thr.part va = .error 3 → exec (.tret x y) s = .next (s.trap 3 va)) ∧
    ∀ l ws, Issues (.tret x y) s → s.slotCheck s.thr.part va = .ok () → s.access va 1024 rRD 1 = .ok l →
      (frameLines l).any s.thr.lineBusy = false → s.accessWaits va 1024 l = false → s.nowWaits (frameLines l) = false → s.thr.out.length < 8 →
      (s.charge s.dieNo s.thr.part va.toNat 1024).frameRead s.thr.part l 128 = (s1, ws, 0) → f = frameOfWords ws →
      s1.turn = s.turn → s1.cur = s.cur → s1.thr = s.thr →
      (f.dead = true ∨ f.notify = true → Completes (.tret x y) s fun t => Outstanding (.tret x y) s1 t va (.back f)) ∧
      (f.dead = false → f.notify = false → f.ctx.pc.toNat % 8 ≠ 0 → exec (.tret x y) s = .next (s1.trap cALIGN f.ctx.pc)) ∧
      (f.ctx.pc.toNat % 8 = 0 → bf f.origin 53 11 = s1.devId → Completes (.tret x y) s fun t => Outstanding (.tret x y) s1 t va (.back f)) ∧
      (f.dead = false → f.notify = false → f.ctx.pc.toNat % 8 = 0 → bf f.origin 53 11 ≠ s1.devId → s1.noRoom (s.turn / 64) (bf f.origin 53 11) true 17 = false →
        Completes (.tret x y) s fun t => (∃ p, t.thr.out = s.thr.out ++ [p] ∧ p.act = .bar (.peer (bf f.origin 53 11) 0 0) x.toNat 0 ∧ p.perf = none ∧ p.addr = va) ∧
          ∃ p, p ∈ (t.txOf (bf f.origin 53 11) true).unacked ++ (t.txOf (bf f.origin 53 11) true).waiting ∧ p.kind = 0x35#8 ∧ p.pay = ws)

/-- R122, R254, R256, R258, R259, R314: frames on their way to a server, at its queue, and back. -/
def Obligations.FramesReturn : Prop := FramesLeave ∧ FramesArrive ∧ FramesReturned

/-! ## Special registers -/

/-- R315 to R317, R335: the special registers. rdpr reads any register of the BAR0 space under PRIV.RD and wrpr writes one under PRIV.WR,
through the rules of its block, once what its release orders has performed; cbank reads CBANK, and writes it under PRIV.WR; wmread issues an acquiring read of the watermark of
a channel of its partition. Without the permission each raises PERM (3), a misaligned offset ALIGN (5), an unimplemented
one XLATE (2), a channel above 23 FMT (10). -/
def Obligations.SpecialRegisters : Prop :=
  ∀ (la : BitVec 4) (x y z : GReg) (e : BitVec 26) (s : State), s.thr.ea = none →
    let a := s.rd y + e.setWidth 64
    let rd := s.fld 12 0 (8 * s.thr.part) 0 1 = 1
    let wr := s.fld 12 0 (8 * s.thr.part) 1 1 = 1
    let ok := a.toNat % 8 = 0 ∧ a.toNat < 2 ^ 27
    let c := (s.rd y).toNat
    (Issues (.rdpr la x y e) s → ¬ rd → exec (.rdpr la x y e) s = .next (s.trap 3 a)) ∧
    (Issues (.rdpr la x y e) s → rd → a.toNat % 8 ≠ 0 → exec (.rdpr la x y e) s = .next (s.trap 5 a)) ∧
    (∀ v, Issues (.rdpr la x y e) s → rd → ok → (s.blockAt a.toNat).isSome = true → s.barRead a.toNat = some v →
      Completes (.rdpr la x y e) s fun t => Returns (.rdpr la x y e) s t a [.scalar x.toNat v] 0#8) ∧
    (Issues (.rdpr la x y e) s → rd → ok → s.blockAt a.toNat = none → exec (.rdpr la x y e) s = .next (s.trap 2 a)) ∧
    (Issues (.wrpr y z e) s → ¬ wr → exec (.wrpr y z e) s = .next (s.trap 3 a)) ∧
    (Issues (.wrpr y z e) s → wr → a.toNat % 8 ≠ 0 → exec (.wrpr y z e) s = .next (s.trap 5 a)) ∧
    (Issues (.wrpr y z e) s → wr → ok → s.blockAt a.toNat = none → exec (.wrpr y z e) s = .next (s.trap 2 a)) ∧
    (Issues (.wrpr y z e) s → wr → ok → (s.blockAt a.toNat).isSome = true → s.thr.out.length < 8 →
      Completes (.wrpr y z e) s fun t => Outstanding (.wrpr y z e) s t a (.priv a.toNat (s.rd z))) ∧
    (∀ n k (r : Cell) (u : Thread) p off v b i o m, s.cells = [(n, r)] → r.slots = [(k, some u)] → u.out = [p] → u.posted = [] → p.act = .priv off v →
      16 * s.caps.length ≤ off → s.blockAt off = some (b, i, o) → (b = 12 ∨ (b = 11 ∧ o < 0x800 ∧ 0x40 ≤ o % 0x100)) → regMask b o = some m →
      writeBad b o v = false → let t := s.privAll false
      t.reg b i o = ((s.reg b i o &&& ~~~ W m.rw) ||| (v &&& W m.rw)) &&& ~~~ (v &&& W m.w1c) ∧
        t.thr? n k = some { u with out := [] } ∧ MemSame s t) ∧
    (Issues (.cbank x y false) s → Computes (.cbank x y false) x s s.cell.cbank) ∧
    (Issues (.cbank x y true) s → ¬ wr → exec (.cbank x y true) s = .next (s.trap 3 0#64)) ∧
    (Issues (.cbank x y true) s → wr → Completes (.cbank x y true) s fun t =>
      Wrote s t x s.cell.cbank 0#8 ∧ MemSame s t ∧
      t.cell.cbank = if (s.rd y).toNat / 2 ^ 17 ≠ 0 ∨ bf (s.rd y) 13 3 ≠ 0 ∨ (∃ b, b < 6 ∧ bf (s.rd y) (2 * b) 2 = 3) ∨ s.offRefused s.turn (s.rd y) = true
        then s.cell.cbank ||| 0x1000#64
        else if (s.rd y).getLsbD 12 then s.rd y &&& ~~~ 0x1000#64 else s.rd y ||| (s.cell.cbank &&& 0x1000#64)) ∧
    (Issues (.wmread la x y) s → 23 < c → exec (.wmread la x y) s = .next (s.trap 10 0#64)) ∧
    (Issues (.wmread la x y) s → c ≤ 23 → s.fld 9 (s.turn / 64) (0x40 * c) 9 3 ≠ s.thr.part → exec (.wmread la x y) s = .next (s.trap 3 0#64)) ∧
    (Issues (.wmread la x y) s → c ≤ 23 → s.fld 9 (s.turn / 64) (0x40 * c) 9 3 = s.thr.part →
      Completes (.wmread la x y) s fun t => Outstanding (.wmread la x y) s t 0#64 (.wmark c x.toNat))

/-! ## Submissions, monitors and replicas -/

/-- R334, R342, R360, R361: submissions. cpsub to an enabled channel of its partition with a free shadow set fills it and returns 0, and returns 2
where the channel is halted, 3 where it is disabled and 1 where the set is full and it does not wait (that order is the model's reading, log 34); bmv with
a valid block returns 0 once its command is queued and the status of an invalid one, a poisoned block being one of zeros (log 32), that of another device one whose
words, or whose cause, its answer gives (free, log 11); coll with a ring of KIND 1 and a readable, aligned block is outstanding with its ring and
the address of its 16 words; cwait returns word 0 of the record, polling or once its SEQ is reached, and waits on message before that. -/
def Obligations.Submissions : Prop :=
  ∀ (la : BitVec 4) (x y z : GReg) (wt : Bool) (s : State), s.thr.ea = none →
    let d := s.turn / 64
    let c := (s.rd y).toNat
    let i := Instr.cpsub la x y z wt
    let may := Issues i s ∧ c ≤ 23 ∧ s.chPart d c = s.thr.part ∧ (s.rd z).toNat % 256 = 0 ∧ (s.rd z).toNat < 2 ^ 57 ∧
      s.thr.released d 1 s.thr.seqNo = true
    (Issues i s → (s.rd z).toNat % 256 ≠ 0 → exec i s = .next (s.trap 5 (s.rd z))) ∧
    (Issues i s → (s.rd z).toNat % 256 = 0 → 2 ^ 57 ≤ (s.rd z).toNat → exec i s = .next (s.trap 2 (s.rd z))) ∧
    (Issues i s → (s.rd z).toNat % 256 = 0 → (s.rd z).toNat < 2 ^ 57 → 23 < c → exec i s = .next (s.trap 10 0#64)) ∧
    (Issues i s → (s.rd z).toNat % 256 = 0 → (s.rd z).toNat < 2 ^ 57 → c ≤ 23 → s.chPart d c ≠ s.thr.part → exec i s = .next (s.trap 3 0#64)) ∧
    (may → s.chState d c = 2 → Completes i s fun t => Returns i s t 0#64 [.scalar x.toNat 2#64] 0#8) ∧
    (may → s.chState d c ≠ 2 → s.chEn d c = false → Completes i s fun t => Returns i s t 0#64 [.scalar x.toNat 3#64] 0#8) ∧
    (may → s.chState d c ≠ 2 → s.chEn d c = true → s.chFull d c = true → wt = false →
      Completes i s fun t => Returns i s t 0#64 [.scalar x.toNat 1#64] 0#8) ∧
    (may → s.chState d c = 1 → s.chEn d c = true → s.chFull d c = false → Completes i s fun t =>
      t.reg 9 d (0x40 * c + 8) = s.rd z + 1#64 ∧ t.chFull d c = true ∧ (t.chan d c).shGid = some s.thr.gid ∧ t.chState d c = 1 ∧
      (∃ p, t.thr.out = s.thr.out ++ [p] ∧ p.act = .ret [.scalar x.toNat 0#64] 0#8) ∧ RegsSame s t ∧ MemSame s t) ∧
    (may → s.chState d c = 0 → s.chEn d c = true → s.chFull d c = false → Completes i s fun t =>
      (t.chan d c).recAddr = s.rd z ∧ t.chFull d c = false ∧ t.chState d c = 1 ∧
      (∃ p, t.thr.out = s.thr.out ++ [p] ∧ p.act = .ret [.scalar x.toNat 0#64] 0#8) ∧ RegsSame s t ∧ MemSame s t) ∧
    (∀ dev w off, Issues (.bmv la x y) s → s.access (s.rd y) 64 rRD 1 = .ok (.peer dev w off) → s.accessWaits (s.rd y) 64 (.peer dev w off) = false →
      s.nowWaits [.peer dev w off] = false → s.thr.released d 1 s.thr.seqNo = true → let r := s.engReadAt s.thr.part (.peer dev w off) 64
      let s1 := r.s.charge d s.thr.part (s.rd y).toNat 64
      Completes (.bmv la x y) s fun t => (∀ c, trapOfCause (s.ptrap s.thr.part) r.bad = some c → ∃ p, t.thr.out = r.s.thr.out ++ [p] ∧ p.late = some (c, r.bad)) ∧
        ∀ v, trapOfCause (s.ptrap s.thr.part) r.bad = none → s1.bsStatus s.thr.part (wordsOf r.v 8) = .error v → ∃ p, t.thr.out = s1.thr.out ++ [p] ∧
          p.act = .ret [.scalar x.toNat (W v)] (if r.bad = 7 then 0x80#8 else 0#8) ∧ p.late = none) ∧
    (∀ l, l.isHere = true → Issues (.bmv la x y) s → s.access (s.rd y) 64 rRD 1 = .ok l → s.accessWaits (s.rd y) 64 l = false → s.nowWaits [l] = false →
      s.thr.released d 1 s.thr.seqNo = true → let r := s.lineRead s.thr.part l
      r.bad = 0 ∨ (r.bad = 7 ∧ s.ptrap s.thr.part = false) →
      let s1 := r.s.charge d s.thr.part (s.rd y).toNat 64
      let w := wordsOf r.v 8
      let fl : BitVec 8 := if r.bad = 7 then 0x80#8 else 0#8
      (∀ st, s1.bsStatus s.thr.part w = .error st → Completes (.bmv la x y) s fun t => Returns (.bmv la x y) s1 t (s.rd y) [.scalar x.toNat (W st)] fl) ∧
      ∀ k s2 a, s1.bsStatus s.thr.part w = .ok k → (s1.stackAt k).bsq.length < 8 → s1.rehashing (k * 2 ^ 36) = false →
        s1.rangeStall s.thr.part (bsA w) (bsK w * bsAsz w) = false → (s1.chargeRange s1.dieNo s.thr.part (bsA w) (bsK w * bsAsz w)).bsReadA s.thr.part w 0 (bsK w) = (s2, a) → Completes (.bmv la x y) s fun t =>
          (t.stackAt k).bsq = (s2.stackAt k).bsq ++ [{ block := w, a := a, part := s.thr.part, gid := s.thr.gid, running := false }] ∧
          ∃ p, t.thr.out = s2.thr.out ++ [p] ∧ p.act = .ret [.scalar x.toNat 0#64] fl) ∧
    (∀ r ws, Issues (.coll la x y z) s → (s.rd z).toNat ≤ 63 → s.ringWords s.thr.part (s.cur / 16) (s.rd z).toNat = (r, some ws) →
      (ws.getD 0 0#64).getLsbD 63 = true → ringOk ws = true →
      (bf (ws.getD 0 0#64) 61 2 ≠ 1 → exec (.coll la x y z) s = .next (r.trap 3 0#64)) ∧
      (bf (ws.getD 0 0#64) 61 2 = 1 → (s.rd y).toNat % 64 ≠ 0 → exec (.coll la x y z) s = .next (r.trap 5 (s.rd y))) ∧
      (bf (ws.getD 0 0#64) 61 2 = 1 → (s.rd y).toNat % 64 = 0 → r.headerCheck (s.rd y) 128 = .ok () →
        Completes (.coll la x y z) s fun t => Outstanding (.coll la x y z) r t (s.rd y) (.append 0 (s.rd z).toNat 16 0 []))) ∧
    ∀ l b, let j := Instr.cwait x y z b
      Issues j s → (s.rd y).toNat % 16 = 0 → isPaged (s.rd y).toNat = true → (s.rd y).toNat < 2 ^ 57 →
      s.paged s.thr.part (s.rd y).toNat rRD = .ok l → s.watchHit s.thr (s.rd y).toNat 8 1 = false → s.accessWaits (s.rd y) 8 l = false →
      s.nowWaits [l] = false → let r := (s.charge d s.thr.part (s.rd y).toNat 8).memRead s.thr.part l 8
      r.bad = 0 → let ended := (r.v / 2 ^ 32 + 2 ^ 32 - (s.rd z).toNat % 2 ^ 32) % 2 ^ 32 < 2 ^ 31
      (b = true ∨ ended → Completes j s fun t => Wrote r.s t x (W r.v) 0#8 ∧ OnlyThread r.s t) ∧
      (b = false → ¬ ended → Completes j s fun t => t.thr.wait = .parked true ∧ OnlyThread s t)

/-- R362 to R364, R367: monitors. marm disarms a channel of the cell or of the die with a block of mode 0, and arms one of the cell with a window
inside the task's scratch block, at ACC 0; mref sets a monitor's reference, bound and owner and its count to 0, or clears
its owner; mread returns LAST, the live value of a channel, or the flags with the count; numbers out of range raise FMT (10). -/
def Obligations.Monitors : Prop :=
  ∀ (la : BitVec 4) (x y z w : GReg) (what : BitVec 2) (s : State),
    let g := (s.rd y).toNat
    let i := Instr.mread la x y what
    let mon := s.monOf s.thr.part g
    (∀ l (a0 a1 a2 a3 : Nat), Issues (.marm y z) s → (s.rd y).toNat % 8 = 0 → s.access (s.rd y) 8 rRD 1 = .ok (.hbm l) →
      s.access (s.rd y + 8#64) 8 rRD 1 = .ok (.hbm (l + 8)) → s.access (s.rd y + 16#64) 8 rRD 1 = .ok (.hbm (l + 16)) →
      s.access (s.rd y + 24#64) 8 rRD 1 = .ok (.hbm (l + 24)) → s.accessWaits (s.rd y) 32 (.hbm l) = false → s.accessWaits (s.rd y) 32 (.hbm (l + 24)) = false →
      s.nowWaits [.hbm l, .hbm (l + 24)] = false → l % 64 ≤ 32 →
      (s.lineOf l).unfilled = none → (s.lineOf l).poison = false → s.tagBad (s.keyOf s.thr.part) l = false → s.fld 11 0 0x808 3 1 = 0 →
      s.fld 2 0 (0x1000 * (l / 2 ^ 36) + 8) 2 1 = 0 →
      a0 = readLE s.hbmByte l 8 → a1 = readLE s.hbmByte (l + 8) 8 → a2 = readLE s.hbmByte (l + 16) 8 → a3 = readLE s.hbmByte (l + 24) 8 →
      (8 ≤ (s.rd z).toNat ∨ armOk (decide (4 ≤ (s.rd z).toNat)) (W a0) (W a1) (W a2) (W a3) = false → Completes (.marm y z) s fun t =>
        ∃ f, t.thr.stop = some f ∧ f.cause.toNat = 10 ∧ f.faddr = 0#64 ∧ f.fpc = s.thr.pc ∧ RegsSame s t) ∧
      ((s.rd z).toNat < 4 → armOk false (W a0) (W a1) (W a2) (W a3) = true → bf (W a0) 0 8 = 0 → Completes (.marm y z) s fun t =>
        (tget (fun _ => Chan.init) t.cell.chans (s.rd z).toNat).mode = 0 ∧ RegsSame s t ∧ (∀ a, t.hbmByte a = s.hbmByte a)) ∧
      (4 ≤ (s.rd z).toNat → (s.rd z).toNat < 8 → armOk true (W a0) (W a1) (W a2) (W a3) = true → bf (W a0) 0 8 = 0 → Completes (.marm y z) s fun t =>
        (tget (fun _ => Chan.init) (t.dieAt (s.turn / 64)).chans ((s.rd z).toNat - 4)).mode = 0 ∧ RegsSame s t) ∧
      ((s.rd z).toNat < 4 → armOk false (W a0) (W a1) (W a2) (W a3) = true → bf (W a0) 0 8 ≠ 0 → s.thr.sb.toNat ≤ a1 → a2 ≤ s.thr.sb.toNat + s.thr.ss.toNat →
        Completes (.marm y z) s fun t =>
          let ch := tget (fun _ => Chan.init) t.cell.chans (s.rd z).toNat
          ch.mode = bf (W a0) 0 8 ∧ ch.mon = bf (W a0) 8 4 ∧ ch.acc = 0 ∧ ch.flags = 0 ∧ ch.limit - ch.base = a2 - a1 ∧ ch.stride = bf (W a3) 0 32 ∧
          ch.off = bf (W a3) 32 32 ∧ ch.bexp = (W a0 >>> 32).toInt % 2 ^ 16 - (if (W a0).getLsbD 47 then 2 ^ 16 else 0) ∧ ch.owner = s.thr.gid)) ∧
    (∀ en, Issues (.mref y z w en) s → 16 ≤ g ∨ s.thr.bgrp = 0 → exec (.mref y z w en) s = .next (s.trap 10 0#64)) ∧
    (Issues (.mref y z w true) s → g < 16 → s.thr.bgrp ≠ 0 → bf (s.rd z) 52 11 ≠ 2047 → bf (s.rd w) 52 11 ≠ 2047 → (s.rd w).toNat ≤ 2 ^ 63 →
      Completes (.mref y z w true) s fun t =>
        (t.monOf s.thr.part g).en = true ∧ (t.monOf s.thr.part g).ref = s.rd z ∧ (t.monOf s.thr.part g).bound = W ((s.rd w).toNat % 2 ^ 63) ∧
        (t.monOf s.thr.part g).now.owned s.thr.die s.thr.graph s.thr.bgrp = true ∧ (t.monOf s.thr.part g).count = 0 ∧ RegsSame s t ∧ MemSame s t ∧
        ∀ k, k ≠ g → t.monOf s.thr.part k = s.monOf s.thr.part k) ∧
    (Issues (.mref y z w false) s → g < 16 → s.thr.bgrp ≠ 0 → Completes (.mref y z w false) s fun t =>
        (t.monOf s.thr.part g).en = false ∧ RegsSame s t ∧ MemSame s t ∧ ∀ k, k ≠ g → t.monOf s.thr.part k = s.monOf s.thr.part k) ∧
    (Issues i s → (if what = 1 then 8 else 16) ≤ g → exec i s = .next (s.trap 10 0#64)) ∧
    (Issues i s → what = 0 → g < 16 → Completes i s fun t =>
      Returns i s t 0#64 [.scalar x.toNat (W (wfxOut fp64 mon.last mon.lastExp mon.flags.toNat).1)] 0#8) ∧
    (Issues i s → what = 1 → g < 4 → Completes i s fun t =>
      let ch := tget (fun _ => Chan.init) s.cell.chans g
      Returns i s t 0#64 [.scalar x.toNat (W (wfxOut fp64 ch.acc ch.bexp ch.flags).1)] 0#8) ∧
    (Issues i s → 2 ≤ what.toNat → g < 16 → Completes i s fun t =>
      Returns i s t 0#64 [.scalar x.toNat (W (mon.flags.toNat + (if mon.drift then 16 else 0) + mon.count.toNat * 2 ^ 32))] 0#8)

/-- R345 to R357: the instructions on replicas, of a valid reference. A contribution with room is merged into the open group of the
die's replica and returns the number that the group will have; rlww enters a whole tile under its stamp; rsadd seals an added page
with a fresh dot; rsrem of a page seals the removal of its dots and returns its number, and of one that is absent seals nothing and returns 0; a contribution
without room waits, behind the seal that it made, which stands; each waits for an earlier acquire of its thread (R241); rshas, rread, rfront and rstab read; an object of another type raises FMT
(10) and an invalid reference XLATE (2). rhlc returns the clock, moved forward by its rule. -/
def Obligations.ReplicaInstructions : Prop :=
  ∀ (la : BitVec 4) (x y z w : GReg) (n1 : BitVec 13) (sc st : Bool) (rm : BitVec 3) (op : BitVec 2) (s s1 s2 : State) (obj : Nat) (o : ObjD) (g : GrpD) (r r2 : Replica),
    let d := s.turn / 64
    let e := bf (s.rd y) 0 36
    let n := n1.toNat + 1
    let rets := fun (i : Instr) (u : State) (v : Word) (fl : BitVec 8) => Completes i s fun t => Returns i u t 0#64 [.scalar x.toNat v] fl
    let clip := fun (c : Bool) => if c then 64#8 else 0#8
    let xs := s.contribSrc o w n sc
    let cl := fun (cnt : Nat) => (o.contribute (s.contrib d) e cnt xs { r2 with opened := r2.opened.map fun t => { t with clip := false } }).opened.any (·.clip)
    let ts := ((List.range n).map fun j => (e + j) / o.perTile).eraseDups
    let puts := fun (i : Instr) (typ cnt : Nat) => Issues i s → o.typ = typ → e + n ≤ o.n → n * dtSize o.fmt ≤ 4096 → r.spent = false → s1.joinHeld g o = false →
      s1.room d o r ts = (s2, r2, true) → r2.spent = false → (o.contribute (s.contrib d) e cnt xs r2).opened.length < 65536 →
      rets i (s2.setRepl d (o.contribute (s.contrib d) e cnt xs r2)) (W r2.next) (clip (cl cnt))
    let all := [Instr.radd la x y w n1 sc, .rmax la x y w n1 sc, .rmean la x y z w n1 sc, .rlww la x y z w sc, .rsadd la x y z, .rsrem la x y z,
      .rshas la x y z st, .rread la x y n1 sc st rm false, .rfront la x y z op, .rstab la x y z w st]
    (∀ i ∈ all, Issues i s → s.thr.acquired s.thr.seqNo = false → exec i s = .next (s.park false)) ∧
    (∀ i ∈ all, Issues i s → s.thr.acquired s.thr.seqNo = true → s.refObj (s.rd y) = (s1, none) → exec i s = .next (s1.trap 2 0#64)) ∧
    (Issues (.rhlc la x z op) s →
      let u := if op = 0 then s else s.hlcUpdate d (if op = 1 then 0#64 else s.rd z)
      rets (.rhlc la x z op) u (u.reg 4 d 0x400) 0#8 ∧ (op = 2 → (s.rd z).toNat < 2 ^ 63 → (s.reg 4 d 0x400).toNat < 2 ^ 63 → s.nowUnits < 2 ^ 47 →
        (s.rd z).toNat < (u.reg 4 d 0x400).toNat ∧ (s.reg 4 d 0x400).toNat < (u.reg 4 d 0x400).toNat ∧ s.nowUnits * 2 ^ 16 ≤ (u.reg 4 d 0x400).toNat)) ∧
    (s.thr.acquired s.thr.seqNo = true → s.refObj (s.rd y) = (s1, some (obj, o, g, r)) →
      (∀ i ∈ [Instr.radd la x y w n1 sc, .rmax la x y w n1 sc, .rmean la x y z w n1 sc, .rlww la x y z w sc], o.typ = 4 → Issues i s → exec i s = .next (s1.trap 10 0#64)) ∧
      (∀ i t, (i = Instr.radd la x y w n1 sc ∧ t = 1) ∨ (i = Instr.rmax la x y w n1 sc ∧ t = 2) → Issues i s → o.typ = t → e + n ≤ o.n → n * dtSize o.fmt ≤ 4096 →
        r.spent = false → s1.joinHeld g o = false → (s1.room d o r ts = (s2, r2, false) → r2.spent = false → exec i s = .next (s2.parkKept false)) ∧
        (∀ b, s1.room d o r ts = (s2, r2, b) → r2.spent = true → exec i s = .next (s2.trap 10 0#64))) ∧
      puts (.radd la x y w n1 sc) 1 0 ∧ puts (.rmax la x y w n1 sc) 2 0 ∧
      (0 < (s.rd z).toNat → (s.rd z).toNat ≤ 2 ^ 24 → puts (.rmean la x y z w n1 sc) 5 (s.rd z).toNat) ∧
      (∀ cnt, (o.contribute (s.contrib d) e cnt xs r2).log = r2.log ∧ (o.contribute (s.contrib d) e cnt xs r2).next = r2.next ∧
        (o.contribute (s.contrib d) e cnt xs r2).base = r2.base ∧ (o.contribute (s.contrib d) e cnt xs r2).seen = r2.seen) ∧
      (Issues (.rlww la x y z w sc) s → o.typ = 3 → e < o.tiles → r.spent = false → s1.joinHeld g o = false → s1.room d o r [e] = (s2, r2, true) → r2.spent = false →
        r2.opened = [] →
        let s3 := s2.hlcUpdate d (if sc then s.rd z else 0#64)
        let stamp := if sc then s.rd z else s3.reg 4 d 0x400
        let new : DeltaTile := { o.tile0 obj (s.contrib d) e with hlc := stamp, data := ((s.tile w.toNat).all).take (o.count e * o.elSize) }
        rets (.rlww la x y z w sc) (s3.setRepl d { r2 with opened := [new] }) stamp 0#8) ∧
      (Issues (.rsadd la x y z) s → o.typ = 4 → e = 0 → (s.rd z).toNat < 2 ^ 40 → r.spent = false → s1.joinHeld g o = false →
        (r.entries r.log).length + addsOf r.held < 2 ^ 20 → r.inUse + 128 ≤ 4096 * o.plog →
        let sealed := s1.sealSet d r o (setRecBytes (s.rd z).toNat 1 (s.contrib d) r.next)
        rets (.rsadd la x y z) (sealed.1.settleHeld d o sealed.2) (W r.next) 0#8) ∧
      (Issues (.rsrem la x y z) s → o.typ = 4 → e = 0 → (s.rd z).toNat < 2 ^ 40 → r.next < 0xFFFFFFFF → s1.joinHeld g o = false →
        let ds := sortBy (fun a b => decide (a.2.1 * 2 ^ 32 + a.2.2 ≤ b.2.1 * 2 ^ 32 + b.2.2)) ((r.entries r.log).filter fun q => q.1 == (s.rd z).toNat)
        (ds = [] → rets (.rsrem la x y z) (s1.settleHeld d o r) 0#64 0#8) ∧
        (ds ≠ [] → ds.length ≤ 256 → r.inUse + remCost ds.length ≤ 4096 * o.plog →
          let sealed := s1.sealSet d r o (ds.flatMap fun q => setRecBytes q.1 2 q.2.1 q.2.2)
          rets (.rsrem la x y z) (sealed.1.settleHeld d o sealed.2) (W r.next) 0#8)) ∧
      (Issues (.rshas la x y z st) s → o.typ = 4 → e = 0 → (s.rd z).toNat < 2 ^ 40 →
        rets (.rshas la x y z st) s1 (if ∃ q ∈ r.entries (r.groupsFor st (s.contrib d)), q.1 = (s.rd z).toNat then 1#64 else 0#64) 0#8) ∧
      (Issues (.rread la x y n1 true st rm false) s → o.typ ≠ 4 → e + n ≤ o.n → n * dtSize o.fmt ≤ 4096 → (rm = 0#3 ∨ o.isSum = true) →
        ∃ fl, rets (.rread la x y n1 true st rm false) s1 (W (o.read r (r.groupsFor st (s.contrib d)) e rm.toNat (rng (s.rdN 60) (s.rd y) s.thr.lane 0).toNat).1) fl) ∧
      (∀ draw, Issues (.rread la x y n1 false st rm false) s → o.typ ≠ 4 → e + n ≤ o.n → n * dtSize o.fmt ≤ 4096 → (rm = 0#3 ∨ o.isSum = true) →
        (draw = fun j => (rng (s.rdN 60) (s.rd y) s.thr.lane j).toNat) → Completes (.rread la x y n1 false st rm false) s fun t => ∃ bs fl,
          Issued (.rread la x y n1 false st rm false) s1 t 0#64 (.ret [.tile (s.tphys x.toNat) (sparse 0 bs)] fl) (fun p => p.late = none) ∧
          bs.length = n * dtSize o.fmt ∧ ∀ j, j < n → numLE ((bs.drop (j * dtSize o.fmt)).take (dtSize o.fmt)) =
            (o.read r (r.groupsFor st (s.contrib d)) (e + j) rm.toNat (draw j)).1 % 256 ^ dtSize o.fmt) ∧
      (Issues (.rread la x y n1 true st 0 true) s → o.typ = 5 → e + n ≤ o.n → n * dtSize o.fmt ≤ 4096 →
        ∃ fl, rets (.rread la x y n1 true st 0 true) s1 (W (min (r.countOf (r.groupsFor st (s.contrib d)) (e / o.perTile)) (2 ^ 32 - 1))) fl) ∧
      (Issues (.rfront la x y z op) s → e = 0 → (op.toNat ≤ 1 → (s.rd z).toNat < 2 ^ 14) → rets (.rfront la x y z op) s1 (W (match op.toNat with
        | 0 => if g.mem.contains (s.rd z).toNat then r.frontOf (s.rd z).toNat else 0
        | 1 => if g.mem.contains (s.rd z).toNat then r.seenOf (s.rd z).toNat else 0
        | 2 => r.next | _ => s.contrib d)) 0#8) ∧
      (Issues (.rstab la x y z w st) s → e = 0 → (s.rd z).toNat < 2 ^ 32 → (s.rd w).toNat < 2 ^ 14 → g.mem.contains (s.rd w).toNat = true →
        (st = true ∨ (s.rd z).toNat ≤ r.frontOf (s.rd w).toNat → rets (.rstab la x y z w st) s1 (W (r.frontOf (s.rd w).toNat)) 0#8) ∧
        (st = false → r.frontOf (s.rd w).toNat < (s.rd z).toNat → exec (.rstab la x y z w st) s = .next (s1.parkKept true))))

/-! ## Tiles, matrices and streams -/

/-- The instruction is outstanding with 32 rows as its one result, of which `Q` holds. -/
def RowsResult (i : Instr) (s : State) (td : BitVec 5) (fl : BitVec 8) (Q : List Nat → Prop) : Prop :=
  Completes i s fun t => ∃ rs, Issued i s t 0#64 (.ret [.tile (s.tphys td.toNat) (rowsTab rs)] fl) (fun p => p.late = none) ∧ rs.length = 32 ∧ Q rs

/-- The instruction is outstanding with a whole tile of elements of a format as its one result, element `e` of which has the
value `f e`. -/
def ElemsResult (i : Instr) (s : State) (td : BitVec 5) (te : BitVec 4) (f : Nat → Nat) : Prop :=
  Completes i s fun t => ∃ (vs : List Nat) (fl : BitVec 8),
    Issued i s t 0#64 (.ret [.tile (s.tphys td.toNat) (rowsTab (packRows te vs))] fl) (fun p => p.late = none) ∧
    vs.length = teCount te ∧ ∀ e, e < teCount te → vs.getD e 0 = f e

/-- The instruction is outstanding with the lanes, length code and lineage of a stream as its one result. -/
def StreamResult (i : Instr) (s : State) (qd : BitVec 4) (code : Nat) (lin : Word) (f : Nat → Nat) : Prop :=
  Completes i s fun t => ∃ ls fl, Issued i s t 0#64 (.ret [.strm (s.sphys qd.toNat) ls code lin] fl) (fun p => p.late = none) ∧
    ∀ k, k < 32 → tget (fun _ => 0) ls k = f k

/-- An exact integer in `w` bits: saturated, or modulo 2^w. -/
def intoW (w : Nat) (sat : Bool) (v : Int) : Nat :=
  ((if sat then max (-(2 : Int) ^ (w - 1)) (min ((2 : Int) ^ (w - 1) - 1) v) else v) % (2 : Int) ^ w).toNat

/-- R171, R181, R369, R371 to R373: tile registers. A tile load issues as an outstanding read of two lines for each row, a tile store as
two posted lines for each row; tmov and tfill return rows; a misaligned address raises ALIGN (5). A result that returns fills its tile register, and the elements of a packed
tile are those packed. -/
def Obligations.TileTransfers : Prop :=
  ∀ (la : BitVec 4) (td ta rd ra nr : BitVec 5) (gx : GReg) (sc sz : BitVec 2) (aq row : Bool) (p : BitVec 12) (s : State), s.thr.ea = none →
    let a := s.rd gx
    let n := nr.toNat + 1
    let ld := Instr.tld la td gx sc aq nr p
    let st := Instr.tst la ta gx sc aq nr p
    let mv := Instr.tmov la td ta row rd ra
    let fi := Instr.tfill la td gx sz row rd
    let was := (s.tile td.toNat).rows
    let goes := fun (r : Nat) (new : List Nat → Prop) (rs : List Nat) => if row then (∀ k, k < 32 → k ≠ r → rs.getD k 0 = was.getD k 0) ∧ new rs else new rs
    (Issues ld s → a.toNat % 64 ≠ 0 → exec ld s = .next (s.trap 5 a)) ∧ (Issues st s → a.toNat % 64 ≠ 0 → exec st s = .next (s.trap 5 a)) ∧
    (∀ ls, Issues ld s → a.toNat % 64 = 0 → a.toNat < 2 ^ 57 → s.linesGo rRD 1 (rowLines a p.toNat n) = (ls, none) → s.linesWait ls false 0 = false →
      (∀ x ∈ ls, x.2.isHere = true) → Completes ld s fun t => Outstanding ld s t a (.rows ls (s.tphys td.toNat) aq sc.toNat) ∧ ls.length = 2 * n ∧
        ∀ k, k < n → (ls.getD (2 * k) (0, .hbm 0)).1 = (a + W (64 * p.toNat * k)).toNat ∧ (ls.getD (2 * k + 1) (0, .hbm 0)).1 = (a + W (64 * p.toNat * k + 64)).toNat) ∧
    (∀ ls, Issues st s → a.toNat % 64 = 0 → a.toNat < 2 ^ 57 → s.linesGo rWR 2 (rowLines a p.toNat n) = (ls, none) → s.linesWait ls aq sc.toNat = false →
      (∀ x ∈ ls, x.2.isHere = true) → Completes st s fun t => RegsSame s t ∧ MemSame s t ∧
        (∃ w : List Posted, t.thr.posted = s.thr.posted ++ w ∧ w.length = 2 * n ∧ ∀ k, k < 2 * n → ∃ q, w[k]? = some q ∧ q.n = 64 ∧ q.performed = false ∧
          q.rel = aq ∧ some q.loc = (ls[k]?).map (·.2) ∧
          q.wide = some (BitVec.ofNat 512 ((s.tile ta.toNat).rows.getD (k / 2) 0 / 2 ^ (512 * (k % 2))))) ∧
        ∃ q, t.thr.out = s.thr.out ++ [q] ∧ q.act = .ret [] 0#8) ∧
    (Issues mv s → RowsResult mv s td 0#8 (goes rd.toNat fun rs => if row then rs.getD rd.toNat 0 = (s.tile ta.toNat).rows.getD ra.toNat 0 else rs = (s.tile ta.toNat).rows)) ∧
    (Issues fi s → RowsResult fi s td 0#8 (goes rd.toNat fun rs => ∀ k, k < 32 → (row = true → k = rd.toNat) → ∀ j, j < 128 →
      rs.getD k 0 / 256 ^ j % 256 = (s.rd gx).toNat / 256 ^ (j % 2 ^ sz.toNat) % 256)) ∧
    (∀ te (vs : List Nat) x y, vs.length = teCount te → (∀ v ∈ vs, v < 2 ^ teBits te) → (Tile.elems ⟨rowsTab (packRows te vs), x, y⟩ te) = vs) ∧
    ∀ (w : Pend) k bs fl, s.thr.out = [w] → w.act = .ret [.tile k bs] fl → w.late = none → w.perf = none → w.dst = none → k < 32 →
      Completes (.loadReturn s.turn s.cur 0) s fun t => t.tileAt s.turn (s.cur / 16) k = ⟨bs, true, false⟩ ∧ t.thr.out = [] ∧ t.thr.st = s.thr.st ||| fl ∧
        (∀ j, j < 32 → j ≠ k → t.tileAt s.turn (s.cur / 16) j = s.tileAt s.turn (s.cur / 16) j) ∧ MemSame s t

/-- R374, R375, R298: the element-wise operations. Element e of the result is the operation on element e of tA and the scalar or
element e of tB: on floating formats the correctly rounded value, with a draw of index e under RM 4; on integers the exact value, saturated or
modulo 2^w; bitwise operations bit by bit; shifts by the low bits of b. -/
def Obligations.VectorArithmetic : Prop :=
  ∀ (la : BitVec 4) (td ta tb tc : BitVec 5) (gx : GReg) (rm : BitVec 3) (te : BitVec 4) (si bc : Bool) (s : State),
    let w := teBits te
    let F := teFmt te
    let a := fun e => ((s.tile ta.toNat).elems te).getD e 0
    let b := fun e => if bc then (s.rd gx).toNat % 2 ^ w else ((s.tile tb.toNat).elems te).getD e 0
    let c := fun e => ((s.tile tc.toNat).elems te).getD e 0
    let g := fun (v : Nat) => sInt w v
    let dr := fun e => if rm = 4#3 then (rng (s.rdN 60) s.thr.pc s.thr.lane e).toNat else 0
    let r := fun (e : Nat) (v : FVal) => (fencode F rm.toNat (dr e) v).1
    let d := fun (v : Nat) => fdecode F v
    let does := fun (i : Instr) (f : Nat → FVal) (h : Nat → Int) => Issues i s →
      ElemsResult i s td te fun e => if te = 12 ∨ te = 14 then intoW w si (h e) else r e (f e)
    does (.vadd la td ta tb gx rm te si bc) (fun e => (fadd2 rm.toNat (d (a e)) (d (b e))).1) (fun e => g (a e) + g (b e)) ∧
    does (.vsub la td ta tb gx rm te si bc) (fun e => (fsub2 rm.toNat (d (a e)) (d (b e))).1) (fun e => g (a e) - g (b e)) ∧
    does (.vmul la td ta tb gx rm te si bc) (fun e => (fmul2 (d (a e)) (d (b e))).1) (fun e => g (a e) * g (b e)) ∧
    does (.vfma la td ta tb tc gx rm te si bc) (fun e => (ffma3 rm.toNat (d (a e)) (d (b e)) (d (c e))).1) (fun e => g (a e) * g (b e) + g (c e)) ∧
    (Issues (.vdiv la td ta tb gx rm te bc) s → ElemsResult (.vdiv la td ta tb gx rm te bc) s td te fun e => r e (fdiv2 (d (a e)) (d (b e))).1) ∧
    (Issues (.vsqrt la td ta rm te) s → ElemsResult (.vsqrt la td ta rm te) s td te fun e => r e (fsqrt1 (d (a e))).1) ∧
    (Issues (.vexp2 la td ta rm te) s → ElemsResult (.vexp2 la td ta rm te) s td te fun e => r e (fexp2v (d (a e))).1) ∧
    (Issues (.vmin la td ta tb gx te si bc) s → ElemsResult (.vmin la td ta tb gx te si bc) s td te fun e =>
      if te = 12 ∨ te = 14 then (if g (b e) < g (a e) then b e else a e) else fminmax F false (d (a e)) (d (b e))) ∧
    (Issues (.vmax la td ta tb gx te si bc) s → ElemsResult (.vmax la td ta tb gx te si bc) s td te fun e =>
      if te = 12 ∨ te = 14 then (if g (b e) < g (a e) then a e else b e) else fminmax F true (d (a e)) (d (b e))) ∧
    (Issues (.vabs la td ta te si) s → ElemsResult (.vabs la td ta te si) s td te fun e => if te = 12 ∨ te = 14 then intoW w si ((g (a e)).natAbs : Int) else a e % 2 ^ (w - 1)) ∧
    (Issues (.vneg la td ta te si) s → ElemsResult (.vneg la td ta te si) s td te fun e => if te = 12 ∨ te = 14 then intoW w si (-g (a e)) else a e ^^^ 2 ^ (w - 1)) ∧
    (Issues (.vand la td ta tb gx te bc) s → ElemsResult (.vand la td ta tb gx te bc) s td te fun e => a e &&& b e) ∧
    (Issues (.vor la td ta tb gx te bc) s → ElemsResult (.vor la td ta tb gx te bc) s td te fun e => a e ||| b e) ∧
    (Issues (.vxor la td ta tb gx te bc) s → ElemsResult (.vxor la td ta tb gx te bc) s td te fun e => a e ^^^ b e) ∧
    (Issues (.vshl la td ta tb gx te bc) s → ElemsResult (.vshl la td ta tb gx te bc) s td te fun e => a e * 2 ^ (b e % w) % 2 ^ w) ∧
    (Issues (.vshr la td ta tb gx te si bc) s → ElemsResult (.vshr la td ta tb gx te si bc) s td te fun e =>
      if si then intoW w false (g (a e) / 2 ^ (b e % w)) else a e / 2 ^ (b e % w))

/-- R377 to R382: conversions, reductions, transposition and block scales. A conversion writes whole rows of tD and keeps the others; vrsum and
vrmax write element 0 to 31 of row 0 on, the rest zero: integers exactly, sums saturated at 32 bits; vtrans exchanges rows and columns; vscal multiplies by a row and a column
factor; mxpack and mxunpk convert with the scales of their blocks. -/
def Obligations.VectorConversions : Prop :=
  ∀ (la : BitVec 4) (td ta tb tc : BitVec 5) (rm : BitVec 3) (te ste part : BitVec 4) (pt : BitVec 3) (h : Bool) (s : State),
    let A := (s.tile ta.toNat).rows
    let B := (s.tile tb.toNat).rows
    let C := (s.tile tc.toNat).rows
    let D := (s.tile td.toNat).rows
    let dr := fun e => if rm = 4#3 then (rng (s.rdN 60) s.thr.pc s.thr.lane e).toNat else 0
    let el := fun (x : List Nat) (i j : Nat) => (rowElems te (x.getD i 0)).getD j 0
    let n := min (teCount ste) (teCount te)
    let e0 := if teCount ste < teCount te then part.toNat * n else 0
    let x0 := if teCount te < teCount ste then part.toNat * n else 0
    let out := if te = 13#4 then 13#4 else 11#4
    (Issues (.vcvt la td ta rm te ste part) s → Completes (.vcvt la td ta rm te ste part) s fun t => ∃ (vs rs : List Nat) (fl : BitVec 8),
      Issued (.vcvt la td ta rm te ste part) s t 0#64 (.ret [.tile (s.tphys td.toNat) (rowsTab rs)] fl) (fun p => p.late = none) ∧ rs.length = 32 ∧
      vs.length = n ∧ (∀ e, e < n → vs.getD e 0 = (cvtEl te ste rm.toNat (dr (e0 + e)) (((s.tile ta.toNat).elems ste).getD (x0 + e) 0)).1) ∧
      ∀ k, k < 32 → rs.getD k 0 = if e0 / tePerRow te ≤ k ∧ k < (e0 + n) / tePerRow te then (packRows te vs).getD (k - e0 / tePerRow te) 0 else D.getD k 0) ∧
    (Issues (.vrsum la td ta rm te) s → ∃ (fl : BitVec 8) (vs : List Nat), RowsResult (.vrsum la td ta rm te) s td fl (fun rs => rs = packRows out vs ++ List.replicate (32 - 32 / tePerRow out) 0) ∧
      vs.length = 32 ∧ ∀ k, k < 32 → vs.getD k 0 =
        if te = 12 ∨ te = 14 then intoW 32 true ((rowElems te (A.getD k 0)).map (fun x => sInt (teBits te) x)).sum
        else (fencode (if te = 13#4 then fp64 else fp32) rm.toNat (dr k) (rowSum rm ((rowElems te (A.getD k 0)).map (fdecode (teFmt te)))).1).1) ∧
    (Issues (.vrmax la td ta te) s → ∃ vs : List Nat, RowsResult (.vrmax la td ta te) s td 0#8 (fun rs => rs = packRows te vs ++ List.replicate (32 - (packRows te vs).length) 0) ∧
      vs.length = 32 ∧ ∀ k, k < 32 → (te = 12 ∨ te = 14 → vs.getD k 0 ∈ rowElems te (A.getD k 0) ∧ ∀ x ∈ rowElems te (A.getD k 0), sInt (teBits te) x ≤ sInt (teBits te) (vs.getD k 0)) ∧
        vs.getD k 0 = rowMax te (rowElems te (A.getD k 0))) ∧
    (Issues (.vtrans la td ta tb te h) s → RowsResult (.vtrans la td ta tb te h) s td 0#8 fun rs => ∀ i j, i < 32 → j < tePerRow te →
      el rs i j = if teBits te = 16 then el (if j < 32 then A else B) (j % 32) (i + 32 * h.toNat) else el A j i) ∧
    (Issues (.vscal la td ta tb tc rm te) s → ElemsResult (.vscal la td ta tb tc rm te) s td 11#4 fun e =>
      let x := ((s.tile ta.toNat).elems te).getD e 0
      (fencode fp32 rm.toNat (dr e) (fmul3 (if te = 12#4 then ofInt (sInt 32 x) 0 else fdecode fp32 x)
        (fdecode fp32 ((rowElems 11#4 (C.getD 0 0)).getD (e / 32) 0)) (fdecode fp32 ((rowElems 11#4 (B.getD 0 0)).getD (e % 32) 0))).1).1) ∧
    (Issues (.mxunpk la td ta tc rm te pt) s → ElemsResult (.mxunpk la td ta tc rm te pt) s td 11#4 fun e =>
      (fencode fp32 rm.toNat (dr e) (mxVal (teFmt te) (((s.tile tc.toNat).elems 9#4).getD (32 * pt.toNat + e / 32) 0)
        (((s.tile ta.toNat).elems te).getD (1024 * pt.toNat + e) 0))).1) ∧
    (Issues (.mxpack la td ta tc rm te pt) s → Completes (.mxpack la td ta tc rm te pt) s fun t => ∃ (ds cs : List Nat) (fl : BitVec 8),
      Issued (.mxpack la td ta tc rm te pt) s t 0#64 (.ret [.tile (s.tphys td.toNat) (rowsTab ds), .tile (s.tphys tc.toNat) (rowsTab (packRows 9#4 cs))] fl) (fun p => p.late = none) ∧
      cs.length = 4096 ∧ ds.length = 32 ∧
      (∀ k, k < 4096 → cs.getD k 0 = if 32 * pt.toNat ≤ k ∧ k < 32 * pt.toNat + 32 then (mxEncode te rm.toNat dr (32 * k) (rowElems 11#4 (A.getD (k - 32 * pt.toNat) 0))).1
        else ((s.tile tc.toNat).elems 9#4).getD k 0) ∧
      ∀ k j, k < 32 → j < 32 → let e := 1024 * pt.toNat + 32 * k + j
        el ds (e / tePerRow te) (e % tePerRow te) = (mxEncode te rm.toNat dr (32 * (32 * pt.toNat + k)) (rowElems 11#4 (A.getD k 0))).2.1.getD j 0)

/-- R188 to R193, R383 to R389, R399: the matrix unit. mcfg writes a configuration or raises FMT (10); mmul, acget, acput and aczero of a thread are taken
by the unit of its cell while its queue has room; a product takes its configuration at the end of the cycle, behind the configurations written in it, and one
that is not valid or has another mode is a late FMT; msend leaves as a message. A message that arrives takes effect at the end of its cycle, when it is refused by the first check
that fails, or accepted; a command that clashes with none that runs starts; a product that finishes writes its block, ORs its flags into the st of its issuer and leaves every other word. -/
def Obligations.MatrixUnit : Prop :=
  ∀ (la : BitVec 4) (td ta tb : BitVec 5) (gx : GReg) (c : BitVec 3) (sub kind : BitVec 2) (z as bs : Bool) (fa fb : BitVec 2) (rm : BitVec 3) (te : BitVec 4)
    (row col : BitVec 9) (h1 w1 : BitVec 4) (ext : BitVec 18) (n j : Nat) (m : MatMsg) (s : State),
    let bank := s.cur / 16
    let pa := s.thr.scaleReg as fa
    let pb := s.thr.scaleReg bs fb
    let mc := Instr.mcfg gx c as bs fa fb
    let mm := Instr.mmul la ta tb gx c sub z kind
    let queued := fun (i : Instr) (op : MOp) (A B : List (List Byte)) (cf : MCfg) (fr : Option Nat) (t : State) => ∃ q, t.cell.mq = s.cell.mq ++ [q] ∧ q.op = op ∧ q.cfg = cf ∧
      q.fresh = fr ∧ q.a = A ∧ q.b = B ∧ q.cell = s.turn ∧ q.slot = s.cur ∧ q.gid = s.thr.gid ∧ q.bank = bank ∧ q.running = false ∧
      q.hold = (tileSrcs i).map (fun k => 32 * bank + s.tphys k)
    let frame := fun (t : State) => RegsSame s t ∧ MemSame s t ∧ t.cell.acc = s.cell.acc ∧ t.regs = s.regs
    let open_ := s.mqFull s.turn bank = false
    let o := s.thrAt m.senderCell m.senderSlot
    (Issues mc s → cfgBad (s.rd gx) as bs pa pb = true → exec mc s = .next (s.trap 10 0#64)) ∧
    (Issues mc s → cfgBad (s.rd gx) as bs pa pb = false → Completes mc s fun t => frame t ∧ t.mcfgAt s.turn bank c.toNat = cfgOf (s.rd gx) pa pb ∧
      ∀ k, k ≠ c.toNat → k < 8 → t.mcfgAt s.turn bank k = s.mcfgAt s.turn bank k) ∧
    (Issues mm s → ¬ open_ → Completes mm s fun t => t.thr.wait = .parked false ∧ OnlyThread s t) ∧
    (Issues mm s → open_ → Completes mm s fun t => frame t ∧ t.thr.out = s.thr.out ∧
      queued mm (.mul sub.toNat z (s.rd gx)) (s.tileBytes ta (mmA kind)) (s.tileBytes tb (mmB kind)) { MCfg.init with mode := kind.toNat } (some c.toNat) t) ∧
    (∀ (y : MCmd) k u, (s.cellAt n).mq = [y] → y.fresh = some k → let g := s.mcfgAt n y.bank k
      (g.v = true → g.mode = y.cfg.mode → s.ownAccept n = s.setCell n { s.cellAt n with mq := [{ y with cfg := g, fresh := none }] }) ∧
      (g.v = false ∨ g.mode ≠ y.cfg.mode → s.thr? y.cell y.slot = some u → u.gid = y.gid → u.ended = false → u.out = [] → u.stop = none → u.site = .home →
        ((s.ownAccept n).cellAt n).mq = [] ∧ ∃ f, ((s.ownAccept n).thrAt y.cell y.slot).stop = some f ∧ f.cause.toNat = 10 ∧ f.fpc = y.pend.pc)) ∧
    (Issues (.acget la td rm te row col) s → open_ → row.toNat ≤ 480 → col.toNat + (if teBits te = 16 then 64 else 32) ≤ 512 →
      Completes (.acget la td rm te row col) s fun t => frame t ∧ (∃ q, t.thr.out = s.thr.out ++ [q] ∧ q.act = .mget ∧ q.tiles = [s.tphys td.toNat]) ∧
        queued (.acget la td rm te row col) (.get te rm.toNat s.thr.lane row.toNat col.toNat) [] [] MCfg.init none t) ∧
    (Issues (.acput la ta row col) s → open_ → row.toNat ≤ 480 → col.toNat ≤ 480 → Completes (.acput la ta row col) s fun t => frame t ∧ t.thr.out = s.thr.out ∧
        queued (.acput la ta row col) (.put row.toNat col.toNat) [(s.tile ta.toNat).all] [] MCfg.init none t) ∧
    (Issues (.acput la ta row col) s → 480 < row.toNat ∨ 480 < col.toNat → exec (.acput la ta row col) s = .next (s.trap 10 0#64)) ∧
    (Issues (.aczero la row col h1 w1) s → open_ → row.toNat + 32 * (h1.toNat + 1) ≤ 512 → col.toNat + 32 * (w1.toNat + 1) ≤ 512 →
      Completes (.aczero la row col h1 w1) s fun t => frame t ∧ t.thr.out = s.thr.out ∧
        queued (.aczero la row col h1 w1) (.zero row.toNat col.toNat (32 * (h1.toNat + 1)) (32 * (w1.toNat + 1))) [] [] MCfg.init none t) ∧
    (Issues (.msend la td ta tb gx c sub z kind ext) s → kind ≠ 1 → Completes (.msend la td ta tb gx c sub z kind ext) s fun t => ∃ v : MatMsg,
      Outstanding (.msend la td ta tb gx c sub z kind ext) s t 0#64 (.msg v false) ∧ v.senderCell = s.turn ∧ v.senderSlot = s.cur ∧ v.kind = kind ∧ v.cap = s.rd gx ∧ v.c = c ∧
      v.sub = sub ∧ v.zero = z ∧ v.ext = ext ∧ (kind = 0 → v.second = s.rd (gx + 1) ∧ v.aTiles = s.tileBytes ta (mmA (ext.extractLsb' 0 2)) ∧ v.bTiles = s.tileBytes tb (mmB (ext.extractLsb' 0 2))) ∧
      (kind = 3 → v.aTiles = s.tileBytes ta 1)) ∧
    (Issues (.msend la td ta tb gx c sub z 1 ext) s → let bad := cfgBad (s.rd (gx + 1)) (ext.getLsbD 5) (ext.getLsbD 4) (s.thr.scaleReg (ext.getLsbD 5) (ext.extractLsb' 2 2)) (s.thr.scaleReg (ext.getLsbD 4) (ext.extractLsb' 0 2))
      (bad = true → exec (.msend la td ta tb gx c sub z 1 ext) s = .next (s.trap 10 0#64)) ∧
      (bad = false → Completes (.msend la td ta tb gx c sub z 1 ext) s fun t => ∃ v : MatMsg, Outstanding (.msend la td ta tb gx c sub z 1 ext) s t 0#64 (.msg v false) ∧
        v.kind = 1 ∧ v.cap = s.rd gx ∧ v.c = c ∧ v.second = s.rd (gx + 1))) ∧
    (∀ (q : Pend) b, o.out = [q] → q.act = .msg m b → Completes (.matrixMessageArrive n m) s fun t =>
      t = if n = m.senderCell / 64 * 64 + bf m.cap 0 6 then s.setThrAt m.senderCell m.senderSlot { o with out := [{ q with act := .msg m true }] } else s) ∧
    (∀ (q : Pend) b, o.out = [q] → q.act = .msg m b → q.late = none →
      let key := (s.mcfgAt n (m.senderSlot / 16) m.c.toNat)
      let t := s.msgAccept n m
      (capOk m key.key = false → (t.thrAt m.senderCell m.senderSlot).out = [{ q with late := some (8, 0) }] ∧ (t.cellAt n).mq = (s.cellAt n).mq) ∧
      (capOk m key.key = true → m.kind = 0 → key.v = false ∨ key.mode ≠ (m.ext.extractLsb' 0 2).toNat →
        (t.thrAt m.senderCell m.senderSlot).out = [{ q with late := some (10, 0) }] ∧ (t.cellAt n).mq = (s.cellAt n).mq) ∧
      (capOk m key.key = true → m.kind = 0 → key.v = true → key.mode = (m.ext.extractLsb' 0 2).toNat →
        if s.mqFull n (m.senderSlot / 16) then t = s else (t.thrAt m.senderCell m.senderSlot).out = [] ∧
          ∃ y, (t.cellAt n).mq = (s.cellAt n).mq ++ [y] ∧ y.op = .mul m.sub.toNat m.zero m.second ∧ y.a = m.aTiles ∧ y.b = m.bTiles ∧ y.cell = m.senderCell) ∧
      (capOk m key.key = true → m.kind = 1 → (t.thrAt m.senderCell m.senderSlot).out = [] ∧
          t.mcfgAt n (m.senderSlot / 16) m.c.toNat = cfgOf m.second m.ascale m.bscale)) ∧
    (∀ (y : MCmd), (s.cellAt n).mq = [y] → y.bank = s.cellBank n → y.running = false → (s.partAt y.part).switching = true →
      Completes (.matrixCommandStart n) s fun t => t = s) ∧
    (∀ (y : MCmd) r q h w, (s.cellAt n).mq = [y] → y.bank = s.cellBank n → y.running = false → y.fresh = none → (s.partAt y.part).switching = false →
      (∀ u ∈ y.units, u ∉ (s.cellAt n).swap) → y.op = .zero r q h w → Completes (.matrixCommandStart n) s fun t =>
      (t.cellAt n).mq = [] ∧ ∀ i k, i < 512 → k < 512 → (t.cellAt n).accAt y.bank i k = if r ≤ i ∧ i < r + h ∧ q ≤ k ∧ k < q + w then 0#32 else (s.cellAt n).accAt y.bank i k) ∧
    (∀ (y : MCmd) r q, (s.cellAt n).mq = [y] → y.bank = s.cellBank n → y.running = false → y.fresh = none → (s.partAt y.part).switching = false →
      (∀ u ∈ y.units, u ∉ (s.cellAt n).swap) → y.op = .mul r z q → mScaled y.cfg.afmt = false → mScaled y.cfg.bfmt = false →
      s.scalesWait y = false → Completes (.matrixCommandStart n) s fun t => (t.cellAt n).mq = [{ y with running := true, hold := [], sca := [], scb := [], ga := 32, gb := 32, flags := 0 }] ∧ MemSame s t) ∧
    ∀ (y : MCmd) u, (s.cellAt n).mq = [y] → y.running = true → (y.sub? = none ∨ y.sub? = some j) → s.thr? y.cell y.slot = some u → u.gid = y.gid →
      y.area.1 + y.area.2.2.1 ≤ 512 → y.area.2.1 + y.area.2.2.2 ≤ 512 → (y.product (s.cellAt n)).1.length = y.area.2.2.1 → (∀ x ∈ (y.product (s.cellAt n)).1, x.length = y.area.2.2.2) →
      Completes (.matrixCommandFinish n j) s fun t => (t.cellAt n).mq = [] ∧ (t.thrAt y.cell y.slot).st = u.st ||| BitVec.ofNat 8 (y.product (s.cellAt n)).2 ∧
        ∀ i k, i < 512 → k < 512 → (t.cellAt n).accAt y.bank i k =
          if y.area.1 ≤ i ∧ i < y.area.1 + y.area.2.2.1 ∧ y.area.2.1 ≤ k ∧ k < y.area.2.1 + y.area.2.2.2
          then BitVec.ofNat 32 (((y.product (s.cellAt n)).1.getD (i - y.area.1) []).getD (k - y.area.2.1) 0) else (s.cellAt n).accAt y.bank i k

/-- R107, R109, R110, R390 to R398: attention tiles and streams. amerge merges two sets of triples row by row and anorm normalises one; slen empties a
stream to a length; sgen sets bit n of a lane where its draw lies below the lane's threshold; logic is bit by bit on streams of one length, FMT (10)
for unequal lengths and CORR (7) with the common sources where the lineages meet; scnt writes the counts of ones to one row; sregen draws anew at the lane's
density. -/
def Obligations.AttentionAndStreams : Prop :=
  ∀ (la qd qa qb qc : BitVec 4) (td ta tb d16 row : BitVec 5) (gx : GReg) (len out : BitVec 2) (bip : Bool) (src : BitVec 6) (s : State),
    let d := 16 * d16.toNat
    let a := s.strm qa.toNat
    let b := s.strm qb.toNat
    let c := s.strm qc.toNat
    let m := Instr.amerge la td ta tb d16
    let nrm := Instr.anorm la td ta d16
    let tiles := fun (i : Instr) (t : State) (ts : List (List Nat)) (fl : BitVec 8) =>
      Issued i s t 0#64 (.ret (ts.zipIdx.map fun x => .tile (s.tphys (td.toNat + x.2)) (rowsTab x.1)) fl) (fun p => p.late = none)
    let el := fun (ts : List (List Nat)) (t i j : Nat) => (rowElems 11#4 ((ts.getD t []).getD i 0)).getD j 0
    let lin := fun (v : Word) => (1#64 <<< src.toNat) ^^^ W (v.toNat % 2 ^ 32 * 2 ^ 32)
    let logic := fun (i : Instr) (qs : List Strm) (common : Word) (l : Word) (f : Bool → Bool → Bool → Bool) => Issues i s →
      ((∃ q ∈ qs, q.code ≠ a.code) → exec i s = .next (s.trap 10 0#64)) ∧
      ((∀ q ∈ qs, q.code = a.code) → common ≠ 0#64 → exec i s = .next (s.trap 7 common)) ∧
      ((∀ q ∈ qs, q.code = a.code) → common = 0#64 → Completes i s fun t => ∃ ls,
        Issued i s t 0#64 (.ret [.strm (s.sphys qd.toNat) ls a.code l] 0#8) (fun p => p.late = none) ∧
        ∀ k n, k < 32 → n < strmLen a.code → (tget (fun _ => 0) ls k).testBit n = f ((qs.getD 0 a).lane k |>.testBit n) ((qs.getD 1 a).lane k |>.testBit n) ((qs.getD 2 a).lane k |>.testBit n))
    (Issues m s → Completes m s fun t => ∃ ts fl, tiles m t ts fl ∧ ts.length = tripleLen d16 ∧ ∀ i, i < 32 →
      let x := ((s.tripleSet ta d16).getD i ⟨0, 0, []⟩).merge ((s.tripleSet tb d16).getD i ⟨0, 0, []⟩)
      el ts 0 i 0 = x.m ∧ el ts 0 i 1 = x.s ∧ ∀ j, j < d → el ts (1 + j / 32) i (j % 32) = x.v.getD j 0) ∧
    (Issues nrm s → Completes nrm s fun t => ∃ ts fl, tiles nrm t ts fl ∧ ts.length = tripleLen d16 - 1 ∧ ∀ i j, i < 32 → j < d →
      el ts (j / 32) i (j % 32) = (((s.tripleSet ta d16).getD i ⟨0, 0, []⟩).norm).getD j 0) ∧
    (Issues (.slen qd len) s → Completes (.slen qd len) s fun t => t.strm qd.toNat = ⟨[], len.toNat, 0#64, true, false⟩ ∧ RegsSame s t ∧ MemSame s t ∧ t.thr = s.thr) ∧
    (Issues (.sgen la qd gx ta row bip src) s → StreamResult (.sgen la qd gx ta row bip src) s qd (s.strm qd.toNat).code (1#64 <<< src.toNat) fun k =>
      ((List.range (strmLen (s.strm qd.toNat).code)).filter fun n => (rng (s.rdN 60) (lin (s.rd gx)) (32 * s.thr.lane + k) n).toNat <
        (threshold bip (fdecode fp32 ((rowElems 11#4 ((s.tile ta.toNat).rows.getD row.toNat 0)).getD k 0))).1).foldl (fun v n => v + 2 ^ n) 0) ∧
    (Issues (.sregen la qd qa gx src) s → StreamResult (.sregen la qd qa gx src) s qd (s.strm qd.toNat).code (1#64 <<< src.toNat) fun k =>
      ((List.range (strmLen (s.strm qd.toNat).code)).filter fun n => (rng (s.rdN 60) (lin (s.rd gx)) (32 * s.thr.lane + k) n).toNat <
        ((List.range (strmLen a.code)).countP fun j => (a.lane k).testBit j) * 2 ^ 32 / strmLen a.code).foldl (fun v n => v + 2 ^ n) 0) ∧
    logic (.sand la qd qa qb) [a, b] (a.lineage &&& b.lineage) (a.lineage ||| b.lineage) (fun x y _ => x && y) ∧
    logic (.sxnor la qd qa qb) [a, b] (a.lineage &&& b.lineage) (a.lineage ||| b.lineage) (fun x y _ => x == y) ∧
    logic (.smux la qd qa qb qc) [a, b, c] (c.lineage &&& (a.lineage ||| b.lineage)) (a.lineage ||| b.lineage ||| c.lineage) (fun x y z => if z then x else y) ∧
    (Issues (.scnt la qa td row out) s → RowsResult (.scnt la qa td row out) s td 0#8 fun rs => (∀ k, k < 32 → k ≠ row.toNat → rs.getD k 0 = (s.tile td.toNat).rows.getD k 0) ∧
      ∀ k, k < 32 → (rowElems 11#4 (rs.getD row.toNat 0)).getD k 0 = countOut out a.code ((List.range (strmLen a.code)).countP fun j => (a.lane k).testBit j))

/-! ## Events: sensors, links and stacks -/

/-- The cells, the memory and the threads of the machine are as before. -/
def CellsSame (s t : State) : Prop := t.cells = s.cells ∧ t.hbm = s.hbm ∧ t.lines = s.lines ∧ t.hostMem = s.hostMem

/-- The partition that holds a die, if it runs, names no valid fault server, so that a notification is kept (R122, R260). -/
def NoServer (s : State) (d : Nat) : Prop := ∀ q, s.partOfDie d = some q → s.running q = true → s.fld 5 0 (0x40 * q + 0x18) 16 1 = 0

/-- A notification of a cause and an address is kept for the running partition of a die (R260). -/
def Notified (s t : State) (d cause faddr : Nat) : Prop :=
  ∀ q, s.partOfDie d = some q → s.running q = true → ∃ f, (t.partAt q).notes = (s.partAt q).notes ++ [(f, none)] ∧ f.notify = true ∧ f.cause.toNat = cause ∧
    f.faddr = W faddr ∧ f.entries = []

/-- R10 to R17, R19, R20: sensors and thermal loops, temperatures in sixteenths of a degree. A conversion writes DTS with VALID, and 100 degrees sets WARN, recorded once; at 118 the die halts
at the largest throttle demand, and it resumes once CRIT is clear and no sensor is above 100; throttling steps down at 108 and up below 105, warm mode at 105 and 103, the power limit above 4,800 W and below
4,656, and the applied step is the largest demand; ballast takes its setpoint, and a window sets HOLD within the band and UNDER outside it; a stack's refresh follows its temperature; a die is released once its sensors
are valid and its firmware is loaded. Which step is the first of a throttle episode, a warm demand of 0 outside warm mode, and THROT at each step down are the model's choice (log 65). -/
def Obligations.ThermalEvents : Prop :=
  ∀ (s : State) (d n k : Nat) (temp w : BitVec 16) (pw : List Nat), d < 8 → n < 8 → k < 16 →
    let hot := fun (c : Int) => ∃ m, m < 8 ∧ 16 * c ≤ s.temp d m
    let stat := 0x200 + 8 * d
    let sp := min (s.fld 1 0 0x308 0 16) 4800
    let on := fun (t : State) (b : Nat) => t.fld 1 0 stat b 1 = 1
    Completes (.sensorConversion d n temp) s (fun t => CellsSame s t ∧ t.reg 1 0 (0x40 * d + 8 * n) = W (2 ^ 16 + temp.toNat) ∧
      (1600 ≤ temp.toInt → on t 0 ∧ ((s.dieAt d).warned = false → t.msix = s.msix ||| 2#16 ∧ ∃ e, (t.dieAt d).events = (s.dieAt d).events ++ [e] ∧ e.kind = 0x20#8 ∧ e.code = 1#8)) ∧
      (temp.toInt < 1600 → t.fld 1 0 stat 0 1 = s.fld 1 0 stat 0 1 ∧ t.msix = s.msix)) ∧
    (hot 118 → NoServer s d → Completes (.criticalHalt d) s fun t => CellsSame s t ∧ on t 1 ∧ on t 2 ∧ on t 3 ∧ (t.dieAt d).throttle = 17 ∧ Notified s t d 0x20 d) ∧
    (¬ hot 118 → exec (.criticalHalt d) s = .next s) ∧
    (on s 3 → (∀ m, m < 8 → s.temp d m ≤ 1600) → s.fld 1 0 stat 2 1 = 0 → Completes (.criticalResume d) s fun t => CellsSame s t ∧ t.fld 1 0 stat 3 1 = 0) ∧
    (hot 108 → Completes (.throttleStepDown d) s fun t => CellsSame s t ∧ on t 1 ∧
      (t.dieAt d).throttle = min ((if (s.dieAt d).throttle = 0 then s.fld 1 0 stat 8 5 else (s.dieAt d).throttle) + 1) 17) ∧
    (¬ hot 105 → ¬ on s 3 → Completes (.throttleStepUp d) s fun t => CellsSame s t ∧ (t.dieAt d).throttle = (s.dieAt d).throttle - 1) ∧
    (s.fld 1 0 0x300 0 2 = 1 → Completes (.warmLoopEval d) s fun t => CellsSame s t ∧ (t.dieAt d).warm =
      if ∃ m, m < 8 ∧ 16 * 105 < s.temp d m then min ((s.dieAt d).warm + 1) 17 else if ∀ m, m < 8 → s.temp d m ≤ 16 * 103 then (s.dieAt d).warm - 1 else (s.dieAt d).warm) ∧
    (s.fld 1 0 0x300 0 2 ≠ 1 → Completes (.warmLoopEval d) s fun t => (t.dieAt d).warm = 0) ∧
    Completes (.powerLimitEval w) s (fun t => CellsSame s t ∧ t.reg 1 0 0x310 = w.setWidth 64 ∧ (t.dieAt d).power =
      if 4800 < w.toNat then min ((s.dieAt d).power + 1) 17 else if w.toNat < 4656 then (s.dieAt d).power - 1 else (s.dieAt d).power) ∧
    ((s.dieAt d).throttle < 32 → (s.dieAt d).warm < 32 → (s.dieAt d).power < 32 → Completes (.clockStepApply d) s fun t => CellsSame s t ∧
      t.fld 1 0 stat 8 5 = max (s.dieAt d).throttle (max (if s.fld 1 0 0x300 0 2 = 1 then (s.dieAt d).warm else 0) (s.dieAt d).power)) ∧
    Completes (.ballastSetpoint n pw) s (fun t => CellsSame s t ∧ (t.dieAt d).setpoint = (sp : Int) - n ∧ (t.dieAt d).watts = pw.getD d 0) ∧
    Completes (.ballastWindow n) s (fun t => CellsSame s t ∧ (t.fld 1 0 0x318 0 1 = 1 ↔ 50 * ((n : Int) - sp).natAbs ≤ sp) ∧
      t.fld 1 0 0x318 1 1 = if 50 * ((n : Int) - sp).natAbs ≤ sp then s.fld 1 0 0x318 1 1 else 1) ∧
    Completes (.hbmTempReading k temp) s (fun t => CellsSame s t ∧ t.fld 1 0 (0x400 + 8 * k) 18 1 = 1 ∧ t.fld 1 0 (0x400 + 8 * k) 0 16 = temp.toNat ∧
      let r := t.fld 1 0 (0x400 + 8 * k) 16 2
      (16 * 105 < temp.toInt → r = 3) ∧ (16 * 95 < temp.toInt → 2 ≤ r) ∧ (16 * 85 < temp.toInt → 1 ≤ r) ∧ (temp.toInt ≤ 16 * 83 → r = 0) ∧
      (temp.toInt ≤ 16 * 93 → r ≤ 1) ∧ (temp.toInt ≤ 16 * 103 → r ≤ 2)) ∧
    (s.service.up = true → (∃ f ∈ s.service.loaded, f.kind = 2) → (∀ m, m < 8 → s.fld 1 0 (0x40 * d + 8 * m) 16 1 = 1) → s.fld 1 0 (0x400 + 16 * d) 18 1 = 1 → s.fld 1 0 (0x408 + 16 * d) 18 1 = 1 →
      Completes (.cellRelease d) s fun t => CellsSame s t ∧ (t.dieAt d).released = true)

/-- R35, R41 to R45, R246, R340, R343: the stacks. A frame that fails is recorded as a link error (logged at the end of the cycle, R45) and the third failure in a row of its direction fails
the link, a frame that passes beginning that direction's count again (event `k + 16 * dir`, log 70); a rehash starts to the masks as
written, or is refused while one runs, and makes them active once the bank-side commands have run; HXM is read back at once; ELHEAD releases entries; the oldest bank-side command
starts and finishes; waiting synchronising accesses perform, earliest first, and refused ones are tried again. -/
def Obligations.StackEvents : Prop :=
  ∀ (s : State) (k i dir : Nat) (v : Word), k < 16 → i < 6 → dir < 2 →
    let o := 0x1000 * k
    let x := s.stackAt k
    let fails := fun (t : State) => tget (fun _ => 0) (t.stackAt k).linkFails
    let other := fun (t : State) => ∀ e, e ≠ dir → fails t e = fails s e
    let busy := s.fld 2 0 (o + 8) 1 1
    let good := (v.toNat % 2 ^ 12 = 0 ∧ v.toNat < 2 ^ 40)
    (s.fld 11 0 0x808 3 1 = 0 → Completes (.linkFrameReceive (k + 16 * dir) true) s fun t => CellsSame s t ∧ fails t dir = 0 ∧ other t ∧ (t.stackAt k).frames = x.frames + 1#64 ∧ t.regs = s.regs) ∧
    (s.fld 11 0 0x808 3 1 = 0 → NoServer s (k / 2) → Completes (.linkFrameReceive (k + 16 * dir) false) s fun t => CellsSame s t ∧ fails t dir = fails s dir + 1 ∧ other t ∧
      (∃ r, (t.stackAt k).reported = x.reported ++ [r] ∧ r.kind = 5 ∧ r.addr = 0) ∧
      (fails s dir = 2 → t.fld 2 0 (o + 8) 2 1 = 1 ∧ Notified s t (k / 2) 0x22 k) ∧ (fails s dir ≠ 2 → t.fld 2 0 (o + 8) 2 1 = s.fld 2 0 (o + 8) 2 1)) ∧
    (busy = 0 → Completes (.apply k) s fun t => CellsSame s t ∧ t.fld 2 0 (o + 8) 1 1 = 1 ∧
      ∃ m, (t.stackAt k).target = some m ∧ tget (fun _ => 0#40) m i = (s.reg 2 0 (o + 0x10 + 8 * i)).setWidth 40) ∧
    (busy = 1 → Completes (.apply k) s fun t => CellsSame s t ∧ t.hbmStacks = s.hbmStacks ∧ t.fld 2 0 (o + 8) 3 1 = 1 ∧ t.fld 1 0 0x500 2 1 = 1) ∧
    (∀ m, x.target = some m → x.bsq = [] → Completes (.rehashComplete k) s fun t => CellsSame s t ∧ (t.stackAt k).active = m ∧ (t.stackAt k).target = none ∧
      t.fld 2 0 (o + 8) 1 1 = 0) ∧
    (∀ m, x.target = some m → x.bsq ≠ [] → exec (.rehashComplete k) s = .next s) ∧
    Completes (.clrcnt k) s (fun t => CellsSame s t ∧ (∀ p, p < 64 → t.reg 2 0 (o + 0x200 + 8 * p) = 0#64) ∧ t.reg 2 0 (o + 8) = s.reg 2 0 (o + 8)) ∧
    (good → Completes (.hxmWrite k i v) s fun t => CellsSame s t ∧ t.reg 2 0 (o + 0x10 + 8 * i) = v ∧
      (busy = 0 → (t.fld 2 0 (o + 8) 4 1 = 1 ↔ ∃ j, j < 6 ∧ (t.reg 2 0 (o + 0x10 + 8 * j)).setWidth 40 ≠ BitVec.ofNat 40 (s.mask k j)))) ∧
    (¬ good → Completes (.hxmWrite k i v) s fun t => CellsSame s t ∧ t.reg 2 0 (o + 0x10 + 8 * i) = s.reg 2 0 (o + 0x10 + 8 * i) ∧ t.fld 2 0 (o + 8) 3 1 = 1 ∧ t.fld 1 0 0x500 2 1 = 1) ∧
    (v.toNat < 16 → let h := s.fld 2 0 (o + 0x50) 0 4; let u := s.fld 2 0 (o + 0x50) 8 5; let r := min ((v.toNat + 16 - h) % 16) u
      Completes (.elheadWrite k v) s fun t => CellsSame s t ∧ t.fld 2 0 (o + 0x50) 0 4 = (h + r) % 16 ∧ t.fld 2 0 (o + 0x50) 8 5 = u - r) ∧
    (∀ c r, x.bsq = c :: r → Completes (.banksideStart k) s fun t => CellsSame s t ∧ (t.stackAt k).bsq = { c with running := true } :: r) ∧
    (∀ c r, x.bsq = c :: r → c.running = true → s.bsStall k c = true → exec (.banksideComplete k) s = .next s) ∧
    (∀ c r, x.bsq = c :: r → c.running = true → s.bsStall k c = false → Completes (.banksideComplete k) s fun t => (t.stackAt k).bsq = r ∧
      (bsCompl c.block = 1 → ∃ e, (t.dieAt (bf c.gid 50 3)).events = (s.dieAt (bf c.gid 50 3)).events ++ [e] ∧ e.kind = 0x12#8 ∧ e.w1 = c.gid) ∧
      (bsCompl c.block ≠ 1 → ∀ d, (t.dieAt d).events = (s.dieAt d).events)) ∧
    (∀ c r, x.bsq = c :: r → c.running = false → exec (.banksideComplete k) s = .next s) ∧
    (x.syncs = [] → exec (.syncAccessPerform k) s = .next s) ∧
    (∀ w r, x.syncs = w :: r → w.pkt = none → s.feBit w.hpa ≠ w.store →
      (w.store = true → ∀ j, (s.thrAt w.cell w.slot).postIdx w.seq = some j → exec (.syncAccessPerform k) s = .next (s.performPosted w.cell w.slot j)) ∧
      (w.store = false → ∀ j, (s.thrAt w.cell w.slot).outIdx w.seq = some j → exec (.syncAccessPerform k) s = .next (s.performOut w.cell w.slot j))) ∧
    (∀ p, (s.thrAt k i).out = [p] → (s.thrAt k i).posted = [] → (match p.act with | .cons _ _ _ => True | _ => False) →
      exec (.syncRetry k i) s = .next (s.performOut k i 0)) ∧
    (∀ u, s.thr? k i = some u → u.wait = .barRefused (k % 16) → Completes (.barrierWaitRetry k i) s fun t => t.thr? k i = some { u with wait := .none } ∧ MemSame s t ∧ t.regs = s.regs)

/-- R36, R37, R185 to R187: migration. A departing thread that has left nothing behind (log 39: with an access unperformed or a store unacknowledged it does not depart) takes a slot of its Dahlia core, or joins the queue of a full one, or is refused where the
queue is full; a refusal is tried again, and the sixteenth raises MIGNAK (11); a lingering thread goes home when another waits; the longest queued context is admitted; a context of another device
is checked, then takes a slot as a thread of a cell numbered past the 512 (the model's own convention, log 16) or is sent back; a context that comes home from another device brings its registers. -/
def Obligations.MigrationEvents : Prop :=
  ∀ (s : State) (n key k j : Nat) (u : Thread) (ctx : LightCtx), s.thr? n key = some u → k < 16 →
    let core := s.coreOf k j
    let ready := u.site = .departing k j ∧ u.posted = [] ∧ (∀ p ∈ u.out.dropLast, p.perf.isSome = true)
    let now := fun (t : State) (st : Site) => ∃ v, t.thr? n key = some v ∧ v.site = st ∧ v.g = u.g ∧ v.st = u.st ∧ v.full = u.full ∧ v.out = u.out ∧ v.pc = u.pc
    let clean := (∀ m, .own n key ∉ (s.coreOf m j).slots ++ (s.coreOf m j).queue) ∧ s.traced u.gid = false
    let takes := fun (i : Instr) => clean → ready → core.slots.length < 16 → Completes i s fun t => now t (.dahlia k j) ∧ MemSame s t ∧ (t.coreOf k j).slots = core.slots ++ [.own n key]
    (u.wait = .none → takes (.migrationDepart n key) ∧ takes (.migrate k j (.own n key))) ∧
    (∀ c, u.wait = .migRefused c → takes (.migrationRetry n key)) ∧
    (u.wait = .none → clean → ready → 16 ≤ core.slots.length → core.queue.length < 64 → Completes (.migrationDepart n key) s fun t =>
      now t (.queued k j) ∧ (t.coreOf k j).queue = core.queue ++ [.own n key]) ∧
    (u.wait = .none → clean → ready → 16 ≤ core.slots.length → 64 ≤ core.queue.length → u.refusals < 15 → Completes (.migrationDepart n key) s fun t =>
      now t (.departing k j) ∧ ∃ v, t.thr? n key = some v ∧ v.refusals = u.refusals + 1 ∧ v.wait = .migRefused (u.refusals + 1)) ∧
    (u.wait = .none → clean → ready → 16 ≤ core.slots.length → 64 ≤ core.queue.length → u.refusals = 15 → u.out ≠ [] → Completes (.migrationDepart n key) s fun t =>
      ∃ v f, t.thr? n key = some v ∧ v.stop = some f ∧ f.cause.toNat = 11 ∧ v.site = .home) ∧
    (u.wait = .none → ¬ ready → u.site = .departing k j → exec (.migrationDepart n key) s = .next s) ∧
    (u.site = .dahlia k j → core.queue ≠ [] → u.posted = [] → (∀ p ∈ u.out, p.perf.isSome = true) → (s.cellAt n).fills = [] → s.traced u.gid = false → u.far = none → Completes (.lingerReturn n key) s fun t =>
      now t .home ∧ MemSame s t ∧ .own n key ∉ (t.coreOf k j).slots) ∧
    (u.site = .dahlia k j → core.queue ≠ [] → u.posted = [] → (∀ p ∈ u.out, p.perf.isSome = true) → u.far ≠ none → Completes (.lingerReturn n key) s fun t =>
      t.thr? n key = none ∧ .own n key ∉ (t.coreOf k j).slots) ∧
    (u.site = .dahlia k j → core.queue = [] → exec (.lingerReturn n key) s = .next s) ∧
    (∀ r, core.slots.length < 16 → core.queue = .own n key :: r → .own n key ∉ r → .own n key ∉ core.slots → s.traced u.gid = false → Completes (.dahliaAdmit k j) s fun t =>
      now t (.dahlia k j) ∧ (t.coreOf k j).queue = r ∧ (t.coreOf k j).slots = core.slots ++ [.own n key]) ∧
    (∀ sdev sdie (cid : BitVec 6) (slot : BitVec 4) acc desc s1 s2 r, s.peerStall desc = false → Arrives s 0x30 s1 →
      s1.peerCheck desc sdev.toNat desc.offset.toNat (descN desc) (match acc with | .load => rRD | .sync => rRD + rWR | .atom => rAT) = (s2, r) →
      let c := s2.coreOf k j
      let fn := 512 + 8 * sdev.toNat + sdie.toNat
      let fk := 16 * cid.toNat + slot.toNat
      let brings := Instr.migrate k j (.peer sdev sdie cid slot ctx acc desc)
      (∀ e, r = .error e → Completes brings s fun t => t.cells = s2.cells ∧ t.hbmStacks = s2.hbmStacks) ∧
      (∀ q h, r = .ok (q, h) → 16 ≤ c.slots.length → 64 ≤ c.queue.length → Completes brings s fun t => t.cells = s2.cells ∧ t.hbmStacks = s2.hbmStacks) ∧
      (∀ q h, r = .ok (q, h) → c.slots.length < 16 → .own fn fk ∉ c.slots → Completes brings s fun t => (t.coreOf k j).slots = c.slots ++ [.own fn fk] ∧
        ∃ v, t.thr? fn fk = some v ∧ v.site = .dahlia k j ∧ v.far = some desc ∧ v.part = q ∧ v.pc = ctx.pc ∧ v.gid = ctx.gid ∧ ∀ i, i < 48 → t.regOf fn v i = ctx.g.getD i 0#64)) ∧
    (∀ dv s1, Arrives s 0x31 s1 → s1.thr? n key = some u → u.site = .peer dv → u.out = [] → (s1.cellAt n).fills = [] → s1.fld 11 0 (0x100 * u.part + 0x30) 8 1 = 0 →
      Completes (.mighome n key ctx 0) s fun t => ∃ v, t.thr? n key = some v ∧ v.site = .home ∧ v.pc = ctx.pc ∧ v.st = ctx.st ∧ v.gid = u.gid ∧ v.wait = .none ∧
        (∀ r, r < 48 → t.regOf n v r = ctx.g.getD r 0#64) ∧ t.regOf n v 62 = ctx.lk ∧ ∀ r, r < 48 → v.full.getLsbD r = ctx.full.getLsbD r) ∧
    (∀ dv s1, Arrives s 0x32 s1 → s1.thr? n key = some u → u.site = .peer dv → u.refusals < 15 → s1.fld 11 0 (0x100 * u.part + 0x30) 8 1 = 0 → Completes (.mignak n key) s fun t =>
      ∃ v, t.thr? n key = some v ∧ v.site = .departing (1000 + dv) 0 ∧ v.refusals = u.refusals + 1 ∧ v.wait = .migRefused (u.refusals + 1) ∧ v.g = u.g)

/-! ## Events: cells, stops, context switches, tracing -/

/-- Outside the cells and the messages on their way, the machine is as before. -/
def OnlyCells (s t : State) : Prop := { t with cells := s.cells, flights := s.flights } = s

/-- Nothing but cell `n` and the messages on their way differs. -/
def OnlyTheCell (s t : State) (n : Nat) : Prop := OnlyCells s t ∧ ∀ m, m ≠ n → t.cellAt m = s.cellAt m

/-- R178, R179, R182, R199, R308: messages and fills arrive, a yield ends, and register banks change power. What arrives takes effect at the end of its cycle, fills by ascending sender. A message enters a
port's FIFO of four; a fill, whose sender may then finish the fill's bundle, fills an empty register, waits among the eight of its cell's buffer where the register is full or the thread away, is refused
where that buffer is full and tried again, and raises PERM (3) at its sender, precise at the fill and with FADDR 0 (log 28), where no thread of the partition holds the slot; a yield lasts 16 cycles;
a bank wakes when CBANK turns it on or a thread waits for it, takes a new state only when nothing issued names it, loses its contents when it goes off, and under AUTO goes to
retention after 65,536 cycles. That CBANK's code reads 0 after a wake and 1 after an automatic retention is the model's reading (log 42). -/
def Obligations.CellEvents : Prop :=
  ∀ (s : State) (n d k r b m j : Nat) (v pc : Word) (f : Flight) (p u : Thread), d < 4 → r < 48 → b < 6 → s.thr? m j = some p →
    let c := s.cellAt n
    let lands := fun (i : Instr) (p : Flight → Bool) => (s.flights.all (fun g => g.landed || !p g) = true → exec i s = .next s) ∧
      ∀ a b, s.flights = a ++ f :: b → f.landed = false → p f = true → a.all (fun g => g.landed || !p g) = true →
        exec i s = .next { s with flights := a ++ { f with landed := true } :: b }
    let fill := f.cell = n ∧ f.slot = k ∧ f.reg = r ∧ f.v = v ∧ f.fromCell = m ∧ f.fromSlot = j ∧ p.wait = .fillSent pc
    let code := fun (t : State) (b : Nat) => bf (t.cellAt n).cbank (2 * b) 2
    let others := fun (t : State) => OnlyTheCell s t n ∧ t.flights = s.flights ∧ (t.cellAt n).slots = c.slots ∧ ∀ i, i < 6 → i ≠ b → t.bankPower n i = s.bankPower n i ∧ code t i = code s i
    let holds := fun (t : State) => (t.cellAt n).tiles = c.tiles ∧ (t.cellAt n).strms = c.strms
    lands (.meshMessageArrive n d) (fun g => g.cell == n && g.reg == 64 + d) ∧
    lands (.fillArrive n k r v) (fun g => g.cell == n && g.slot == k && g.reg == r && g.v == v) ∧
    (p.wait = .fillRefused pc → lands (.fillRetry m j) (fun g => g.fromCell == m && g.fromSlot == j && decide (g.reg < 48))) ∧
    (s.flights.filter (·.landed) = [f] → s.landAll false = if f.reg < 48 then s.fillDeliver f else if 64 ≤ f.reg then s.meshDeliver f else s) ∧
    (∀ g, s.flights.filter (·.landed) = [f, g] → f.reg < 48 → g.reg < 48 → g.fromCell < f.fromCell → s.landAll false = (s.fillDeliver g).fillDeliver f) ∧
    (f.cell = n → f.reg = 64 + d → (s.fifo n d).length < 4 → let t := s.meshDeliver f; t.flights = s.flights.erase f ∧ t.fifo n d = s.fifo n d ++ [f.v] ∧
      (∀ i, i ≠ d → t.fifo n i = s.fifo n i) ∧ OnlyTheCell s t n ∧ (t.cellAt n).slots = c.slots) ∧
    (f.cell = n → f.reg = 64 + d → 4 ≤ (s.fifo n d).length → s.meshDeliver f = s) ∧
    (fill → s.thr? n k = some u → u.part = p.part → let t := s.fillDeliver f
      (u.site = .home → u.full.getLsbD r = false → (∃ w, t.thr? n k = some w ∧ t.regOf n w r = v ∧ w.full.getLsbD r = true) ∧
        (∃ w, t.thr? m j = some w ∧ w.wait = .filled pc) ∧ t.flights = s.flights.erase f ∧ OnlyCells s t) ∧
      (u.site ≠ .home ∨ u.full.getLsbD r = true → c.fills.length < 8 → t.flights = s.flights.erase f ∧ OnlyCells s t ∧
        (t.cellAt n).fills = c.fills ++ [{ slot := k, reg := r, v := v }] ∧ t.thr? m j = some { p with wait := .filled pc }) ∧
      (u.site ≠ .home ∨ u.full.getLsbD r = true → 8 ≤ c.fills.length → t.flights = s.flights.map (fun g => if g = f then { f with landed := false } else g) ∧ OnlyCells s t ∧
        (t.cellAt n).fills = c.fills ∧ t.thr? m j = some { p with wait := .fillRefused pc })) ∧
    (fill → (∀ w, s.thr? n k = some w → w.part ≠ p.part) → let t := s.fillDeliver f; t.flights = s.flights.erase f ∧ MemSame s t ∧
      ∃ w g, t.thr? m j = some w ∧ w.stop = some g ∧ g.cause.toNat = 3 ∧ g.faddr = 0#64 ∧ g.fpc = pc ∧ w.pc = pc) ∧
    (∀ q, p.wait = .yielding q → (q + 16 < s.cycle → Completes (.yieldEnd m j) s fun t => t.thr? m j = some { p with wait := .none } ∧ OnlyTheCell s t m ∧ t.flights = s.flights) ∧
      (s.cycle ≤ q + 16 → exec (.yieldEnd m j) s = .next s)) ∧
    ((s.bankPower n b ≠ 0 ∧ code s b = 0) ∨ (s.bankPower n b = 1 ∧ m = n ∧ p.wait = .wake b) → Completes (.bankWake n b) s fun t => t.bankPower n b = 0 ∧ code t b = 0 ∧ others t ∧ holds t) ∧
    (code s b = 1 → s.bankPower n b ≠ 1 → s.bankBusy n b = false → Completes (.bankPowerApply n b) s fun t => t.bankPower n b = 1 ∧ others t ∧ holds t) ∧
    (code s b = 2 → s.bankPower n b ≠ 2 → s.bankBusy n b = false → Completes (.bankPowerApply n b) s fun t => t.bankPower n b = 2 ∧ others t ∧ ∀ i, i < 8 →
      (b < 4 → let x := t.tileAt n (s.cellBank n) (8 * b + i); x.full = false ∧ x.pending = false ∧ ∀ a, tget (fun _ => 0#8) x.bytes a = 0#8) ∧
      (4 ≤ b → let x := t.strmAt n (s.cellBank n) (8 * (b - 4) + i); x.full = false ∧ x.pending = false ∧ ∀ a, tget (fun _ => 0) x.lanes a = 0)) ∧
    (s.bankBusy n b = true → exec (.bankPowerApply n b) s = .next s) ∧
    (c.cbank.getLsbD 16 = true → s.bankPower n b = 0 → code s b = 0 → s.bankPending n b = false → tget (fun _ => 0) c.idle b + 65536 ≤ s.cycle →
      Completes (.bankAutoRetention n b) s fun t => t.bankPower n b = 1 ∧ code t b = 1 ∧ others t ∧ holds t) ∧
    (s.cycle < tget (fun _ => 0) c.idle b + 65536 → exec (.bankAutoRetention n b) s = .next s)

/-- A refused write of a register is recorded (R6). -/
def RefusalRecorded (s t : State) (b i o : Nat) : Prop := t.fld 1 0 0x500 b 1 = 1 ∧ t.reg 1 0 0x508 = W (2 ^ 31 + s.barOff b i o % 2 ^ 27)

/-- R262 to R265, R269, R271: stops, error injection and context switches. A write of DSTOP stops the named task with BREAK (12), or says that no thread has the gid, or is refused while a stop is
in progress and waits for a lane away on another device; EINJ is written only while debug is unlocked; a bank switch stops every running thread of its partition with its
unfinished instructions kept for reissue, and its completion flips BANK; a swapped unit leaves the list of its cell, and the last ends the switch. -/
def StopsAndSwitches : Prop :=
  ∀ (s : State) (q n k : Nat) (e : BitVec 3) (gid : Word) (u : Thread), q < 8 → s.thr? n k = some u →
    let o := 0x100 * q
    let busy := s.fld 11 0 (o + 0x30) 8 1
    let psw := s.fld 11 0 (o + 0x18) 8 1
    let unlocked := s.fld 11 0 0x800 0 1 = 1
    (busy = 1 → Completes (.dstopWrite q gid) s fun t => t.fld 11 0 (o + 0x30) 9 1 = 1 ∧ t.reg 11 0 (o + 0x28) = s.reg 11 0 (o + 0x28) ∧ CellsSame s t ∧ RefusalRecorded s t 11 0 (o + 0x28)) ∧
    (busy = 0 → s.graphOf gid = none → Completes (.dstopWrite q gid) s fun t => t.reg 11 0 (o + 0x28) = gid ∧ t.fld 11 0 (o + 0x30) 0 1 = 1 ∧ CellsSame s t) ∧
    (busy = 0 → s.lanesOf gid = [(n, k)] → u.stoppable = true → Completes (.dstopWrite q gid) s fun t => t.reg 11 0 (o + 0x28) = gid ∧ t.fld 11 0 (o + 0x30) 0 1 = 0 ∧
      t.fld 11 0 (o + 0x30) 8 1 = 0 ∧ MemSame s t ∧ ∃ w f, t.thr? n k = some w ∧ w.stop = some f ∧ f.cause.toNat = 12 ∧ f.fpc = u.pc ∧ f.ctx.pc = u.pc ∧ w.pc = u.pc) ∧
    (∀ dv, busy = 0 → s.lanesOf gid = [(n, k)] → u.site = .peer dv → Completes (.dstopWrite q gid) s fun t => t.fld 11 0 (o + 0x30) 8 1 = 1 ∧ CellsSame s t) ∧
    (unlocked → 1 ≤ e.toNat → e.toNat ≤ 5 → Completes (.einjArm e) s fun t => t.reg 11 0 0x808 = W (8 + e.toNat) ∧ CellsSame s t) ∧
    (unlocked → Completes (.einjDisarm e) s fun t => t.reg 11 0 0x808 = 0#64 ∧ CellsSame s t) ∧
    (¬ unlocked → ∀ i ∈ [Instr.einjArm e, Instr.einjDisarm e], Completes i s fun t => t.reg 11 0 0x808 = s.reg 11 0 0x808 ∧ t.fld 11 0 0x800 1 1 = 1 ∧ CellsSame s t ∧ RefusalRecorded s t 11 0 0x808) ∧
    (psw = 1 ∨ s.running q = false → Completes (.bankSwitch q) s fun t => t.fld 11 0 (o + 0x18) 9 1 = 1 ∧ CellsSame s t ∧ RefusalRecorded s t 11 0 (o + 0x18)) ∧
    (psw = 0 → s.running q = true → u.part = q → k / 16 = s.bankOf q → s.dieIn q (n / 64) = true → u.stop = none → (∀ dv, u.site ≠ .peer dv) → Completes (.bankSwitch q) s fun t =>
      t.fld 11 0 (o + 0x18) 8 1 = 1 ∧ (t.partAt q).switching = true ∧ t.bankOf q = s.bankOf q ∧ MemSame s t ∧ ∃ w, t.thr? n k = some w ∧ w.pc = u.pc ∧ w.out = [] ∧
        w.replay = (u.out.filter Pend.replays).map (fun p => p.entry) ++ u.replay ∧ w.site = .home ∧ w.posted = u.posted ∧ w.g = u.g ∧ w.full = u.full ∧ w.st = u.st ∧ w.stop = none) ∧
    ((s.partAt q).switching = true → (s.partAt q).returned = [] → Completes (.bankSwitchComplete q) s fun t => t.bankOf q = 1 - s.bankOf q ∧ (t.partAt q).switching = false ∧
      MemSame s t ∧ (u.replay.all (fun x => !x.action) = true → t.thr? n k = some u)) ∧
    ((s.partAt q).switching = false → exec (.bankSwitchComplete q) s = .next s) ∧
    (s.dieIn q (n / 64) = true → Completes (.lazySwapUnit q n) s fun t => (t.cellAt n).swap = (s.cellAt n).swap.drop 1 ∧ t.thr? n k = some u ∧ MemSame s t ∧
      ((s.partAt q).lazyLeft = true → (s.partAt q).switching = false → (s.cellAt n).swap.length ≤ 1 → s.cells.Pairwise (fun a b => a.1 < b.1) →
        (∀ m, m ≠ n → s.dieIn q (m / 64) = true → (s.cellAt m).swap = []) → t.fld 11 0 (o + 0x18) 8 1 = 0)) ∧
    (s.dieIn q (n / 64) = false → exec (.lazySwapUnit q n) s = .next s)

/-- R266, R267, R270: timebases, traces and telemetry. Measured offsets of the dies and of the neighbours whose pair is up are written with VALID; a sample traces each selected
thread where it stands; a record is written at the next place of its die's ring; clearing zeroes every telemetry counter and freezing sets the bit that stops them. -/
def TracesAndTelemetry : Prop :=
  ∀ (s : State) (d n k j q : Nat) (r : TraceRec) (ds ps : List Word) (on : Bool) (u : Thread), d < 8 → j < 48 →
    let o := 0xA00 + 0x40 * d
    let l := s.fld 11 0 o 0 5
    let tail := (s.reg 11 0 (o + 8)).toNat
    let skew := fun (x : Option Word) (old : Word) => (x.map fun v => W (2 ^ 63 + v.toNat % 2 ^ 40)).getD old
    Completes (.skewMeasure ds ps) s (fun t => CellsSame s t ∧ t.reg 11 0 (0xA18 + 0x40 * d) = skew ds[d]? (s.reg 11 0 (0xA18 + 0x40 * d)) ∧
      t.reg 11 0 (0xC00 + 8 * j) = if (s.pairPort j true 0).isSome then skew ps[j]? (s.reg 11 0 (0xC00 + 8 * j)) else s.reg 11 0 (0xC00 + 8 * j)) ∧
    (s.fld 11 0 0x818 1 1 = 0 → exec (.traceSample d) s = .next s) ∧
    (s.fld 11 0 0x818 1 1 = 1 → s.thr? n k = some u → u.far = none → u.site = .home → n / 64 = d → s.traced u.gid = true → Completes (.traceSample d) s fun t => CellsSame s t ∧
      ∃ x, (d, x) ∈ t.trace ∧ x.gid = u.gid ∧ x.pc = u.pc ∧ x.tb = s.tb d ∧ bf x.w0 56 8 = 1 ∧ bf x.w0 37 11 = s.devId ∧ bf x.w0 34 3 = d ∧ bf x.w0 27 7 = n % 64 ∧ bf x.w0 23 4 = k % 16) ∧
    (s.heldPkt 0x60 = none → s.partOfDie d = some q → 4 ≤ l → l ≤ 24 → ∀ t, let a := s.fld 11 0 o 12 45 * 4096 + 32 * (tail % 2 ^ l); (State.charge { s with trace := s.trace.erase (d, r) } d q a 32).engPut q a [r.w0, r.gid, r.tb, r.pc] = .ok t →
      Completes (.trace d r) s fun t' => t' = t.setReg 11 0 (o + 8) (W (tail + 1))) ∧
    (∀ s1, Arrives s 0x60 s1 → s1.partOfDie d = none → exec (.trace d r) s = .next { s1 with trace := s1.trace.erase (d, r) }) ∧
    Completes .tctlClear s (fun t => { t with regs := s.regs } = s ∧ (∀ o, o < 0x80200 → t.reg 7 0 o = 0#64) ∧
      ∀ b i o, rk b i o < rk 7 0 0 ∨ rk 7 0 0x80200 ≤ rk b i o → t.reg b i o = s.reg b i o) ∧
    Completes (.tctlFreeze on) s (fun t => { t with regs := s.regs } = s ∧ t.fld 7 0 0x80200 1 1 = on.toNat ∧
      ∀ b i o, rk b i o ≠ rk 7 0 0x80200 → t.reg b i o = s.reg b i o)

/-- R262 to R271: stops, injection, context switches, timebases, traces and telemetry. -/
def Obligations.DebugEvents : Prop := StopsAndSwitches ∧ TracesAndTelemetry

/-! ## Events: copy channels and the scheduler -/

/-- Channel `c` of die `d` has halted with a status code (R162). -/
def Halted (t : State) (d c code : Nat) : Prop :=
  t.chState d c = 2 ∧ t.fld 9 d (0x40 * c + 0x18) 8 8 = code ∧ (t.chan d c).begun = false ∧ t.fld 9 d (0x40 * c + 0x10) 0 1 = 0

/-- A channel whose record fails with a code halts where the die that takes its event record has room for one; otherwise the failure is kept until it has
(R141, R162): `y` is the state at the failure. -/
def Fails (y t : State) (d c code : Nat) : Prop :=
  (y.copyRoom d c = true → Halted t d c code) ∧ (y.copyRoom d c = false → (t.chan d c).failing = some (code % 16) ∧ t.chState d c = y.chState d c)

/-- R153 to R168: copy channels. CHEAD fills the shadow set, which is promoted where the channel is enabled and idle, and is refused while the set is full; the next record is
awaited while OWN is 0 and begun when its fields are good, and halts the channel otherwise; packets carry the elements on; a finished record counts its bytes and goes on or ends the
chain, once the event queue has room for its record where it makes one (R141); an abort ends the running record with code 6; CCTL enables, disables and gives a channel to a partition. -/
def Obligations.CopyEvents : Prop :=
  ∀ (s : State) (d c : Nat) (v : Word), d < 8 → c < 24 →
    let o := 0x40 * c
    let x := s.chan d c
    let full := s.chFull d c
    let run := s.chState d c = 1
    let wait := s.fld 9 d (o + 0x18) 2 1
    let reads := fun i => i = Instr.copyRecordRead d c ∨ (i = .copyOwnReread d c ∧ wait = 1)
    let q := s.chPart d c
    (writeBad 9 (o + 8) v = true → Completes (.cheadWrite d c v) s fun t => t.reg 9 d (o + 8) = s.reg 9 d (o + 8) ∧ CellsSame s t ∧ RefusalRecorded s t 9 d (o + 8)) ∧
    (writeBad 9 (o + 8) v = false →
      (full = true → Completes (.cheadWrite d c v) s fun t => t.reg 9 d (o + 8) = s.reg 9 d (o + 8) ∧ t.fld 9 d (o + 0x18) 4 1 = 1 ∧ CellsSame s t ∧ RefusalRecorded s t 9 d (o + 8)) ∧
      (full = false → v.getLsbD 0 = false ∨ s.chEn d c = false ∨ s.chState d c ≠ 0 → Completes (.cheadWrite d c v) s fun t => t.reg 9 d (o + 8) = v ∧ t.chFull d c = v.getLsbD 0 ∧ CellsSame s t) ∧
      (full = false → v.getLsbD 0 = true → s.chEn d c = true → s.chState d c = 0 → Completes (.cheadWrite d c v) s fun t => t.chFull d c = false ∧ t.chState d c = 1 ∧ CellsSame s t ∧
        t.reg 9 d (o + 0x10) = W (256 * bf v 8 49 + 1) ∧ t.reg 9 d (o + 0x20) = s.reg 9 d (o + 0x28) ∧ (t.chan d c).recAddr = W (256 * bf v 8 49) ∧
        (t.chan d c).lo = s.reg 9 d (o + 0x28) ∧ (t.chan d c).hi = s.reg 9 d (o + 0x30) ∧ (t.chan d c).gid = none)) ∧
    let got := (s.charge d q x.recAddr.toNat 256).engWords q x.recAddr.toNat 32
    (∀ i, reads i → run → x.begun = false → (∀ code, x.failing = some code → s.copyRoom d c = true → Completes i s fun t => t.chState d c = 2 ∧ t.fld 9 d (o + 0x18) 8 4 = code % 16)) ∧
    (∀ i, reads i → run → x.begun = false → x.failing = none →
      (∀ s1 ws, got = (s1, .ok ws) → ws.getD 0 0#64 < 0x8000000000000000#64 → Completes i s fun t => t.fld 9 d (o + 0x18) 2 1 = 1 ∧ t.chan d c = x ∧ t.chState d c = 1) ∧
      (∀ s1 ws, got = (s1, .ok ws) → 0x8000000000000000#64 ≤ ws.getD 0 0#64 → x.aborting = false →
        ({ x with words := ws }.fieldsOk = true → Completes i s fun t => t.fld 9 d (o + 0x18) 2 1 = 0 ∧ t.chState d c = 1 ∧ (t.chan d c).begun = true ∧ (t.chan d c).words = ws ∧
          (t.chan d c).sentEls = 0 ∧ (t.chan d c).bytes = 0) ∧
        ({ x with words := ws }.fieldsOk = false → Completes i s fun t => Fails s1 t d c 2)) ∧
      (∀ s1 a, got = (s1, .error (2, a)) → x.clip = false → Completes i s fun t => Fails s1 t d c 3)) ∧
    (x.begun = true ∨ ¬ run → ∀ i, reads i → exec i s = .next s) ∧
    (wait = 0 → exec (.copyOwnReread d c) s = .next s) ∧
    (run → x.begun = true → x.sentEls < recCount x.words → x.aborting = false → x.failing = none →
      let e := c / 4
      let va := recDst x.words x.sentEls
      let k := runLen x.words x.sentEls va 2048 0
      let n := k * cpDstSize x.ctrl
      (s.engTurn d e (c % 4) = false → exec (.copyPacketSend d c) s = .next s) ∧
      (s.engTurn d e (c % 4) = true → ∀ l s0 v p cl, (s.serve d e (c % 4)).engLoc q va (min n (64 - va % 64)) rWR = .ok l → (s.serve d e (c % 4)).readRun q x.words x.sentEls k = .ok (s0, v, p, cl) →
        let s1 := ((List.range k).foldl (fun y j => y.charge d q (recSrc x.words (x.sentEls + j)) (cpSrcSize x.ctrl)) s0).chargeRange d q va n
        let on := fun (t : State) => (t.chan d c).sentEls = x.sentEls + k ∧ (t.chan d c).bytes = x.bytes + n ∧ (t.chan d c).poison = (x.poison || p) ∧ (t.chan d c).begun = true
        let whole := fun (t : State) => t.chState d c = 2 ∨ (t.chan d c).failing = some 3 ∨ (on t ∧ (t.chan d c).back = true)
        (l.isHere = true → ∀ s2 cl2, s1.landRun q x.ctrl va v k = .ok (s2, cl2) → Completes (.copyPacketSend d c) s fun t =>
          if x.sentEls + k < recCount x.words then on t ∧ (t.chan d c).clip = (x.clip || (cl || cl2)) ∧ MemSame s2 t else whole t) ∧
        (∀ dev rw off b, l = .peer dev rw off → s1.peerLoc q va n rWR = .ok b → s1.noRoom d dev false 37 = false → Completes (.copyPacketSend d c) s fun t =>
          (∃ y, y ∈ (t.txOf dev false).unacked ∧ y.kind = 0x20#8 ∧ (x.sentEls + k < recCount x.words → (t.chan d c).flying = x.flying ++ [(dev, y.seq.toNat, va, n)])) ∧
          if x.sentEls + k < recCount x.words then on t else whole t))) ∧
    (run → x.begun = true → recCount x.words ≤ x.sentEls → exec (.copyPacketSend d c) s = .next s) ∧
    (let y := (s.copyAcked d c).sourceRead d c
     let z := y.chan d c
     let s1 := if cpKind z.ctrl = 2 then y.engBar d q (z.w 4).toNat z.bytes else y
     (∀ code, z.failing = some code → y.chState d c = 1 → y.copyRoom d c = true → Completes (.copyRecordComplete d c) s fun t => t.chState d c = 2 ∧ t.fld 9 d (o + 0x18) 8 4 = code % 16) ∧
     ((cpKind z.ctrl = 3 ∨ z.poison = true) → z.failing = none → y.copyRoom d c = false → exec (.copyRecordComplete d c) s = .next y) ∧
     (y.chState d c = 1 → z.begun = true → recCount z.words ≤ z.sentEls → z.flying = [] → z.failing = none → (cpKind z.ctrl = 3 ∨ z.poison = true → y.copyRoom d c = true) →
      let nx := bf (z.w 1) 8 49
      let counted := fun (t : State) => t.reg 9 d (o + 0x38) = s1.reg 9 d (o + 0x38) + W z.bytes ∧ t.fld 9 d (o + 0x18) 8 8 = z.poison.toNat + 16 * z.clip.toNat ∧
        (cpKind z.ctrl = 3 ∨ z.poison = true → z.gid = none → ∃ e, (t.dieAt d).events = (s1.dieAt d).events ++ [e] ∧ e.kind = 0x10#8 ∧ e.code.toNat = z.poison.toNat + 16 * z.clip.toNat)
      (nx ≠ 0 → Completes (.copyRecordComplete d c) s fun t => counted t ∧ t.chState d c = 1 ∧ (t.chan d c).begun = false ∧ (t.chan d c).recAddr = W (256 * nx) ∧ t.reg 9 d (o + 0x10) = W (256 * nx + 1)) ∧
      (nx = 0 → s1.chFull d c = false → Completes (.copyRecordComplete d c) s fun t => counted t ∧ t.chState d c = 0 ∧ t.fld 9 d (o + 0x10) 0 1 = 0 ∧
        (z.hi ≠ 0#64 → t.reg 9 d (o + 0x20) = z.hi)))) ∧
    (run → x.begun = true → x.failing = none → Completes (.abort d c) s fun t => Fails s t d c (6 + 16 * x.clip.toNat)) ∧
    (run → x.failing ≠ none → exec (.abort d c) s = .next s) ∧
    (run → x.begun = false → x.failing = none → Completes (.abort d c) s fun t => (t.chan d c).aborting = true ∧ t.regs = s.regs ∧ CellsSame s t) ∧
    (¬ run → exec (.abort d c) s = .next s) ∧
    (writeBad 9 o v = false → v.getLsbD 1 = false →
      (s.chEn d c = false → v.getLsbD 0 = false → Completes (.cctlEnWrite d c v) s fun t => t.chPart d c = bf v 9 3 ∧ t.chEn d c = false ∧ CellsSame s t ∧
        t.chFull d c = false ∧ t.reg 9 d (o + 8) = 0#64 ∧ t.chState d c = s.chState d c) ∧
      (s.chEn d c = false → v.getLsbD 0 = true → full = false → Completes (.cctlEnWrite d c v) s fun t => t.chPart d c = bf v 9 3 ∧ t.chEn d c = true ∧ CellsSame s t ∧
        t.chState d c = if s.chState d c = 2 then 0 else s.chState d c) ∧
      (s.chEn d c = true → v.getLsbD 0 = true → Completes (.cctlEnWrite d c v) s fun t => t.chPart d c = s.chPart d c ∧ t.chEn d c = true ∧ CellsSame s t ∧ t.chState d c = s.chState d c) ∧
      (s.chEn d c = true → v.getLsbD 0 = false → Completes (.cctlEnWrite d c v) s fun t => t.chPart d c = s.chPart d c ∧ t.chEn d c = false ∧ t.chFull d c = false ∧ CellsSame s t ∧
        t.reg 9 d (o + 8) = 0#64 ∧ t.chState d c = (if s.chState d c = 2 then 2 else 0) ∧ t.chan d c = CopyCh.init))

/-- Task `i` of a graph has been put on its cells (R137): every lane has a thread there that starts at the task's entry. -/
def Placed (s t : State) (g : Graph) (i : Nat) (u : Task) (d : Nat) (cs : List Nat) (k : Nat) : Prop :=
  (∃ g2 u2, t.graph? g.die g.part g.num = some g2 ∧ g2.tasks[i]? = some u2 ∧ u2.state = .dispatched d cs k) ∧ t.hbm = s.hbm ∧
  ∀ l n, cs[l]? = some n → ∃ th, t.thr? n (16 * g.bank + k) = some th ∧ th.gid = s.gid g.die g.part g.num i ∧ th.pc = u.entry ∧ th.lane = l ∧ th.cls = u.cls ∧ th.part = g.part ∧
    th.st = 0#8 ∧ th.full = BitVec.allOnes 64 ∧ th.ss = W u.scratch ∧ th.arg = g.arg ∧ t.regOf n th 60 = taskSeed g.seed i ∧ ∀ r, r < 48 → t.regOf n th r = 0#64

/-- R132 to R151: the scheduler. A die dispatches from its highest class, or from a lower one passed over sixteen times; a task that waits is offered to the
nearest other die that fits it; ballast yields, unless it has retired done on every lane; an ended task leaves its slots and its record; a record releases the successors, and the last one ends the
graph; commands cancel and kill, with their results, and stay BUSY while the records of what they cancel find the event queue full (R141). -/
def Obligations.SchedulerEvents : Prop :=
  ∀ (s : State) (d c core k : Nat) (g : Graph) (t : Task) (e : QEntry) (cs : List Nat), d < 8 → c < 4 →
    let can := fun c => (s.servable d c).isSome = true
    let starved := fun c => 16 ≤ s.bypassOf d c ∧ can c
    let dispatched := fun (i : Instr) (x : Nat) => g.tasks[e.task]? = some t → s.graph? g.die g.part g.num = some g → e.die = g.die → e.part = g.part → e.num = g.num → cs.Nodup →
      Completes i s fun t' => Placed s t' g e.task t x cs k ∧ (∀ y ∈ t'.ready d c, y.isOf g e.task = false)
    (∀ p, s.servable d c = some (p, e, g, t, cs, k) → (starved 2 ∧ c = 2) ∨ (¬ starved 2 ∧ starved 1 ∧ c = 1) ∨ (¬ starved 2 ∧ ¬ starved 1 ∧ ∀ b, c < b → b < 4 → ¬ can b) →
      dispatched (.taskDispatch d) d ∧ Completes (.taskDispatch d) s fun t' => ∀ b, b = 1 ∨ b = 2 → t'.bypassOf d b = if b = c then 0 else if b < c ∧ (s.servable d b).isSome = true then s.bypassOf d b + 1 else s.bypassOf d b) ∧
    ((∀ b, b < 4 → ¬ can b) → exec (.taskDispatch d) s = .next s) ∧
    (∀ r x, s.ready d c = e :: r → s.entryTask e = some (g, t) → t.cls ≠ 0 → t.policy = 0 ∨ t.policy = 3 → s.placeable d e = none → x ∈ s.diesOf g.part → x ≠ d →
      s.placeable x e = some (g, t, cs, k) → (∀ y ∈ s.diesOf g.part, y ≠ d → y ≠ x → (s.placeable y e).isSome = true → dieHops d x < dieHops d y ∨ (dieHops d x = dieHops d y ∧ x < y)) →
      dispatched (.taskOffer d c) x) ∧
    (∀ r, s.ready d c = e :: r → (s.placeable d e).isSome = true → exec (.taskOffer d c) s = .next s ∧ exec (.ballastKill d c) s = .next s) ∧
    (∀ r, s.ready d c = e :: r → s.entryTask e = some (g, t) → s.crowdedOut d g t = false → exec (.ballastKill d c) s = .next s) ∧
    (∀ r n b key th g' t' d' k', s.ready d c = e :: r → s.entryTask e = some (g, t) → t.cls ≠ 0 → s.crowdedOut d g t = true → s.holdsNeeded g.bank t [n] b n key th = true → s.placement d g.bank (fun x => x.cls != 0) t t.port = some ([n], b) →
      s.threadsOf n g.bank = [(key, th)] → s.thr? n key = some th → th.cls = 0 → s.graphOf th.gid = some g' → bf th.gid 0 32 = th.task → g'.tasks[th.task]? = some t' → t'.state = .dispatched d' [n] k' → key = 16 * g'.bank + k' → t'.bgrp = 0 →
      (th.ended = true → exec (.ballastKill d c) s = .next s) ∧ (th.ended = false → Completes (.ballastKill d c) s fun z => (∃ g2 u, z.graph? g'.die g'.part g'.num = some g2 ∧ g2.tasks[th.task]? = some u ∧ u.state = .killed) ∧ ∀ w, z.thr? n key = some w → w.ended = true ∧ w.out = [])) ∧
    (∀ gid n key u, s.graphOf gid = some g → g.tasks[bf gid 0 32]? = some t → t.bgrp = 0 → s.thr? n key = some u → u.gid = gid →
      (u.ended = false ∨ u.posted ≠ [] → exec (.taskEnd gid) s = .next s) ∧
      (u.ended = true → u.posted = [] → (∀ x ∈ s.cells, ∀ y ∈ x.2.slots, ∀ w, y.2 = some w → w.gid = gid → x.1 = n ∧ y.1 = key ∧ w = u) → (s.dieAt g.die).events.length < 4096 →
        Completes (.taskEnd gid) s fun z => z.thr? n key = none ∧ z.hbm = s.hbm ∧
          (∃ x, (z.dieAt g.die).events = (s.dieAt g.die).events ++ [x] ∧ x.w1 = gid ∧ x.kind = if t.state = .killed then 3#8 else 1#8) ∧
          ∃ g2 u2, z.graph? g.die g.part g.num = some g2 ∧ g2.tasks[bf gid 0 32]? = some u2 ∧ u2.state = if t.state = .killed then .killed else .done)) ∧
    (∀ r rest, (s.dieAt d).events = r :: rest → bf r.w1 32 1 = core →
      (r.kind ≠ 1#8 → r.kind ≠ 2#8 → r.kind ≠ 3#8 → s.fld 8 d 0x18 5 1 = 0 → Completes (.eventRecordProcess d core) s fun z => (z.dieAt d).events = rest ∧ z.reg 8 d 0x20 = s.reg 8 d 0x20 + 1#64 ∧ CellsSame s z) ∧
      (∀ j u m, r.kind = 1#8 → s.graphOf r.w1 = some g → g.taskev = false → g.tasks[bf r.w1 0 32]? = some t → t.succs = [j] → j ≠ bf r.w1 0 32 → g.tasks[j]? = some u → u.recorded = false → u.left = m + 1 →
        Completes (.eventRecordProcess d core) s fun z => (z.dieAt d).events = rest ∧ CellsSame s z ∧ ∃ g2 t2 u2, z.graph? g.die g.part g.num = some g2 ∧ g2.tasks[bf r.w1 0 32]? = some t2 ∧ t2.recorded = true ∧
          g2.tasks[j]? = some u2 ∧ u2.left = m ∧ (m ≠ 0 → u2.state = u.state) ∧ (m = 0 → u.state = .waiting → ∃ x, u2.state = .ready x u.cls)) ∧
      (r.kind = 1#8 ∨ r.kind = 2#8 ∨ r.kind = 3#8 → s.graphOf r.w1 = some g → bf r.w1 0 32 = 0 → g.tasks = [t] → t.succs = [] → Completes (.eventRecordProcess d core) s fun z => z.graph? g.die g.part g.num = none ∧
        (g.event = true → ∃ x ∈ (z.dieAt g.die).events, x.kind = 5#8 ∧ x.code = (if g.lostAny then 2#8 else 0#8) ∧ x.data = BitVec.ofNat 32 g.ndone))) ∧
    ((∀ r ∈ (s.dieAt d).events, bf r.w1 32 1 ≠ core) → exec (.eventRecordProcess d core) s = .next s) ∧
    (let gid := s.reg 8 d 0
     let result := fun (z : State) (r : Nat) => z.fld 8 d 0x10 0 4 = r ∧ z.fld 8 d 0x10 8 1 = 0
     let only := fun (z : State) => { z with regs := s.regs } = s
     (s.graphOf gid = none → ∀ j ∈ [Instr.cancel d, .kill d, .cancelgraph d], Completes j s fun z => result z 3 ∧ only z) ∧
     let busy := fun (z : State) => z.fld 8 d 0x10 8 1 = 1
     let live := (g.tasks.filter fun u => match u.state with | .waiting => true | .ready _ _ => true | _ => false).length
     let evs := (s.dieAt g.die).events.length
     (s.graphOf gid = some g → 4096 < evs + live → evs ≤ 4096 → Completes (.cancelgraph d) s fun z => busy z ∧ (z.dieAt g.die).events.length = 4096) ∧
     (s.graphOf gid = some g → evs + live ≤ 4096 → s.fld 8 d 0x10 8 1 = 0 → Completes (.cancelgraph d) s fun z => result z 0 ∧
       z.fld 8 d 0x10 32 32 = live % 2 ^ 32 ∧
       ∀ g2, z.graph? g.die g.part g.num = some g2 → ∀ u ∈ g2.tasks, u.state ≠ .waiting ∧ ∀ x y, u.state ≠ .ready x y) ∧
     (s.graphOf gid = some g → g.tasks[bf gid 0 32]? = some t → t.bgrp = 0 →
       (t.state = .waiting ∨ (∃ x y, t.state = .ready x y) → 4096 ≤ evs → ∀ j ∈ [Instr.cancel d, .kill d], Completes j s fun z => busy z ∧ only z) ∧
       (t.state = .waiting ∨ (∃ x y, t.state = .ready x y) → evs < 4096 → ∀ j ∈ [Instr.cancel d, .kill d], Completes j s fun z => result z 0 ∧ CellsSame s z ∧
         (∃ x, (z.dieAt g.die).events = (s.dieAt g.die).events ++ [x] ∧ x.kind = 2#8 ∧ x.w1 = s.gid g.die g.part g.num (bf gid 0 32)) ∧
         ∃ g2 u2, z.graph? g.die g.part g.num = some g2 ∧ g2.tasks[bf gid 0 32]? = some u2 ∧ u2.state = .cancelled) ∧
       (∀ x ks, t.state = .dispatched x cs ks → s.allDone g t = false → Completes (.cancel d) s fun z => result z 1 ∧ only z) ∧
       (∀ x ks, t.state = .dispatched x cs ks → s.allDone g t = true → ∀ j ∈ [Instr.cancel d, .kill d], Completes j s fun z => result z 2 ∧ only z) ∧
       (∀ x ks n u, t.state = .dispatched x [n] ks → s.thr? n (16 * g.bank + ks) = some u → u.ended = false → Completes (.kill d) s fun z => result z 4 ∧
         (∃ g2 u2, z.graph? g.die g.part g.num = some g2 ∧ g2.tasks[bf gid 0 32]? = some u2 ∧ u2.state = .killed) ∧ ∀ w, z.thr? n (16 * g.bank + ks) = some w → w.ended = true ∧ w.out = []) ∧
       (t.state.ended = true → ∀ j ∈ [Instr.cancel d, .kill d], Completes j s fun z => result z 2 ∧ only z)))

/-! ## Events: rings, collectives and replicas -/

/-- A call has ended at its rank with a code (R104): its ring has no call (but what other ranks have said of the next), and an event record says so where the block
asks for one; while the event queue has no room for that record the end is kept with its code (R141). -/
def Ended (t : State) (d : Nat) (c : Call) (code : Nat) : Prop :=
  ((∀ z, t.call? d c.part c.bank c.ring = some z → z.block = []) ∧
    (cbFlag c.block 2 = true → ∃ e ∈ (t.dieAt d).events, e.kind = 0x11#8 ∧ e.code = BitVec.ofNat 8 code ∧ e.data = BitVec.ofNat 32 (cbSeq c.block))) ∨
  (cbFlag c.block 2 = true ∧ 4096 ≤ (t.dieAt d).events.length ∧
    ∃ z k b cl, t.call? d c.part c.bank c.ring = some z ∧ z.block = c.block ∧ z.ending = some (k, b, cl) ∧ t.endCode c.part c.block k = code)

/-- No step of another call of a call's group has arrived at a die. -/
def NoStray (s : State) (d : Nat) (b : List Word) : Prop :=
  ∀ x ∈ (s.dieAt d).arrived, x.group = cbGroup b → x.cseq = cbSeq b ∧ x.op = cbOp b

/-- What the data steps of a call read of its SEND (R99, R103). -/
def SendRead (s : State) (d : Nat) (c : Call) (n rank : Nat) : State × Option (List (Nat × Bool)) :=
  let len := if cbOp c.block = 4 ∧ cbRoot c.block ≠ rank then 0 else cbSendLen c.block n
  (s.chargeRange d c.part (cbSend c.block) (len * cbItem c.block)).readItems c.part (cbSend c.block) (cbItem c.block) len

/-- The data steps of a call have begun: its elements are read. -/
def Begun (t : State) (d : Nat) (c : Call) (l : List (Nat × Bool)) : Prop :=
  ∃ z, t.call? d c.part c.bank c.ring = some z ∧ z.block = c.block ∧ z.started = true ∧ z.data = some l

/-- Rings looked at in turn (R144): the state after, and, in that order, those with work and those without. -/
def lookAll (d : Nat) : List (Nat × Nat × Nat) → State → State × List Ring × List Ring
  | [], s => (s, [], [])
  | k :: r, s => match s.ringLook d k.1 k.2.1 k.2.2 with
    | (s1, some (x, prod, cons)) =>
      if prod = cons then let z := lookAll d r (s1.setRing d { x with mapped := false }); (z.1, z.2.1, x :: z.2.2)
      else let z := lookAll d r s1; (z.1, x :: z.2.1, z.2.2)
    | (s1, none) => lookAll d r s1

/-- R104 to R106, R121, R144, R359: rings and collectives. A ring that gets work is mapped where one of 128 places is free; a tick unmaps the rings that the die serves no longer
and those without work, and maps those with work; a mapped ring is polled slot by slot; a collective call reads its group, is matched where matching is on, reads its
elements and finishes once every step that its shape takes has arrived, or ends with its code: 1 a bad field, 2 a mismatch, 3 no answer, 5 a failed translation; an engine's internal channel
sends the die's steps in their order, to another device as COPYDATA. How the shapes cut their steps, and how a packet names its call, is the model's choice (log 24). -/
def Obligations.RingsAndCollectives : Prop :=
  ∀ (s s1 : State) (d q ring rank prod cons e : Nat) (x : Ring) (c : Call) (cd : CallData) (gd : GrpD), d < 8 → q < 8 → ring < 64 → e < 6 →
    let b := s.ringBank q
    let served := (q, b, ring) ∈ s.ringsOn d
    let look := s.ringLook d q b ring
    (served → look = (s1, some (x, prod, cons)) →
      (prod ≠ cons → x.mapped = false → s1.mappedCount d < 128 → Completes (.ringGetsWork d q ring) s fun t => ∃ y, t.ring? d x.part x.bank x.num = some y ∧ y.mapped = true ∧ y.since = s1.now d) ∧
      (prod = cons ∨ x.mapped = true ∨ 128 ≤ s1.mappedCount d → exec (.ringGetsWork d q ring) s = .next s1)) ∧
    (¬ served → exec (.ringGetsWork d q ring) s = .next s) ∧
    (s.ringsOn d = [] → Completes (.ringRotationTick d) s fun t => ∀ y ∈ (t.dieAt d).rings, y.mapped = false) ∧
    (let z := lookAll d (s.ringsOn d) s
     (∀ y ∈ (s.dieAt d).rings, (y.part, y.bank, y.num) ∈ s.ringsOn d) → Completes (.ringRotationTick d) s fun t =>
      (∀ y ∈ z.2.1, ∃ w, t.ring? d y.part y.bank y.num = some w ∧ w.mapped = true ∧ w.since = if y.mapped then y.since else z.1.now d) ∧
      ∀ y ∈ z.2.2, ∃ w, t.ring? d y.part y.bank y.num = some w ∧ w.mapped = false) ∧
    (∀ y, s.ring? d q b ring = some x → x.mapped = true → s.running q = true → s.ringCheck d x = (s1, some (y, prod, cons)) →
      (prod = cons → bf x.d0 61 2 = 2 ∨ s1.call? d y.part y.bank y.num = none → exec (.ringPoll d q ring) s = .next s1) ∧
      (bf x.d0 61 2 = 2 → prod ≠ cons → ∀ s2 h, (s1.charge d q (slotVa y.d1.toNat (bf y.d0 56 5) cons) 128).engWords q (slotVa y.d1.toNat (bf y.d0 56 5) cons) 16 = (s2, .ok h) →
        let s3 := s2.admitGraph d y h
        (4096 < (s3.dieAt d).events.length → exec (.ringPoll d q ring) s = .next s1) ∧
        ((s3.dieAt d).events.length ≤ 4096 → exec (.ringPoll d q ring) s = .next ((s3.retireSlot d ((s3.ring? d q b ring).getD y) cons none).drainRing d q b ring (2 ^ 16 - 1)))) ∧
      (bf x.d0 61 2 ≠ 2 → s1.call? d y.part y.bank y.num = none → prod ≠ cons → ∀ s2 w s3, s1.slotOk y.part (slotVa y.d1.toNat (bf y.d0 56 5) cons) 128 = true →
        (s1.charge d y.part (slotVa y.d1.toNat (bf y.d0 56 5) cons) 128).engWords y.part (slotVa y.d1.toNat (bf y.d0 56 5) cons) 16 = (s2, .ok w) → w ≠ [] →
        let z : Call := { Call.init y.part y.bank y.num with block := w, cons := cons, slotVa := slotVa y.d1.toNat (bf y.d0 56 5) cons }
        (s2.readGroup d y.part (cbGroup w) = (s3, none) → Completes (.ringPoll d q ring) s fun t => Ended t d z 1) ∧
        (s2.readGroup d y.part (cbGroup w) = (s3, some gd) → s3.contrib d ∉ gd.mem ∨ cbOk w gd.mem.length = false → Completes (.ringPoll d q ring) s fun t => Ended t d z 1) ∧
        (s2.readGroup d y.part (cbGroup w) = (s3, some gd) → s3.contrib d ∈ gd.mem → cbOk w gd.mem.length = true → s3.dieReleased d = true → s3.matching y.part w = false → NoStray s3 d w →
          let r := SendRead (s3.setCall d { z with started := true }) d z gd.mem.length (gd.mem.idxOf (s3.contrib d))
          (∀ l, r.2 = some l → Completes (.ringPoll d q ring) s fun t => Begun t d z l) ∧ (r.2 = none → Completes (.ringPoll d q ring) s fun t => Ended t d z 5)))) ∧
    (∀ h n ts, s.checkGraph d q h = (s1, .ok (ts, n)) → x.part = q →
      ∃ g, (s.admitGraph d x h).graph? d q n = some g ∧ g.compl = h.getD 3 0#64 ∧ g.arg = h.getD 2 0#64 ∧ g.ndone = 0 ∧ g.tasks.length = ts.length) ∧
    (∀ s0, Arrives s 0x48 s0 →
      let y := (s0.call? d q (s0.bankOf q) ring).getD (Call.init q (s0.bankOf q) ring)
      let z := { y with heard := y.heard.filter (fun h => h.1 != rank) ++ [(rank, cd)] }
      let k := s0.setCall d z
      (y.block = [] ∨ y.started = false ∨ y.ending ≠ none → Completes (.callPacket d q ring rank cd) s fun t => t.call? d q (s0.bankOf q) ring = some z) ∧
      (∀ s2, y.block ≠ [] → y.started = true → y.data = none → y.ending = none → s2.matching q y.block = true → k.readGroup d q (cbGroup y.block) = (s2, some gd) → (∀ i, 0 < i → i < gd.mem.length → ∃ h ∈ z.heard, h.1 = i) →
        ((∃ h ∈ z.heard, h.2 ≠ cbData y.block) → Completes (.callPacket d q ring rank cd) s fun t => Ended t d y 2 ∧ ∀ m ∈ gd.mem.drop 1, ∃ p ∈ (t.txOf (m / 8) false).unacked ++ (t.txOf (m / 8) false).waiting, p.kind = 0x4A#8) ∧
        ((∀ h ∈ z.heard, h.2 = cbData y.block) → cbSendLen y.block gd.mem.length = 0 → Completes (.callPacket d q ring rank cd) s fun t => Begun t d y [] ∧
          ∀ m ∈ gd.mem.drop 1, ∃ p ∈ (t.txOf (m / 8) false).unacked ++ (t.txOf (m / 8) false).waiting, p.kind = 0x49#8))) ∧
    (∀ s0, Arrives s 0x49 s0 →
      (s0.callNow d q ring = none → exec (.go d q ring) s = .next s0) ∧
      (s0.callNow d q ring = some c → c.started = true → c.data = none → c.ending = none → s1.matching q c.block = true → s0.readGroup d q (cbGroup c.block) = (s1, some gd) →
        let r := SendRead s1 d c gd.mem.length (gd.mem.idxOf (s0.contrib d))
        (∀ l, r.2 = some l → Completes (.go d q ring) s fun t => Begun t d c l) ∧ (r.2 = none → Completes (.go d q ring) s fun t => Ended t d c 5))) ∧
    (∀ s0, Arrives s 0x4A s0 →
      (s0.callNow d q ring = none → exec (.mismatch d q ring) s = .next s0) ∧
      (s0.callNow d q ring = some c → c.started = true → c.data = none → c.ending = none → Completes (.mismatch d q ring) s fun t => Ended t d c 2)) ∧
    (s.callNow d q ring = some c →
      (c.data = none → c.ending = none → exec (.collectiveComplete d q ring) s = .next s) ∧
      (∀ k n cl, c.ending = some (k, n, cl) → Completes (.collectiveComplete d q ring) s fun t => Ended t d c (s.endCode q c.block k)) ∧
      (c.started = false ∨ c.ending ≠ none → exec (.collectivePeerTimeout d q ring) s = .next s) ∧
      (c.started = true → c.ending = none → s.readGroup d q (cbGroup c.block) = (s1, none) → Completes (.collectivePeerTimeout d q ring) s fun t => Ended t d c 3) ∧
      (c.started = true → c.ending = none → s.readGroup d q (cbGroup c.block) = (s1, some gd) →
        (s1.waitsPeer d c gd = true → Completes (.collectivePeerTimeout d q ring) s fun t => Ended t d c 3) ∧
        (s1.waitsPeer d c gd = false → exec (.collectivePeerTimeout d q ring) s = .next s1)) ∧
      (∀ l, c.data = some l → c.ending = none → s.readGroup d c.part (cbGroup c.block) = (s1, some gd) →
        let z := cbItem c.block
        let run := callRun c.block gd.mem.length (gd.mem.idxOf (s.contrib d)) l (s1.stepsAt d c gd.mem)
        (s1.differs d c gd.mem = true → Completes (.collectiveComplete d q ring) s fun t => Ended t d c 2) ∧
        (s1.differs d c gd.mem = false → run.out = none → exec (.collectiveComplete d q ring) s = .next s1) ∧
        (∀ out, s1.differs d c gd.mem = false → run.out = some out →
          let w := (s1.chargeRange d c.part (cbRecv c.block) (z * out.length)).writeItems c.part (cbRecv c.block) z out.length (out.map (·.v))
          (w.2.2 = true → Completes (.collectiveComplete d q ring) s fun t => Ended t d c (w.1.endCode c.part c.block (if out.any (·.p) then 4 else 0))) ∧
          (w.2.2 = false → Completes (.collectiveComplete d q ring) s fun t => Ended t d c 5)))) ∧
    ((s.dieAt d).steps = [] ∨ s.engTurn d e 4 = false → exec (.copyPacketSend d (24 + e)) s = .next s) ∧
    (∀ y r, (s.dieAt d).steps = y :: r → s.engTurn d e 4 = true →
      (y.dest / 8 ≠ s.devId → Completes (.copyPacketSend d (24 + e)) s fun t => (t.dieAt d).steps = r ∧ t.cells = s.cells ∧ t.hbm = s.hbm ∧
        ∃ p ∈ (t.txOf (y.dest / 8 % 2 ^ 11) false).unacked ++ (t.txOf (y.dest / 8 % 2 ^ 11) false).waiting, p.kind = 0x20#8 ∧ p.pay.getD 0 0#64 = y.ctrl ∧ p.pay.getD 1 0#64 = stepCompl y.cseq y.op y.group) ∧
      (y.dest / 8 = s.devId → y.dest % 8 ≠ d → (∀ k ∈ (s.dieAt (y.dest % 8)).calls, k.data = none ∨ cbGroup k.block ≠ y.group) → Completes (.copyPacketSend d (24 + e)) s fun t =>
        (t.dieAt d).steps = r ∧ t.cells = s.cells ∧ t.hbm = s.hbm ∧ ∃ a, (t.dieAt (y.dest % 8)).arrived = (s.dieAt (y.dest % 8)).arrived ++ [a] ∧ a.src = s.contrib d ∧ a.stage = y.stage ∧
          a.first = y.first ∧ a.items = y.items ∧ a.last = y.last ∧ a.cseq = y.cseq ∧ a.op = y.op ∧ a.group = y.group)) ∧
    (∀ (b : List Word) (send : List (Nat × Bool)) (inn : StepsIn), cbAlgo b = 3 →
      (callRun b 1 0 send inn).out = some (cbOwn b 1 0 (cbFinal b (send.map (cbEnter b)))) ∧
      (∀ x, inn 1 0 = some x → let all := cbFinal b (cbJoin b (send.map (cbEnter b)) x)
        (callRun b 2 0 send inn).out = some (cbOwn b 2 0 all) ∧ (callRun b 2 0 send inn).sends.map (fun y => (y.dst, y.items)) = [(1, all)]) ∧
      (inn 1 0 = none → (callRun b 2 0 send inn).out = none ∧ (callRun b 2 0 send inn).sends.map (·.dst) = []))

/-- A message that is cut into `n` packets of a kind has arrived whole, and the machine is `t` once its stream has taken them (R91). -/
def ArrivesWhole (s : State) (k n : Nat) (t : State) : Prop := ∀ f, s.onCut k n f = f t

/-- R83, R87, R88, R90 to R94, R96: replicas on their own. A delta within its limits joins its group, the tiles that one die ships with the same PARTS, and the next group of its contributor is applied, one ahead is held, one seen before, one too early
and one out of bounds are counted; incomplete parts are dropped after their time; a round seals the open groups and sends a digest; a digest moves HEARD and is answered; F rises to the least of the live rows;
groups at or below F fold into BASE; a donor's state is taken aside, and switched to in one step; a die that lost its state goes on from the numbers it has heard of.
At its first use of a group HEARD stands at the die's HLC. How a die finds that it lost its state, and which use is the first, are read from R93 and R94 by inference (log 23). -/
def Obligations.ReplicaEvents : Prop :=
  ∀ (s s0 s1 : State) (d q obj g contrib seq tile np : Nat) (o : ObjD) (gd : GrpD) (u : DeltaTile) (data : List Byte) (m : Digest) (x : DonorState), d < 8 → q < 8 →
    let count := fun (t : State) (o : Nat) => t.reg 4 d (0x40 * q + o) = s0.reg 4 d (0x40 * q + o) + 1#64
    let held := fun (t : State) (obj : Nat) (P : Replica → Prop) => ∃ r, t.heldRepl d q obj = some r ∧ P r
    let me := s1.contrib d
    let told := fun (t : State) (c : Nat) => ∃ p ∈ (t.txOf (c / 8) false).unacked ++ (t.txOf (c / 8) false).waiting, p.kind = 0x40#8
    (Arrives s 0x41 s0 →
      let G : DeltaGroup := { contrib := u.contrib, seq := u.seq, tiles := [u] }
      let src := s.heldSrc 0x41
      let P : PartSet := { src := src.1, parts := u.parts, group := G, last := (src.2, u.tile) }
      (s0.readObj d q u.obj = (s1, none) → Completes (.delta d q u) s fun t => count t 0x20) ∧
      (s0.readObj d q u.obj = (s1, some (o, gd)) →
        let r := (s1.useGroup d q o.group gd).repl d q u.obj o
        let alone := ∀ y ∈ r.parts, y.same P = false
        let whole := s.heldBad 0x41 = false ∧ o.fits gd u = true ∧ u.parts = 1 ∧ u.data.length = u.dlen ∧ o.recsOk G = true ∧ alone
        (s.heldBad 0x41 = true ∨ o.fits gd u = false ∨ o.tileOk u = false → Completes (.delta d q u) s fun t => count t 0x20 ∧ t.dies = s1.dies) ∧
        (whole → o.ready r G = true → r.held = [] → Completes (.delta d q u) s fun t => held t u.obj fun z =>
          z.log = r.log ++ [G] ∧ z.seenOf u.contrib = u.seq ∧ z.held = [] ∧ z.opened = r.opened ∧ z.next = r.next ∧ z.base = r.base ∧ z.front = r.front) ∧
        (whole → u.seq ≤ r.seenOf u.contrib → Completes (.delta d q u) s fun t => count t 0x28 ∧ held t u.obj fun z => z.log = r.log ∧ z.held = r.held ∧ z.seen = r.seen) ∧
        (whole → r.seenOf u.contrib < u.seq → r.held = [] → o.ready r G = false →
          (r.inUse + groupCost [u] + 8320 ≤ 4096 * o.plog → Completes (.delta d q u) s fun t => held t u.obj fun z => z.log = r.log ∧ z.held = [G] ∧ z.seen = r.seen) ∧
          (4096 * o.plog < r.inUse + groupCost [u] + 8320 → Completes (.delta d q u) s fun t => count t 0x30 ∧ held t u.obj fun z => z.log = r.log ∧ z.held = [] ∧ z.seen = r.seen)) ∧
        (s.heldBad 0x41 = false → o.fits gd u = true → o.tileOk u = true → alone → u.parts ≠ 1 ∨ u.data.length ≠ u.dlen → Completes (.delta d q u) s fun t => held t u.obj fun z =>
          z.parts = r.parts ++ [P] ∧ z.log = r.log ∧ z.seen = r.seen))) ∧
    (Arrives s 0x42 s0 → s0.readObj d q obj = (s1, none) →
      ((s1.heldRepl d q obj).bind (·.partOf (s.heldSrc 0x42) contrib seq tile) = none → exec (.deltac d q obj contrib seq tile data) s = .next s1) ∧
      (((s1.heldRepl d q obj).bind (·.partOf (s.heldSrc 0x42) contrib seq tile)).isSome = true → Completes (.deltac d q obj contrib seq tile data) s fun t => count t 0x20 ∧ t.dies = s1.dies)) ∧
    (Arrives s 0x42 s0 → s0.readObj d q obj = (s1, some (o, gd)) →
      let r := s1.repl d q obj o
      let w := { u with data := u.data ++ data }
      let G : DeltaGroup := { contrib := contrib, seq := seq, tiles := [w] }
      let src := s.heldSrc 0x42
      let P : PartSet := { src := src.1, parts := np, group := { contrib := contrib, seq := seq, tiles := [u] }, last := (if src.1 = 0 then 0#16 else src.2 - 1#16, tile) }
      (r.partOf src contrib seq tile = none → exec (.deltac d q obj contrib seq tile data) s = .next s1) ∧
      (r.parts = [P] → u.tile = tile →
        (s.heldBad 0x42 = true ∨ u.dlen < u.data.length + data.length ∨ o.tileOk w = false → Completes (.deltac d q obj contrib seq tile data) s fun t => count t 0x20 ∧
          held t obj fun z => z.parts = [] ∧ z.log = r.log) ∧
        (s.heldBad 0x42 = false → u.data.length + data.length < u.dlen → Completes (.deltac d q obj contrib seq tile data) s fun t => held t obj fun z => z.parts = [{ P with group := G }] ∧ z.log = r.log) ∧
        (s.heldBad 0x42 = false → u.data.length + data.length = u.dlen → np = 1 → o.tileOk w = true → o.ready r G = true → r.held = [] → Completes (.deltac d q obj contrib seq tile data) s fun t => held t obj fun z =>
          z.parts = [] ∧ z.log = r.log ++ [G] ∧ z.seenOf contrib = seq))) ∧
    (s.readObj d q obj = (s1, some (o, gd)) →
      let r := s1.repl d q obj o
      let below := fun (y : DeltaGroup) => decide (y.seq ≤ r.frontOf y.contrib)
      Completes (.deltaPartsTimeout d q obj contrib seq) s (fun t => held t obj fun z => z.parts = r.parts.filter (fun y => !(y.group.contrib == contrib && y.group.seq == seq)) ∧ z.log = r.log ∧ z.seen = r.seen) ∧
      Completes (.groupFold d q obj) s (fun t => held t obj fun z => z.log = r.log.filter (fun y => !below y) ∧ z.base = (r.log.filter below).foldl o.fold r.base ∧ z.seen = r.seen ∧ z.front = r.front) ∧
      (r.shadow = none → exec (.rejoinSwitch d q obj) s = .next s1) ∧
      (r.shadow = some x → r.behind x = false → Completes (.rejoinSwitch d q obj) s fun t => held t obj fun z => z = { r with shadow := none }) ∧
      (r.shadow = some x → r.behind x = true → r.held = [] → x.sender < 2 ^ 14 → Completes (.rejoinSwitch d q obj) s fun t => told t x.sender ∧ held t obj fun z => z.shadow = none ∧ z.base = x.base ∧
        (∀ y ∈ x.log, y ∈ z.log) ∧ (∀ y ∈ r.own, tget (fun _ => 0) x.seen me < y.seq → y ∈ z.log) ∧ z.front = x.front ∧ z.opened = r.opened ∧ r.next ≤ z.next ∧ tget (fun _ => 0) x.seen me < z.next)) ∧
    (s.readObj d q obj = (s1, none) → ∀ i ∈ [Instr.deltaPartsTimeout d q obj contrib seq, .groupFold d q obj, .rejoinSwitch d q obj], exec i s = .next s1) ∧
    (ArrivesWhole s 0x43 (cutsOf (donorWords x).length) s0 → s0.readObj d q x.obj = (s1, some (o, gd)) →
      let r := s1.repl d q x.obj o
      (r.shadow = none → x.sender ∈ gd.mem → r.behind x = true → Completes (.donor d q x) s fun t => held t x.obj fun z => z.shadow = some x ∧ z.log = r.log ∧ z.base = r.base ∧ z.seen = r.seen) ∧
      (r.shadow.isSome = true ∨ x.sender ∉ gd.mem ∨ r.behind x = false → exec (.donor d q x) s = .next s1)) ∧
    (s.readGroup d q g = (s1, some gd) → me ∈ gd.mem →
      let y := s1.useGroup d q g gd
      let v := y.view d q g gd
      let out := gd.slots.filter fun k => v.out.contains k || y.absent d gd v k
      let live := y.live d gd { v with out := out }
      let V := y.setView d { v with rounds := v.rounds + 1 }
      let F := y.setView d { v with out := out }
      let l := y.setView d { v with lost := false, first := none }
      let L := l.setDie d { l.dieAt d with gone := (l.dieAt d).gone.filter (· != (q, g)) }
      ((∀ w ∈ (s1.dieAt d).views, w.part = q → w.group ≠ g) → ∀ k, k < gd.mem.length → tget (fun _ => 0#64) v.heard k = y.reg 4 d 0x400) ∧
      (∀ i s2, F.declared d q g = (s2, [(i, o)]) → let r := s2.repl d q i o
        Completes (.frontierUpdate d q g) s fun t => (t.view d q g gd).out = out ∧ held t i fun z => z.log = r.log ∧ z.seen = r.seen ∧ z.base = r.base ∧
          ∀ c ∈ gd.mem, ∀ n, n ≤ z.frontOf c ↔ n ≤ r.frontOf c ∨ ∀ k ∈ live, n ≤ if gd.mem.getD k 0 = me then r.seenOf c else r.rowOf k c) ∧
      (∀ i s2, V.declared d q g = (s2, [(i, o)]) → let r := s2.repl d q i o
        Completes (.gossipRound d q g) s fun t => (t.view d q g gd).rounds = v.rounds + 1 ∧
          (∀ k, y.partner d gd { v with rounds := v.rounds + 1 } = some k → (t.view d q g gd).asked = [k] ∧ told t (gd.mem.getD k 0)) ∧
          (r.opened ≠ [] → r.spent = false → held t i fun z => z.opened = [] ∧ z.next = r.next + 1 ∧ z.seenOf me = r.next ∧ ∃ G, z.log = r.log ++ [G] ∧ G.contrib = me ∧ G.seq = r.next ∧
            G.tiles.map (·.data) = r.opened.map (·.data))) ∧
      (v.lost = false → exec (.resetRejoin d q g) s = .next y) ∧
      (∀ i s2 c, v.lost = true → v.first = some c → c < 2 ^ 14 → L.declared d q g = (s2, [(i, o)]) → let r := s2.repl d q i o
        Completes (.resetRejoin d q g) s fun t => (t.view d q g gd).lost = false ∧ told t c ∧ held t i fun z => z.log = r.log ∧ r.next ≤ z.next ∧ ∀ k ∈ gd.slots, r.rowOf k me < z.next)) ∧
    (ArrivesWhole s 0x40 (cutsOf (digestWords m).length) s0 → s0.readGroup d q m.group = (s1, some gd) → me ∈ gd.mem →
      let v := (s1.useGroup d q m.group gd).view d q m.group gd
      let b := gd.mem.idxOf m.sender
      (m.sender ∉ gd.mem ∨ m.sender = me → exec (.digest d q m) s = .next s1) ∧
      (m.sender ∈ gd.mem → m.sender ≠ me → Completes (.digest d q m) s fun t => tget (fun _ => 0#64) (t.view d q m.group gd).heard b = m.hlc ∧
        (b ∉ v.asked → told t m.sender) ∧ b ∉ (t.view d q m.group gd).asked))

/-! ## Events: translation, the host, the mailbox -/

/-- An aligned word of HBM on a line that is filled, not poisoned, of the partition's own key, on a link that is up, with no injection armed. -/
def Plain (s : State) (q a : Nat) : Prop :=
  a % 8 = 0 ∧ (s.lineOf a).unfilled = none ∧ (s.lineOf a).poison = false ∧ s.tagBad (s.keyOf q) a = false ∧ s.fld 11 0 0x808 3 1 = 0 ∧
  s.fld 2 0 (0x1000 * (a / 2 ^ 36) + 8) 2 1 = 0

/-- A frame that is given up is free again in the partition's pool and zero-filled, where it is aligned in HBM and does not hold the pool, and the pool's bytes for it are plain (R230, R231, R234). -/
def Freed (s t : State) (q h n : Nat) : Prop :=
  h % n = 0 → h + n ≤ 2 ^ 40 → (∀ b, h ≤ b → b < h + n → b / 2 ^ 21 ≠ s.fld 10 0 (0x40 * q + 8) 21 19) →
    (∀ b, h ≤ b → b < h + n → t.seenByte b = 0#8) ∧
    ((∀ i, i < n / 65536 → Plain s q (s.poolByte q (h / 2 ^ 36) (h % 2 ^ 36 / 65536 + i) / 8 * 8)) → ∀ i, i < n / 65536 → t.frameFree q (h / 2 ^ 36) (h % 2 ^ 36 / 65536 + i) = true)

/-- R230, R231, R236: translation commands. A command is refused while one is in progress; FLUSH ends at once; every other one ends with FIELD (1) on a bad field, NOTMAPPED (3) where the
page has no leaf of its size (that one of another size counts as none is the model's reading, log 43), and has its effect on the leaf otherwise: MAP writes it, with a zero-filled frame that it finds or is given,
or a host frame, UNMAP clears V and zero-fills and frees the frame, PROTECT sets the rights, PIN and UNPIN the PIN bit, MOVE starts a move. UNMAP and PROTECT wait until the accesses translated through the entry have
performed. -/
def Obligations.TranslationCommands : Prop :=
  ∀ (s : State) (q a : Nat) (e v : Word), q < 8 →
    let o := 0x40 * q
    let arg := s.reg 10 0 (o + 0x20)
    let va := 65536 * s.fld 10 0 (o + 0x18) 16 41
    let z := s.fld 10 0 (o + 0x18) 0 2
    let n := pageBytes z
    let x := fun (op : Nat) => ({ op := op, va := va, size := z, arg := arg, flushed := none } : XCmd)
    let done := fun (t : State) (r : Nat) => t.fld 10 0 (o + 0x30) 0 4 = r ∧ t.fld 10 0 (o + 0x30) 8 1 = 0 ∧ (t.partAt q).xcmd = none
    let free := s.fld 10 0 (o + 0x30) 8 1 = 0
    let B := fun (op : Nat) => let y := s.setFld 10 0 (o + 0x30) 8 1 1; y.setPart q { y.partAt q with xcmd := some (x op) }
    let ready := fun (op : Nat) => free ∧ (B op).xfield q (x op) = false ∧ s.moveOf q va = none
    let leaf := fun (op : Nat) => (B op).leafOf q va z = some (a, e)
    let frame := entAddr e / n * n
    let fly := s.inFlight (e.getLsbD 56) frame n true
    let pool := s.fld 10 0 (o + 8) 21 19
    let mapped := fun (h : Nat) => Completes (.map q) s fun t => done t 0 ∧
      (t.partAt q).moves = (s.partAt q).moves ++ [{ va := va, size := z, leaf := a, old := none, new := h, stalled := false, isCmd := false }] ∧
      (∀ b, h ≤ b → b < h + n → b / 64 ≠ a / 64 → t.seenByte b = 0#8) ∧ (Plain s q a → (a < h ∨ h + n ≤ a) → t.seenWord q a = xleaf arg h true)
    let given := 65536 * bf arg 16 36
    let usable := given < 2 ^ 40 ∧ s.dieIn q (given / 2 ^ 37) = true ∧ (B 1).runFree q (given / 2 ^ 36) (given % 2 ^ 36 / 65536) (n / 65536) = true
    (s.fld 10 0 (o + 0x30) 8 1 = 1 → ∀ i ∈ [Instr.map q, .unmap q, .protect q, .move q, .pin q, .unpin q, .flush q], Completes i s fun t =>
      t.fld 10 0 (o + 0x30) 9 1 = 1 ∧ CellsSame s t ∧ t.parts = s.parts ∧ RefusalRecorded s t 10 0 (o + 0x28)) ∧
    (free → Completes (.flush q) s fun t => done t 0 ∧ CellsSame s t) ∧
    (free → ∀ i ∈ [(1, Instr.map q), (2, .unmap q), (3, .protect q), (4, .move q), (5, .pin q), (6, .unpin q)], (B i.1).xfield q (x i.1) = true → Completes i.2 s fun t => done t 1 ∧ CellsSame s t) ∧
    (∀ i ∈ [(2, Instr.unmap q), (3, .protect q), (4, .move q), (5, .pin q), (6, .unpin q)], ready i.1 → (B i.1).leafOf q va z = none → Completes i.2 s fun t => done t 3 ∧ CellsSame s t) ∧
    (ready 5 → leaf 5 → Completes (.pin q) s fun t => done t 0 ∧ (Plain s q a → t.seenWord q a = bset e 57 1 1)) ∧
    (ready 6 → leaf 6 → Completes (.unpin q) s fun t => done t 0 ∧ (Plain s q a → t.seenWord q a = bset e 57 1 0)) ∧
    (ready 3 → leaf 3 → Completes (.protect q) s fun t => (Plain s q a → t.seenWord q a = bset e 58 4 (bf arg 58 4)) ∧ (fly = false → done t 0) ∧
      (fly = true → t.fld 10 0 (o + 0x30) 8 1 = 1 ∧ (t.partAt q).xcmd = some { x 3 with flushed := some (e.getLsbD 56, frame, n) })) ∧
    (ready 2 → leaf 2 → Completes (.unmap q) s fun t => (fly = true → (Plain s q a → t.seenWord q a = bset e 63 1 0) ∧ t.fld 10 0 (o + 0x30) 8 1 = 1 ∧
      (t.partAt q).xcmd = some { x 2 with flushed := some (e.getLsbD 56, frame, n) }) ∧
      (fly = false → done t 0 ∧ (e.getLsbD 56 = false → Freed s t q frame n) ∧
        (Plain s q a → e.getLsbD 56 = true ∨ ((a < frame ∨ frame + n ≤ a) ∧ a / 2 ^ 21 ≠ pool ∧ frame + n ≤ 2 ^ 40) → t.seenWord q a = bset e 63 1 0))) ∧
    (ready 4 → leaf 4 →
      (z = 2 ∨ e.getLsbD 56 = true → Completes (.move q) s fun t => done t 1 ∧ CellsSame s t) ∧
      (z ≠ 2 → e.getLsbD 56 = false → e.getLsbD 57 = true → Completes (.move q) s fun t => done t 5 ∧ CellsSame s t) ∧
      (z ≠ 2 → e.getLsbD 56 = false → e.getLsbD 57 = false → (B 4).meetsReplica q va n = false → (B 4).meetsChannel frame n = false →
        ((B 4).frameOn q (bf arg 52 3) z = none → Completes (.move q) s fun t => done t 2 ∧ CellsSame s t ∧ t.fld 10 0 (o + 0x38) 0 32 = (s.fld 10 0 (o + 0x38) 0 32 + 1) % 2 ^ 32) ∧
        (∀ h, (B 4).frameOn q (bf arg 52 3) z = some h → Completes (.move q) s fun t => t.fld 10 0 (o + 0x30) 8 1 = 1 ∧
          (t.partAt q).moves = (s.partAt q).moves ++ [{ va := va, size := z, leaf := a, old := some frame, new := h, stalled := true, isCmd := true }]))) ∧
    (ready 1 →
      ((B 1).entrySlot q va z = .noTable → Completes (.map q) s fun t => done t 6 ∧ CellsSame s t) ∧
      ((B 1).entrySlot q va z = .larger → Completes (.map q) s fun t => done t 4 ∧ CellsSame s t) ∧
      ((B 1).entrySlot q va z = .at_ a → ((B 1).seenWord q a).getLsbD 63 = true → Completes (.map q) s fun t => done t 4 ∧ CellsSame s t) ∧
      ((B 1).entrySlot q va z = .at_ a → ((B 1).seenWord q a).getLsbD 63 = false →
        (arg.getLsbD 63 = false → arg.getLsbD 62 = true → Completes (.map q) s fun t => done t 0 ∧ (Plain s q a → t.seenWord q a = xleaf arg (65536 * bf arg 16 36) false)) ∧
        (arg.getLsbD 63 = true → (B 1).frameOn q (bf arg 52 3) z = none → Completes (.map q) s fun t => done t 2 ∧ CellsSame s t) ∧
        (arg.getLsbD 63 = false → arg.getLsbD 62 = false → usable → mapped given) ∧
        (arg.getLsbD 63 = false → arg.getLsbD 62 = false → ¬ usable → Completes (.map q) s fun t => done t 7 ∧ CellsSame s t) ∧
        (∀ h, arg.getLsbD 63 = true → (B 1).frameOn q (bf arg 52 3) z = some h → mapped h))) ∧
    ((s.partAt q).xcmd = none → exec (.xcmdComplete q) s = .next s) ∧
    (∀ y hs fa fn, (s.partAt q).xcmd = some y → y.flushed = some (hs, fa, fn) → y.op ≠ 4 →
      (s.inFlight hs fa fn true = true → exec (.xcmdComplete q) s = .next s) ∧
      (s.inFlight hs fa fn true = false → Completes (.xcmdComplete q) s fun t => done t 0 ∧
        (y.op = 2 → hs = false → fn = pageBytes y.size → s.moveOf q y.va = none → Freed s t q fa fn))) ∧
    (writeBad 10 o v = true → Completes (.ptrootWrite q v) s fun t => CellsSame s t ∧ t.reg 10 0 o = s.reg 10 0 o ∧ RefusalRecorded s t 10 0 o) ∧
    (writeBad 10 o v = false → Completes (.ptrootWrite q v) s fun t => CellsSame s t ∧ t.fld 10 0 o 20 20 = bf v 20 20 ∧ t.fld 10 0 o 0 1 = bf v 0 1)

/-- R232 to R236: placement and page moves. At the end of an interval the counts start again and a page that qualifies starts to move to the die that wants it; its translations stall until the
accesses through the old entry have performed; then the entry names the new frame, whose lines take their contents from the old one, line by line, and at the end MOVING is clear and the old frame
zero-filled and free again. -/
def Obligations.PageMoves : Prop :=
  ∀ (s : State) (q : Nat) (va : Word) (m : PageMove), q < 8 →
    let o := 0x40 * q
    let n := pageBytes m.size
    let here := s.moveOf q va.toNat = some m
    (s.fld 10 0 (o + 0x10) 0 1 = 0 → Completes (.placementInterval q) s fun t => (t.partAt q).counts = [] ∧ (t.partAt q).moves = (s.partAt q).moves ∧ CellsSame s t) ∧
    (∀ h d c, s.fld 10 0 (o + 0x10) 0 1 = 1 → s.hotPages q = [h] → h.wants (max 1 (s.fld 10 0 (o + 0x10) 16 16)) = some (d, c) → s.dieIn q d = true → s.mayMove q h = true →
      ((s.setPart q { s.partAt q with counts := [] }).placeOn q d h.size = none → Completes (.placementInterval q) s fun t => (t.partAt q).counts = [] ∧ (t.partAt q).moves = (s.partAt q).moves ∧
        t.fld 10 0 (o + 0x38) 0 32 = (s.fld 10 0 (o + 0x38) 0 32 + 1) % 2 ^ 32) ∧
      (∀ f, (s.setPart q { s.partAt q with counts := [] }).placeOn q d h.size = some f → Completes (.placementInterval q) s fun t => (t.partAt q).counts = [] ∧ (t.partAt q).moves = (s.partAt q).moves ++
        [{ va := h.va, size := h.size, leaf := h.leaf, old := some h.frame, new := f, stalled := true, isCmd := false }])) ∧
    (s.moveOf q va.toNat = none → ∀ i ∈ [Instr.pageMoveSwitch q va, .backgroundFill q va, .pageMoveFinish q va], exec i s = .next s) ∧
    (∀ f, here → m.old = some f → m.va = va.toNat → m.stalled = true →
      (s.inFlight false f n false = true → exec (.pageMoveSwitch q va) s = .next s) ∧
      (s.inFlight false f n false = false → Completes (.pageMoveSwitch q va) s fun t => t.moveOf q va.toNat = some { m with stalled := false } ∧
        (∀ i, i < n / 64 → m.leaf / 64 ≠ m.new / 64 + i → (t.lineOf (64 * (m.new / 64 + i))).unfilled = some (.copy (f / 64 + i))) ∧
        (Plain s q m.leaf → (m.leaf < m.new / 64 * 64 ∨ m.new + n ≤ m.leaf) → t.seenWord q m.leaf = W ((s.seenWord q m.leaf).toNat - 256 * bf (s.seenWord q m.leaf) 8 44 + 256 * (m.new / 256))) ∧
        (m.isCmd = true → t.fld 10 0 (o + 0x30) 8 1 = 0 ∧ t.fld 10 0 (o + 0x30) 0 4 = 0))) ∧
    (here → m.stalled = true → ∀ i ∈ [Instr.backgroundFill q va, .pageMoveFinish q va], exec i s = .next s) ∧
    (here → m.stalled = false → s.rehashing m.new = false → (∀ f, m.old = some f → s.rehashing f = false) →
      (∀ i, s.anyUnfilled m.new n = some i → Completes (.backgroundFill q va) s fun t => (t.lineOf (m.new + 64 * i)).unfilled = none ∧ t.cells = s.cells ∧
        (m.new % 64 = 0 → ((s.lineOf (m.new + 64 * i)).unfilled = some .zero → ∀ j, j < 64 → t.hbmByte (m.new + 64 * i + j) = 0#8) ∧
          ∀ l, (s.lineOf (m.new + 64 * i)).unfilled = some (.copy l) → (s.lineOf (64 * l)).unfilled = none → (∀ j, j < 64 → t.hbmByte (m.new + 64 * i + j) = s.hbmByte (64 * l + j)) ∧
            (Plain s q (64 * l) → t.lineOf (m.new + 64 * i) = s.lineOf (64 * l))) ∧
        ∀ x, x / 64 ≠ (m.new + 64 * i) / 64 → t.hbmByte x = s.hbmByte x ∧
          ((∀ l, (s.lineOf (m.new + 64 * i)).unfilled = some (.copy l) → x / 64 ≠ l) → t.lineOf x = s.lineOf x)) ∧
      (s.anyUnfilled m.new n = none → exec (.backgroundFill q va) s = .next s)) ∧
    (here → m.stalled = false → (s.anyUnfilled m.new n).isSome = true → exec (.pageMoveFinish q va) s = .next s) ∧
    (here → m.va = va.toNat → m.stalled = false → s.anyUnfilled m.new n = none → Completes (.pageMoveFinish q va) s fun t => t.moveOf q va.toNat = none ∧ t.cells = s.cells ∧
      (Plain s q m.leaf → (∀ f, m.old = some f → (m.leaf < f ∨ f + n ≤ m.leaf) ∧ m.leaf / 2 ^ 21 ≠ s.fld 10 0 (o + 8) 21 19 ∧ f + n ≤ 2 ^ 40) →
        t.seenWord q m.leaf = bset (s.seenWord q m.leaf) 7 1 0) ∧
      (∀ f, m.old = some f → Freed s t q f n) ∧
      (m.old ≠ none → t.fld 10 0 (o + 0x38) 32 32 = (s.fld 10 0 (o + 0x38) 32 32 + 1) % 2 ^ 32))

/-- A plain register takes a value written: its fields of read and write the bits, its clearing fields a one as a zero (R6). -/
def Stored (s t : State) (b i o : Nat) (m : RegMask) (v : Word) : Prop :=
  t.reg b i o = ((s.reg b i o &&& ~~~ W m.rw) ||| (v &&& W m.rw)) &&& ~~~ (v &&& W m.w1c) ∧ { t with regs := s.regs } = s

/-- R6, R20 to R23, R113, R115, R119, R120, R122, R123: power, links, partitions and registers. Start-up boots the slot tried first, or the other, or leaves recovery mode, and clears everything else; a partition is
created on an aligned set of free dies, or refused, and ends with nothing of it left; FSRV names the fault server; registers are read and written by the host and, for the pod manager, by packets.
That an ended partition leaves no graph and no thread is the model's reading (log 44), and so are which slot is booted and that every image of a slot is checked (log 45). -/
def Obligations.HostEvents : Prop :=
  ∀ (s : State) (q : Nat) (v w : Word) (dev : BitVec 11) (off : BitVec 27) (up : Bool) (cause : Nat), q < 8 →
    let o := 0x40 * q
    let f := s.service
    let good := fun (b : Bool) => (if b then f.okB else f.okA) && (s.imageStep (if b then f.slotB else f.slotA) [1, 2, 3, 4]).isNone
    let fresh := fun (t : State) => t.service.booted = (if good f.firstB then some f.firstB else if good (!f.firstB) then some (!f.firstB) else none) ∧
      t.service.up = (good true || good false) ∧ t.service.recovery = !(good true || good false) ∧ t.cells = [] ∧ t.hbm = [] ∧ t.lines = [] ∧ t.graphs = [] ∧ t.hostMem = s.hostMem ∧
      (∀ p, p < 8 → t.running p = false) ∧ ∀ k, k < 16 → t.fld 2 0 (0x1000 * k + 8) 0 1 = (good true || good false).toNat
    let en := s.fld 5 0 o 0 1
    let set := bf v 8 8
    let server := fun (t : State) => t.fld 5 0 (o + 0x18) 0 14 = bf v 0 14 ∧ t.fld 5 0 (o + 0x18) 16 1 = bf v 16 1
    let busy := (List.range 8).any fun d => v.getLsbD (8 + d) && s.dieHalted d
    let told := fun (t : State) (ok : Bool) (w : Word) => ∃ p ∈ (t.txOf dev.toNat true).unacked ++ (t.txOf dev.toNat true).waiting, p.kind = 0x52#8 ∧ p.poison = !ok ∧ (ok = true → p.pay = [w]) ∧ (ok = false → p.cause = 1#4)
    Completes .powerOn s (fun t => fresh t ∧ t.hostLink = false) ∧
    Completes .moduleReset s (fun t => fresh t ∧ t.hostLink = s.hostLink) ∧
    exec (.hostLinkTraining up) s = .next { s with hostLink := up } ∧
    (writeBad 5 o v = false → en = 0 → v.getLsbD 0 = true →
      (diesOk set = true → s.diesTaken q set = false → busy = false → Completes (.partitionCreate q v) s fun t => t.running q = true ∧ t.fld 5 0 o 8 8 = set ∧ (t.partAt q).key = some s.keyEpoch ∧
        t.keyEpoch = s.keyEpoch + 1 ∧ t.hbm = s.hbm ∧ ∀ n, v.getLsbD (8 + n / 64) = true → n < 512 → (t.cellAt n).acc = [] ∧ (t.cellAt n).mbc = []) ∧
      (diesOk set = false ∨ s.diesTaken q set = true ∨ busy = true → Completes (.partitionCreate q v) s fun t => CellsSame s t ∧ t.fld 5 0 o 0 1 = 0 ∧ t.fld 5 0 (o + 8) 1 1 = 1 ∧ RefusalRecorded s t 5 0 o)) ∧
    (writeBad 5 o v = false → en = 1 → v.getLsbD 0 = false →
      (set = s.fld 5 0 o 8 8 → Completes (.partitionEnd q v) s fun t => t.running q = false ∧ (t.partAt q).key = none ∧ (∀ g ∈ t.graphs, g.part ≠ q) ∧
        ∀ n k, s.dieIn q (n / 64) = true → n < 512 → t.thr? n k = none) ∧
      (set ≠ s.fld 5 0 o 8 8 → Completes (.partitionEnd q v) s fun t => CellsSame s t ∧ t.fld 5 0 o 0 1 = 1 ∧ t.fld 5 0 (o + 8) 1 1 = 1 ∧ RefusalRecorded s t 5 0 o)) ∧
    (writeBad 5 (o + 0x18) v = true → Completes (.fsrvWrite q v) s fun t => CellsSame s t ∧ t.reg 5 0 (o + 0x18) = s.reg 5 0 (o + 0x18) ∧ RefusalRecorded s t 5 0 (o + 0x18)) ∧
    (writeBad 5 (o + 0x18) v = false → v.getLsbD 16 = false → Completes (.fsrvWrite q v) s fun t => CellsSame s t ∧ server t) ∧
    (writeBad 5 (o + 0x18) v = false → v.getLsbD 16 = true → (s.partAt q).notes = [] → Completes (.fsrvWrite q v) s fun t => server t ∧ t.hbm = s.hbm ∧
      (∀ n, s.dieIn q (n / 64) = true → n < 512 → (t.cellAt n).stopped = false) ∧
      ∀ n k u, s.thr? n k = some u → t.thr? n k = some (if u.part = q ∧ u.stop.isSome = true then { u with dest := u.dest.or (some (bf v 0 11, bf v 11 3)) } else u)) ∧
    (∀ b i r m, s.blockAt off.toNat = some (b, i, r) → 16 * s.caps.length ≤ off.toNat → regMask b r = some m → b = 12 ∨ (b = 11 ∧ 0x40 ≤ r % 0x100 ∧ r < 0x800) →
      (off.toNat % 8 = 0 → writeBad b r v = false → Completes (.registerWrite off v) s fun t => Stored s t b i r m v) ∧
      (off.toNat % 8 = 0 → writeBad b r v = true → Completes (.registerWrite off v) s fun t => t.reg b i r = s.reg b i r ∧ { t with regs := s.regs } = s ∧ RefusalRecorded s t b i r)) ∧
    (off.toNat % 8 ≠ 0 ∨ s.blockAt off.toNat = none ∨ off.toNat < 16 * s.caps.length → exec (.registerWrite off v) s = .next s) ∧
    (∀ s1, Arrives s 0x50 s1 →
      (s1.managed dev = true → off.toNat % 8 = 0 → s1.barRead off.toNat = some w → Completes (.mreadPacket dev off) s fun t => told t true w ∧ CellsSame s1 t) ∧
      (s1.managed dev = false ∨ off.toNat % 8 ≠ 0 ∨ s1.barRead off.toNat = none → Completes (.mreadPacket dev off) s fun t => told t false w ∧ CellsSame s1 t)) ∧
    (∀ s1, Arrives s 0x51 s1 →
      (s1.managed dev = false → Completes (.mwrite dev off v) s fun t => told t false w ∧ CellsSame s1 t) ∧
      (s1.managed dev = true → off.toNat % 8 ≠ 0 → exec (.mwrite dev off v) s = .next s1) ∧
      (∀ b i r m, s1.managed dev = true → off.toNat % 8 = 0 → s1.blockAt off.toNat = some (b, i, r) → 16 * s1.caps.length ≤ off.toNat → regMask b r = some m →
        b = 12 ∨ (b = 11 ∧ 0x40 ≤ r % 0x100 ∧ r < 0x800) → writeBad b r v = false → Completes (.mwrite dev off v) s fun t => Stored s1 t b i r m v)) ∧
    (∀ s1, Arrives s 0x52 s1 → exec (.mresp dev v cause) s = .next s1)

/-- R125, R126: the mailbox. A command is ignored with ERR while one runs; STAGE, RAISEMIN and RECOVER check an image and complete with its failing step, ATTEST writes the report behind the nonce, ACTIVATE chooses the slot tried
first; an unknown command and a buffer that cannot be reached complete with 2; a command whose buffer in HBM stalls with a rehash waits (R44); the completion clears BUSY and raises vector 0. -/
def Obligations.MailboxEvents : Prop :=
  ∀ (s : State) (host : Bool) (c : BitVec 8),
    let f := s.service
    let a := s.mbAddr
    let n := s.mbLen
    let gone := s.mbGone host a n
    let im := s.mbRead host a n
    let idle := s.fld 6 0 0x18 0 1 = 0
    let free := idle ∧ s.mbStall host a n = false
    let same := fun (t : State) => host = true → CellsSame s t
    let run := fun (t : State) (m : Mbox) => t.fld 6 0 0x18 0 1 = 1 ∧ t.service.mbox = some m ∧ t.cells = s.cells
    let step := fun (k : Nat) => ({ code := 1, step := k, image := none } : Mbox)
    let six := [Instr.stage host, .activate host, .attest host, .raisemin host, .recover host, .mbcmdUnknown host c]
    (idle → s.mbStall host a n = true → ∀ i ∈ [Instr.stage host, .attest host, .raisemin host, .recover host], exec i s = .next s) ∧
    (¬ idle → ∀ i ∈ six, Completes i s fun t => t.fld 6 0 0x18 1 1 = 1 ∧ CellsSame s t ∧ t.service = s.service ∧ RefusalRecorded s t 6 0 0) ∧
    (idle → Completes (.mbcmdUnknown host c) s fun t => run t (mbCode 2) ∧ CellsSame s t) ∧
    (idle → Completes (.activate host) s fun t => run t (mbCode 0) ∧ CellsSame s t ∧ t.service.firstB = (a % 2 == 1)) ∧
    (free → gone = true → (∀ i ∈ [Instr.stage host, .attest host, .raisemin host], Completes i s fun t => run t (mbCode 2) ∧ CellsSame s t) ∧
      (f.recovery = true → Completes (.recover host) s fun t => run t (mbCode 2) ∧ CellsSame s t)) ∧
    (free → gone = false →
      Completes (.stage host) s (fun t => run t ((s.imageStep im [1, 2, 3, 4]).elim { code := 0, step := 0, image := some im } step) ∧ same t ∧
        (s.imageStep im [1, 2, 3, 4] = none → if f.booted = some false then t.service.okB = false else t.service.okA = false)) ∧
      Completes (.raisemin host) s (fun t => run t ((s.imageStep im [5]).elim (mbCode (if leNat (imageBody im) ≤ f.minLevel then 4 else 0)) step) ∧ same t ∧
        t.service.minLevel = (s.imageStep im [5]).elim (max f.minLevel (leNat (imageBody im))) fun _ => f.minLevel) ∧
      (n < 64 + 120 + 64 * f.measurements.length + 1280 → Completes (.attest host) s fun t => run t (mbCode 2) ∧ CellsSame s t) ∧
      (64 + 120 + 64 * f.measurements.length + 1280 ≤ n → Completes (.attest host) s fun t => run t (mbCode 0) ∧
        (host = true → ∀ i b, (s.report (s.mbRead true a 32))[i]? = some b → t.hostByte (a + 64 + i) = b)) ∧
      (f.recovery = true → Completes (.recover host) s fun t => run t ((s.imageStep im [1, 2, 3, 4]).elim (mbCode 0) step) ∧ same t ∧ (s.imageStep im [1, 2, 3, 4] = none → t.service.up = true))) ∧
    (free → f.recovery = false → Completes (.recover host) s fun t => run t (mbCode 3) ∧ CellsSame s t) ∧
    (f.mbox = none → exec .mailboxComplete s = .next s) ∧
    (∀ m, f.mbox = some m → m.code < 256 → m.step < 256 → Completes .mailboxComplete s fun t => CellsSame s t ∧ t.fld 6 0 0x18 0 1 = 0 ∧ t.fld 6 0 0x18 8 8 = m.code ∧ t.fld 6 0 0x18 16 8 = m.step ∧
      t.msix = s.msix ||| 1#16 ∧ t.service.mbox = none ∧ ∀ l, m.image = some l → if f.booted = some false then t.service.slotB = l ∧ t.service.okB = true else t.service.slotA = l ∧ t.service.okA = true)

/-! ## Events: ports, the fabric, peers -/

/-- Port `p` is down with nothing queued and nothing to replay (R49, R53). -/
def Down (t : State) (p : Nat) : Prop :=
  t.pstate p = 0 ∧ (t.portAt p).replay = [] ∧ (t.portAt p).replayEnd = none ∧ (t.portAt p).bulkQ = [] ∧ (t.portAt p).userQ = [] ∧ (t.portAt p).sending = none ∧ (t.portAt p).switching = false

/-- The last burst that a port has put on its wire. -/
def Wired (t : State) (p : Nat) (P : Burst → Prop) : Prop := ∃ b, (t.portAt p).wire.getLast? = some b ∧ P b

/-- R47 to R55: ports. A burst in order is taken, one ahead is asked for again, one that fails a CRC counts against its lane; requests repeat, and the thirty-second fails the port; bursts of
queued flits are numbered and kept, a user packet going before the rest of a bulk packet that is begun (R92), others are control-only; totals report the bulk counters; lanes are repaired, cleared
and widened again; ports are disabled, enabled and trained. That a control-only burst takes no number, and that both ends number from 0 after training, are the model's readings (log 21); a repair
that starts where this port has none pending is the far end's, and the lane that it drops is free (the model's choice, log 67). -/
def Obligations.PortEvents : Prop :=
  ∀ (s : State) (p : Nat) (b : Burst) (c0 c1 : BitVec 32) (pk : Packet) (ok : Bool), p < 96 →
    let x := s.portAt p
    let one := s.pstate p == 3
    let good := c0 = (b.crcs one).1 ∧ (one = false → c1 = (b.crcs one).2)
    let up := s.portUp p = true
    let live := up ∧ x.switching = false
    let bit := fun (t : State) (i : Nat) => t.fld 3 0 (pst p) i 1
    let enabled := fun (t : State) => t.fld 3 0 (pst p - 8) 0 1
    let failed := fun (t : State) => Down t p ∧ t.fld 3 0 (pst p + 8) 32 16 = (s.fld 3 0 (pst p + 8) 32 16 + 1) % 2 ^ 16
    let asks := fun (t : State) => (t.portAt p).gap = true ∧ (t.portAt p).asked = x.asked + 1 ∧ Wired t p fun c => c.nak = true ∧ c.aseq = x.want ∧ c.controlOnly = true ∧ c = c.sealed one
    let s1 := s.takeControl p b
    let calm := s.fld 11 0 0x808 3 1 = 0
    let taken := live ∧ calm ∧ good ∧ b.disable = false ∧ b.controlOnly = false ∧ s1.portUp p = true
    (taken → b.bseq = x.want → Completes (.burstReceive p b c0 c1) s fun t => (t.portAt p).want = x.want + 1#12 ∧ (t.portAt p).gap = false ∧ (t.portAt p).asked = 0 ∧
      ∀ k ∈ b.pkts, k.user = false → kindKnown k.kind.toNat = true → k ∈ (t.portAt p).inbox) ∧
    (taken → b.bseq ≠ x.want → (b.bseq - x.want).toNat < 2048 → x.gap = false → x.asked < 31 → Completes (.burstReceive p b c0 c1) s fun t => asks t ∧ (t.portAt p).want = x.want) ∧
    (taken → b.bseq ≠ x.want → 2048 ≤ (b.bseq - x.want).toNat ∨ x.gap = true → exec (.burstReceive p b c0 c1) s = .next s1) ∧
    (live → calm → good → b.disable = true → s1.pstate p ≠ 0 → Completes (.burstReceive p b c0 c1) s fun t => Down t p ∧ bit t 6 = 1) ∧
    (live → calm → good → b.disable = false → b.controlOnly = true → exec (.burstReceive p b c0 c1) s = .next s1) ∧
    (live → calm → s.pstate p = 2 → c0 ≠ (b.crcs false).1 → c1 = (b.crcs false).2 → x.gap = true → b.bseq ≠ x.want → Completes (.burstReceive p b c0 c1) s fun t =>
      (t.portAt p).asked = x.asked ∧ (t.portAt p).wire = x.wire ∧ (t.portAt p).want = x.want ∧ (t.portAt p).err0 = x.err0 + 1) ∧
    (live → calm → s.pstate p = 2 → c0 ≠ (b.crcs false).1 → c1 = (b.crcs false).2 → x.gap = false ∨ b.bseq = x.want → x.asked < 31 →
      Completes (.burstReceive p b c0 c1) s fun t => asks t ∧ (t.portAt p).want = x.want ∧ (t.portAt p).err0 = x.err0 + 1 ∧
      t.fld 3 0 (pst p + 8) 0 16 = (s.fld 3 0 (pst p + 8) 0 16 + 1) % 2 ^ 16 ∧ (x.err0 + 1 = max (s.fld 3 0 0 8 8) 1 → (t.portAt p).out0 = true ∧ bit t 4 = 1)) ∧
    (¬ live → exec (.burstReceive p b c0 c1) s = .next s) ∧
    (live → x.gap = true → (x.asked < 31 → Completes (.nakRepeat p) s fun t => asks t) ∧ (31 ≤ x.asked → Completes (.nakRepeat p) s failed)) ∧
    (x.gap = false ∨ ¬ up → exec (.nakRepeat p) s = .next s) ∧
    (live → x.userQ = [] → x.bulkQ = [] → x.sending = none → x.paused = none → Completes (.aseqTimer p) s fun t => Wired t p (fun c => c.controlOnly = true ∧ c.aseq = x.want - 1#12 ∧ c.nak = false ∧ c = c.sealed one) ∧
      (t.portAt p).nextSeq = x.nextSeq ∧ (t.portAt p).replay = x.replay) ∧
    (live → x.sending = none → x.paused = none → x.replay.length < 512 → pktFlits pk = 1 →
      (x.userQ = [pk] → x.bulkQ = [] → pk.user = true → Completes (.aseqTimer p) s fun t => Wired t p (fun c => c.bseq = x.nextSeq ∧ c.aseq = x.want - 1#12 ∧ c.pkts = [pk] ∧
        ∃ y, (t.portAt p).replay = x.replay ++ [y] ∧ c = y.sealed one) ∧ (t.portAt p).nextSeq = x.nextSeq + 1#12 ∧ (t.portAt p).userQ = []) ∧
      (x.userQ = [] → x.bulkQ = [pk] → pk.user = false → pktVc pk < 4 → 0 < x.allow (pktVc pk) → Completes (.aseqTimer p) s fun t => Wired t p (fun c => c.bseq = x.nextSeq ∧ c.pkts = [pk] ∧
        c.bulk (pktVc pk) = 1) ∧ vcGet (t.portAt p).sent (pktVc pk) = vcGet x.sent (pktVc pk) + 1#48 ∧ (t.portAt p).bulkQ = []) ∧
      (x.userQ = [] → x.bulkQ = [pk] → x.allow (pktVc pk) ≤ 0 → Completes (.aseqTimer p) s fun t => Wired t p (fun c => c.controlOnly = true) ∧ (t.portAt p).bulkQ = [pk])) ∧
    (∀ q m, live → x.sending = some (q, m) → q.user = false → x.userQ = [pk] → pk.user = true → pktFlits pk = 1 → x.replay.length < 512 →
      Completes (.aseqTimer p) s fun t => Wired t p fun c => c.bseq = x.nextSeq ∧ c.flits.head? = some (.part pk 0)) ∧
    (live → Completes (.totalsFlitSend p) s fun t => Wired t p fun c => c.totals = some ((List.range 4).map (vcGet x.sent) ++ (List.range 4).map (vcGet x.freed)) ∧ c.controlOnly = true) ∧
    (¬ live → exec (.aseqTimer p) s = .next s ∧ exec (.totalsFlitSend p) s = .next s) ∧
    (up → Completes (.portSilenceTimeout p) s failed) ∧ (¬ up → exec (.portSilenceTimeout p) s = .next s) ∧
    Completes .laneCountClear s (fun t => t.regs = s.regs ∧ ∀ n, (t.portAt n).err0 = 0 ∧ (t.portAt n).err1 = 0 ∧ (t.portAt n).replay = (s.portAt n).replay) ∧
    (live → s.repairWaits p = false → (s.pstate p = 3 ∨ (x.out0 = true ∧ x.out1 = true) → Completes (.laneRepairStart p) s failed) ∧
      (s.pstate p ≠ 3 → ¬ (x.out0 = true ∧ x.out1 = true) → Completes (.laneRepairStart p) s fun t => t.regs = s.regs ∧
        (bit s 4 = 1 → t.portAt p = { x with switching := true }) ∧ (bit s 4 = 0 → ∃ w, t.portAt p = { x with switching := true, out0 := w, out1 := !w }))) ∧
    (s.repairWaits p = true ∨ ¬ live → exec (.laneRepairStart p) s = .next s) ∧
    (x.switching = true → Completes (.laneSwitchComplete p) s fun t => t.portAt p = { x with switching := false, wire := x.wire ++ x.replay.map fun y => y.sealed true } ∧ t.pstate p = 3 ∧ bit t 4 = 0 ∧ bit t 2 = x.out0.toNat) ∧
    (x.switching = false → exec (.laneSwitchComplete p) s = .next s) ∧
    (s.pstate p = 3 → Completes (.rewiden p) s fun t => t.portAt p = { x with rewidening := true } ∧ t.regs = s.regs) ∧ (s.pstate p ≠ 3 → exec (.rewiden p) s = .next s) ∧
    (x.rewidening = true → s.pstate p = 3 → Completes (.rewidenComplete p true) s (fun t => t.pstate p = 2 ∧ bit t 2 = 0 ∧ (t.portAt p).out0 = (x.out0 && bit s 2 == 0) ∧ (t.portAt p).out1 = (x.out1 && bit s 2 == 1) ∧ (t.portAt p).rewidening = false ∧ (t.portAt p).err0 = x.err0 ∧ (t.portAt p).err1 = x.err1) ∧
      Completes (.rewidenComplete p false) s fun t => t.pstate p = 3 ∧ bit t 5 = 1 ∧ t.portAt p = { x with rewidening := false }) ∧
    (x.rewidening = false ∨ s.pstate p ≠ 3 → exec (.rewidenComplete p ok) s = .next s) ∧
    (s.pstate p ≠ 0 → Completes (.portDisable p) s fun t => Down t p ∧ enabled t = 0 ∧ (t.portAt p).wire.length = x.wire.length + 8 ∧ Wired t p fun c => c.disable = true ∧ c.controlOnly = true) ∧
    (s.pstate p = 0 → Completes (.portDisable p) s fun t => enabled t = 0 ∧ t.ports = s.ports) ∧
    (s.fld 3 0 8 11 1 = 1 → s.pstate p = 0 → Completes (.portEnable p) s (fun t => enabled t = 1 ∧ t.pstate p = 1 ∧ t.ports = s.ports) ∧
      (bit s 6 = 1 → enabled s = 1 → Completes (.farEndTraining p) s fun t => t.pstate p = 1 ∧ t.ports = s.ports)) ∧
    (s.fld 3 0 8 11 1 = 0 ∨ s.pstate p ≠ 0 → Completes (.portEnable p) s fun t => enabled t = 1 ∧ t.pstate p = s.pstate p ∧ t.ports = s.ports) ∧
    (bit s 6 = 0 ∨ enabled s = 0 ∨ s.pstate p ≠ 0 → exec (.farEndTraining p) s = .next s) ∧
    (s.pstate p ≠ 0 → Completes (.disableFlit p) s fun t => Down t p ∧ bit t 6 = 1) ∧ (s.pstate p = 0 → exec (.disableFlit p) s = .next s) ∧
    (s.pstate p = 1 → Completes (.portTrained p) s fun t => t.pstate p = 2 ∧ bit t 6 = 0 ∧ (t.portAt p).nextSeq = 0#12 ∧ (t.portAt p).want = 0#12 ∧ (t.portAt p).gap = false ∧ (t.portAt p).wire = x.wire) ∧
    (s.pstate p ≠ 1 → exec (.portTrained p) s = .next s)

/-- The state after an unnumbered packet of a kind has been taken, or the state itself where none is held. -/
def Takes (s : State) (k : Nat) (t : State) : Prop := (s.heldPkt k = none ∧ t = s) ∨ ∃ p, s.heldPkt k = some p ∧ t = s.takePacket p

/-- R57 to R59, R64, R67, R68, R73: forwarding, routes, identity and streams. A packet in transit goes on with one less of its budget or is dropped, counted and recorded; a route entry is written once, read back in halves; FID
keeps DEVID while a port is up; a receiver asks for a missing number; acknowledged packets are freed, and resent ones stay, until the eighth resend without progress has passed; SYN sets a stream.
Packets beyond the 64 that a stream keeps wait in order (the model's choice, log 15). -/
def Obligations.FabricEvents : Prop :=
  ∀ (s : State) (f dev : Nat) (pk : Packet) (v nonce : Word) (user : Bool) (a : BitVec 16), f < 4 →
    let me := s.devId
    let k : Packet := if pk.nm = true ∧ pk.via.toNat = me then { pk with ph := true } else pk
    let e := s.route (if k.nm = true ∧ k.ph = false then k.via.toNat else k.ddev.toNat)
    let usable := k.budget ≠ 0#3 ∧ rtValid e = true ∧ (s.pairPort (rtHop e) k.user 0).isSome = true
    let resent := fun (i : Instr) (s1 : State) (t : State) => exec i s = .next t ∧ (t.txOf dev user).unacked = (s1.txOf dev user).unacked ∧ (t.txOf dev user).resends = (s1.txOf dev user).resends + 1 ∧ t.cells = s1.cells
    let dead := fun (t : State) (x : TxStream) => (t.txOf dev user).unacked = [] ∧ (t.txOf dev user).waiting = [] ∧ (t.txOf dev user).base = x.next ∧ (t.txOf dev user).next = x.next ∧ (t.txOf dev user).resends = 0
    (pk.ddev.toNat = me → exec (.packetForward f pk) s = .next s) ∧
    (pk.ddev.toNat ≠ me → ¬ usable → Completes (.packetForward f pk) s fun t => t.reg 3 0 0x30 = s.reg 3 0 0x30 + 1#64 ∧
      ∃ r, (t.dieAt (2 * f)).events = (s.dieAt (2 * f)).events ++ [r] ∧ r.kind = 0x21#8 ∧ r.code = 1#8 ∧ r.data = BitVec.ofNat 32 pk.ddev.toNat) ∧
    (pk.ddev.toNat ≠ me → usable → Completes (.packetForward f pk) s fun t => t.regs = s.regs ∧ ∃ n, { k with budget := k.budget - 1#3, hop := k.hop + 1#3 } ∈ if k.user then (t.portAt n).userQ else (t.portAt n).bulkQ) ∧
    (s.fld 3 0 0x28 2 1 = 1 → Completes .rtcmdWrite s fun t => RefusalRecorded s t 3 0 0x28 ∧ { t with regs := s.regs } = s) ∧
    (s.fld 3 0 0x28 2 1 = 0 → Completes .rtcmdWrite s fun t => t.fld 3 0 0x28 2 1 = 1 ∧ t.routePend = some (s.fld 3 0 0x10 0 11, s.reg 3 0 0x20 ++ s.reg 3 0 0x18) ∧ t.routes = s.routes) ∧
    (s.routePend = none → exec .rtcmdWriteComplete s = .next s) ∧
    (∀ d r, s.routePend = some (d, r) → Completes .rtcmdWriteComplete s fun t => t.fld 3 0 0x28 2 1 = 0 ∧ t.routePend = none ∧ t.route d = r ∧ ∀ n, n ≠ d → t.route n = s.route n) ∧
    Completes .rtcmdRead s (fun t => t.reg 3 0 0x20 ++ t.reg 3 0 0x18 = s.route (s.fld 3 0 0x10 0 11) ∧ { t with regs := s.regs } = s) ∧
    (writeBad 3 8 v = true → Completes (.fidWrite v) s fun t => t.reg 3 0 8 = s.reg 3 0 8 ∧ { t with regs := s.regs } = s ∧ RefusalRecorded s t 3 0 8) ∧
    (writeBad 3 8 v = false → Completes (.fidWrite v) s fun t => t.fld 3 0 8 0 11 = (if s.anyUp then me else bf v 0 11) ∧ t.fld 3 0 8 11 1 = bf v 11 1 ∧ t.fld 3 0 8 16 16 = bf v 16 16 ∧
      (s.fld 3 0 8 11 1 = 1 → bf v 11 1 = 0 → ∀ p, p < 96 → t.pstate p = 0) ∧
      (s.fld 3 0 8 11 1 = 0 → bf v 11 1 = 1 → ∀ p, p < 96 → s.fld 3 0 (pst p - 8) 0 1 = 1 → s.pstate p = 0 → t.pstate p = 1)) ∧
    (let x := s.rxOf dev user
     (x.nonce.isSome = true → x.map ≠ 0#64 → Completes (.e2eGapTimeout dev user) s fun t => ∃ q, t = s.launchPkt q ∧ q.kind = 2#8 ∧ q.seq = x.exp ∧ q.ddev = BitVec.ofNat 11 dev ∧ q.user = user) ∧
     (x.nonce = none ∨ x.map = 0#64 → exec (.e2eGapTimeout dev user) s = .next s)) ∧
    ((s.txOf dev user).unacked = [] → exec (.retransmitTimeout dev user) s = .next s) ∧
    ((s.txOf dev user).unacked ≠ [] → ((s.txOf dev user).resends < 8 → ∃ t, resent (.retransmitTimeout dev user) s t) ∧
      (8 ≤ (s.txOf dev user).resends → Completes (.retransmitTimeout dev user) s fun t => user = true → dead t (s.txOf dev user))) ∧
    (∀ s1, Takes s 1 s1 → let x := s1.txOf dev user
      let l := x.unacked.filter fun p => decide ((p.seq - a).toNat < 2 ^ 15)
      (2 ^ 15 ≤ (x.next - a).toNat → exec (.ack dev user a) s = .next s1) ∧
      ((x.next - a).toNat < 2 ^ 15 → Completes (.ack dev user a) s fun t => (∃ m, (t.txOf dev user).unacked = l ++ m) ∧
        (x.waiting = [] → (t.txOf dev user).unacked = l ∧ (t.txOf dev user).next = x.next) ∧
        (l.length < x.unacked.length → (t.txOf dev user).base = a ∧ (t.txOf dev user).resends = 0))) ∧
    (∀ s1, Takes s 2 s1 → let x := s1.txOf dev user
      let passing := x.again.contains a = true ∧ s1.queuedPkt dev user a = true
      (2 ^ 15 ≤ (a - x.low).toNat ∨ passing ∨ x.unacked = [] → exec (.nak dev user a) s = .next s1) ∧
      ((a - x.low).toNat < 2 ^ 15 → ¬ passing → x.unacked ≠ [] → x.resends < 8 → ∃ t, resent (.nak dev user a) s1 t)) ∧
    (∀ s1, Takes s 3 s1 → let x := s1.rxOf dev user
      (x.nonce ≠ some nonce ∨ (a - x.exp).toNat < 2 ^ 15 → Completes (.syn dev user nonce a) s fun t => t.rxOf dev user = { nonce := some nonce, exp := a, map := 0#64 } ∧ t.tx = s1.tx) ∧
      (x.nonce = some nonce → 2 ^ 15 ≤ (a - x.exp).toNat → exec (.syn dev user nonce a) s = .next s1)) ∧
    (∀ s1, Takes s 4 s1 → let x := s1.txOf dev user
      Completes (.resync dev user nonce) s (fun t => (t.txOf dev user).opened = true ∧ (t.txOf dev user).unacked = x.unacked ∧ (t.txOf dev user).next = x.next) ∧
      (x.unacked = [] → Completes (.resync dev user nonce) s fun t => ∃ q, t = (s1.setTx dev user { x with opened := true }).launchPkt q ∧ q.kind = 3#8 ∧ q.seq = x.next ∧ q.pay = [s1.nonce] ∧ q.ddev = BitVec.ofNat 11 dev))

/-- A request has been answered to its sender (R61, R72): a packet of a kind that names the request's number, poisoned with a cause where that is not 0. -/
def Replied (t : State) (p : Packet) (kind cause : Nat) (pay : List Word) : Prop :=
  ∃ y ∈ (t.txOf p.sdev.toNat true).unacked ++ (t.txOf p.sdev.toNat true).waiting, y.kind = BitVec.ofNat 8 kind ∧ y.ks = BitVec.ofNat 45 p.seq.toNat ∧ y.poison = (cause != 0) ∧ y.cause = BitVec.ofNat 4 cause ∧
    y.pay = if cause = 0 then pay else []

/-- R61, R62, R71, R72, R160, R163, R244 to R246, R328: peers. A request that its stream accepts is checked against its window and answered with the failing check's cause, or performed and answered: a read with the selected bytes of its
line, a write with the acknowledgement, an atomic with the old value where it asks for it, a producing store once its word is empty, a consuming load once it is full. Which RDREQ is a consuming load (log 68), and which
AMO an engine's addition at a barrier object or a copy's count for a mailbox (log 69), are the model's choice. -/
def PeerEvents : Prop :=
  ∀ (s s1 s2 : State) (p : Packet) (c : Nat), (p.desc.map s.peerStall).getD false = false → s.accept p = (s1, true) →
    let x := descOr p
    let b := x.offset.toNat / 64 * 64
    let read := s1.peerCheck x p.sdev.toNat b (maskEnd x.mask.toNat) rRD
    let wr := s1.peerCheck x p.sdev.toNat b (maskEnd x.mask.toNat) rWR
    let at_ := s1.peerCheck x p.sdev.toNat x.offset.toNat (descN x) rAT
    let sy := s1.peerCheck x p.sdev.toNat x.offset.toNat 8 rWR
    let cons := s1.peerCheck x p.sdev.toNat b (maskEnd x.mask.toNat) (rRD + rWR)
    (consRead x = false → read = (s2, .error c) → c ≠ 0 → Completes (.rdreq p) s fun t => Replied t p 0x11 c [] ∧ MemSame s2 t) ∧
    (wr = (s2, .error c) → c ≠ 0 → Completes (.write p) s fun t => Replied t p 0x13 c [] ∧ MemSame s2 t) ∧
    (consRead x = true → cons = (s2, .error c) → c ≠ 0 → Completes (.rdreq p) s fun t => Replied t p 0x11 c [] ∧ MemSame s2 t) ∧
    (at_ = (s2, .error c) → c ≠ 0 → (barAmo p = false → mboxAmo p = false → Completes (.amo p) s fun t => Replied t p 0x13 c [] ∧ MemSame s2 t) ∧ Completes (.amoreq p) s fun t => Replied t p 0x16 c [] ∧ MemSame s2 t) ∧
    (sy = (s2, .error c) → c ≠ 0 → Completes (.syncst p) s fun t => Replied t p 0x13 c [] ∧ MemSame s2 t) ∧
    (∀ q h, consRead x = false → read = (s2, .ok (q, h)) → let r := s2.hbmRead q (h / 64 * 64) 64
      (r.bad ≠ 0 → Completes (.rdreq p) s fun t => Replied t p 0x11 7 [] ∧ MemSame r.s t) ∧
      (r.bad = 0 → Completes (.rdreq p) s fun t => MemSame r.s t ∧
        Replied t p 0x11 0 (wordsOf ((maskRuns x.mask.toNat).foldl (fun y e => y + (r.v / 2 ^ (8 * e.1) % 2 ^ (8 * e.2)) * 2 ^ (8 * e.1)) 0) 8))) ∧
    (∀ q h, wr = (s2, .ok (q, h)) → let r := s2.maskedWrite q h x.mask.toNat (numWords (p.pay.take 8))
      Completes (.write p) s (fun t => Replied t p 0x13 r.2 [] ∧ MemSame r.1 t) ∧
      (x.mask = BitVec.allOnes 64 → s2.fld 2 0 (0x1000 * (h / 2 ^ 36) + 8) 2 1 = 0 → Completes (.write p) s fun t => Replied t p 0x13 0 [] ∧
        ∀ i, i < 64 → t.hbmByte (h / 64 * 64 + i) = BitVec.ofNat 8 (numWords (p.pay.take 8) / 256 ^ i))) ∧
    (∀ q h o, at_ = (s2, .ok (q, h)) → AOp.ofCode x.op.toNat = some o → let r := s2.atomic q (.hbm h) (descN x) o (p.pay.getD 0 0#64).toNat (p.pay.getD 1 0#64).toNat
      (r.bad = 0 → (barAmo p = false → mboxAmo p = false → Completes (.amo p) s fun t => Replied t p 0x13 0 [] ∧ MemSame r.s t) ∧ Completes (.amoreq p) s fun t => Replied t p 0x16 0 [W r.v] ∧ MemSame r.s t) ∧
      (r.bad ≠ 0 → (barAmo p = false → mboxAmo p = false → Completes (.amo p) s fun t => Replied t p 0x13 r.bad [] ∧ MemSame r.s t) ∧ Completes (.amoreq p) s fun t => Replied t p 0x16 r.bad [] ∧ MemSame r.s t)) ∧
    (barAmo p = true → let bar := s1.peerCheck x p.sdev.toNat x.offset.toNat 16 rWR
      (bar = (s2, .error c) → c ≠ 0 → Completes (.amo p) s fun t => Replied t p 0x13 c [] ∧ MemSame s2 t) ∧
      ∀ q h, bar = (s2, .ok (q, h)) → Completes (.amo p) s fun t => Replied t p 0x13 0 [] ∧ MemSame (s2.barAt q (.hbm h) (p.pay.getD 0 0#64).toNat) t) ∧
    (barAmo p = false → mboxAmo p = true → Completes (.amo p) s fun t => Replied t p 0x13 0 [] ∧ MemSame s1 t ∧ let m := 64 * p.ddie.toNat + p.ks.toNat / 64 % 64; let g := p.ks.toNat % 64
      tget (fun _ => 0#64) (t.cellAt m).mbc g = tget (fun _ => 0#64) (s1.cellAt m).mbc g + p.pay.getD 0 0#64) ∧
    (∀ q h, consRead x = true → cons = (s2, .ok (q, h)) → s2.fld 11 0 0x808 3 1 = 0 → let a := h / 64 * 64 + x.offset.toNat % 64 / 8 * 8
      let z := s2.openLine (s2.keyOf q) a
      let ys := (z.stackAt (a / 2 ^ 36)).syncs
      let waits := ys.any (fun w => w.hpa == a && !w.store)
      z.lineBad a = false →
        (z.feBit a = true → waits = false → Completes (.rdreq p) s fun t => Replied t p 0x11 0 (linePay a (readLE z.hbmByte a 8)) ∧ t.feBit a = false) ∧
        (z.feBit a = false ∨ waits = true → ys.length < 1024 → Completes (.rdreq p) s fun t => MemSame z t ∧ t.tx = z.tx ∧ (t.stackAt (a / 2 ^ 36)).syncs =
          ys ++ [{ cell := 0, slot := q, seq := p.seq.toNat, store := false, hpa := a, pkt := some p }]) ∧
        (z.feBit a = false ∨ waits = true → 1024 ≤ ys.length → Completes (.rdreq p) s fun t => MemSame z t ∧ t.outbox = z.outbox ++ [p] ∧ t.hbmStacks = z.hbmStacks)) ∧
    (∀ q h, sy = (s2, .ok (q, h)) → h % 8 = 0 → s2.fld 11 0 0x808 3 1 = 0 → let z := s2.openLine (s2.keyOf q) h
      let ys := (z.stackAt (h / 2 ^ 36)).syncs
      let waits := fun (l : List SyncWait) => l.any (fun w => w.hpa == h && w.store)
      z.lineBad h = false →
        (z.feBit h = false → waits ys = false → Completes (.syncst p) s fun t => Replied t p 0x13 0 [] ∧ t.feBit h = true ∧ readLE t.hbmByte h 8 = (p.pay.getD 0 0#64).toNat) ∧
        (z.feBit h = true ∨ waits ys = true → ys.length < 1024 → Completes (.syncst p) s fun t => MemSame z t ∧ t.tx = z.tx ∧ (t.stackAt (h / 2 ^ 36)).syncs =
          ys ++ [{ cell := 0, slot := q, seq := p.seq.toNat, store := true, hpa := h, pkt := some p }]) ∧
        (z.feBit h = true ∨ waits ys = true → 1024 ≤ ys.length → Completes (.syncst p) s fun t => MemSame z t ∧ t.outbox = z.outbox ++ [p] ∧ t.hbmStacks = z.hbmStacks))

/-- R72, R160, R163, R244, R328: answers and copy packets. An answer to a read or an atomic completes the access that awaits it, and a poisoned one traps; an acknowledgement releases the posted access, and a poisoned one
stops its thread with a deferred trap. One with bit 16 of its kind-specific field set halts the channel whose packet it refuses, with the code of its cause (the model's choice, log 69). A copy packet whose tag agrees lands and adds its bytes to
its mailbox counter, or goes to the collective unit where it is a step's; one that its window or its tables refuse is answered with the cause; one whose tag differs changes nothing, but that it poisons a full line that it was to write early. -/
def AnswersAndCopies : Prop :=
  ∀ (s s1 : State) (n k i cause : Nat) (line : Line) (old : Word) (u : Thread) (e : Pend), s1.thr? n k = some u → u.stop = none →
    let trap := trapOfCause (s1.traps u) cause
    let answered := fun (t : State) (v : Word) => ∃ w, t.thr? n k = some w ∧ w.out = u.out.set i { e with perf := some v } ∧ w.g = u.g ∧ w.full = u.full ∧ w.pc = u.pc ∧ MemSame s1 t
    let stopped := fun (t : State) (c : Nat) => ∃ w f, t.thr? n k = some w ∧ w.stop = some f ∧ f.cause.toNat = c ∧ f.pcause = BitVec.ofNat 8 cause ∧ f.faultIdx.toNat = i % 16 ∧ f.faddr = e.faddr ∧ f.fpc = e.pc ∧ f.ctx.pc = u.pc ∧ MemSame s1 t
    (Arrives s 0x11 s1 →
      (u.out[i]? = none → exec (.rdresp n k i line cause) s = .next s1) ∧
      (∀ dv rw off z sg d acq sc, u.out[i]? = some e → e.act = .load (.peer dv rw off) z sg d acq sc → e.perf = none →
        (cause = 0 → Completes (.rdresp n k i line cause) s fun t => answered t (extend z sg (line.toNat / 2 ^ (8 * (off % 64)) % 2 ^ (8 * z)))) ∧
        (cause ≠ 0 → trap = none → Completes (.rdresp n k i line cause) s fun t => answered t 0#64) ∧
        (∀ c, cause ≠ 0 → cause ≤ 8 → trap = some c → Completes (.rdresp n k i line cause) s fun t => stopped t c)) ∧
      (∀ dv rw off d sc, u.out[i]? = some e → e.act = .cons (.peer dv rw off) d sc → e.perf = none → cause = 0 → Completes (.rdresp n k i line cause) s fun t =>
        answered t (W (line.toNat / 2 ^ (8 * (off % 64)) % 2 ^ 64)))) ∧
    (Arrives s 0x16 s1 →
      (u.out[i]? = none → exec (.amoresp n k i old cause) s = .next s1) ∧
      (∀ dv rw off m o v w d acq rel sc, u.out[i]? = some e → e.act = .atom (.peer dv rw off) m o v w d acq rel sc → e.perf = none →
        (cause = 0 → Completes (.amoresp n k i old cause) s fun t => answered t old) ∧
        (∀ c, cause ≠ 0 → cause ≤ 8 → trap = some c → Completes (.amoresp n k i old cause) s fun t => stopped t c))) ∧
    (∀ p d c y va m, Arrives s 0x13 s1 → s.heldPkt 0x13 = some p → p.ks.getLsbD 16 = true → d < 8 → c < 24 → s1.chans = [(32 * d + c, y)] →
      (y.flying = [(p.sdev.toNat, (p.ks.setWidth 16).toNat, va, m)] → Completes (.wrdone n k i cause) s fun t =>
        Fails s1 t d c ((if p.cause = 6#4 then 3 else if p.cause = 7#4 ∨ p.cause = 8#4 then 5 else 4) + 16 * y.clip.toNat)) ∧
      (y.flying = [] → exec (.wrdone n k i cause) s = .next s1)) ∧
    (Arrives s 0x13 s1 → (∀ p, s.heldPkt 0x13 = some p → p.ks.getLsbD 16 = false) →
      (u.posted[i]? = none → exec (.wrdone n k i cause) s = .next s1) ∧
      (∀ y dv rw off, u.posted[i]? = some y → y.loc = .peer dv rw off →
        (cause = 0 → y.bad = 0 → Completes (.wrdone n k i cause) s fun t => t.thr? n k = some { u with posted := u.posted.eraseIdx i } ∧ OnlyTheCell s1 t n) ∧
        (cause ≠ 0 → trap = none → Completes (.wrdone n k i cause) s fun t => ∃ st, t.thr? n k = some { u with posted := u.posted.eraseIdx i, st := st } ∧
          (cause = 7 → y.op.isSome = true → st = u.st ||| 0x80#8) ∧ OnlyTheCell s1 t n) ∧
        (∀ c, cause ≠ 0 → trap = some c → Completes (.wrdone n k i cause) s fun t => ∃ w f, t.thr? n k = some w ∧ w.stop = some f ∧ f.cause.toNat = c ∧ f.pcause = BitVec.ofNat 8 cause ∧
          f.deferred = true ∧ f.faddr = y.addr ∧ f.fpc = y.pc ∧ w.posted = u.posted.eraseIdx i))) ∧
    ∀ (p : CopyPkt) (q h : Nat) (s2 : State), let x := descOr p.hdr
      let tag := copyTag p.hdr p.ctrl p.compl p.masks (p.lines.flatMap fun l => wordsOf l.toNat 8)
      let check := s.peerCheck x p.hdr.sdev.toNat x.offset.toNat (64 * p.lines.length) rWR
      let a := bf (s2.tableAt (bf (s2.reg 3 0 0x48) 21 36 * 2 ^ 21 + 32 * x.rwin.toNat + 8)) 0 57 + x.offset.toNat
      let refused := fun (z t : State) (c : Nat) => MemSame z t ∧ t.cells = z.cells ∧ ∃ y ∈ (t.txOf p.hdr.sdev.toNat true).unacked ++ (t.txOf p.hdr.sdev.toNat true).waiting,
        y.kind = 0x13#8 ∧ y.user = true ∧ y.poison = true ∧ y.cause = BitVec.ofNat 4 c ∧ y.ks = BitVec.ofNat 45 (2 ^ 16 + p.hdr.seq.toNat)
      (isStep p.ctrl = true → ((s.accept p.hdr).2 = false → exec (.copydata p) s = .next (s.accept p.hdr).1) ∧
        ((s.accept p.hdr).2 = true → tag ≠ p.tag → Completes (.copydata p) s fun t => MemSame s t ∧ t.rx = s.rx ∧ t.cells = s.cells ∧ t.dies = s.dies) ∧
        ((s.accept p.hdr).2 = true → tag = p.tag → exec (.copydata p) s = .next ((s.accept p.hdr).1.stepArrive p.hdr.ddie.toNat (stepOfPkt p)))) ∧
      (isStep p.ctrl = false →
      (s.peerStall x = true → exec (.copydata p) s = .next s) ∧
      (s.peerStall x = false → (s.accept p.hdr).2 = false → exec (.copydata p) s = .next (s.accept p.hdr).1) ∧
      (s.peerStall x = false → (s.accept p.hdr).2 = true →
      (∀ c, check = (s2, .error c) → Completes (.copydata p) s fun t => refused s2 t c) ∧ (check = (s2, .ok (q, h)) →
      (∀ s3, tag = p.tag → s2.landPacket q a p = .ok s3 → Completes (.copydata p) s fun t => MemSame s3 t ∧
        (cpKind p.ctrl = 1 → bf p.compl 53 11 = s3.devId → let m := 64 * bf p.compl 50 3 + bf p.compl 44 6
          tget (fun _ => 0#64) (t.cellAt m).mbc (bf p.ctrl 0 6) = tget (fun _ => 0#64) (s3.cellAt m).mbc (bf p.ctrl 0 6) + W (copyBytes p))) ∧
      (∀ c, tag = p.tag → ∀ y m, s2.landPacket q a p = .error ((y, c), m) → Completes (.copydata p) s fun t => refused y t (if c = cXLATE then 6 else if c = cPERM then 3 else 7)) ∧
      (tag ≠ p.tag → (∀ j, j < p.lines.length → earlyLine p j = false) → Completes (.copydata p) s fun t => MemSame s2 t ∧ t.rx = s2.rx ∧ t.cells = s2.cells) ∧
      (∀ l m, tag ≠ p.tag → p.lines = [l] → earlyLine p 0 = true → s2.engLoc q a 1 rWR = .ok (.hbm m) → Completes (.copydata p) s fun t => (t.lineOf m).poison = true ∧
        t.reg 9 (h / 2 ^ 37) 0x800 = s2.reg 9 (h / 2 ^ 37) 0x800 + 1#64 ∧ t.cells = s2.cells))))

/-- R61, R62, R71, R72, R160, R163, R244 to R246, R328: requests, answers and copy packets between devices. -/
def Obligations.PeerPackets : Prop := PeerEvents ∧ AnswersAndCopies
end

