-- ==== Sys2Proof/Laws/Tab.lean ====
section
/-! SUPPORT. The laws of sparse tables: a read after a write, and the canonical form. -/
namespace Sys2Proof.Machine

variable {α : Type}

@[simp] theorem tget_nil (d : Nat → α) (k : Nat) : tget d [] k = d k := rfl

/-- A key just put reads as the value put. -/
@[simp] theorem tget_tput_self (d : Nat → α) (t : List (Nat × α)) (k : Nat) (v : α) : tget d (tput t k v) k = v := by
  induction t with
  | nil => simp [tput, tget]
  | cons e r ih =>
    obtain ⟨j, w⟩ := e
    simp only [tput]
    split
    · simp [tget]
    · split
      · simp [tget]
      · simp [tget, *]

/-- Another key reads as before a put. -/
theorem tget_tput_ne (d : Nat → α) (t : List (Nat × α)) {j k : Nat} (v : α) (h : j ≠ k) :
    tget d (tput t k v) j = tget d t j := by
  induction t with
  | nil => simp [tput, tget, Ne.symm h]
  | cons e r ih =>
    obtain ⟨i, w⟩ := e
    simp only [tput]
    split
    · simp [tget, Ne.symm h]
    · split
      · rename_i e; subst e; simp [tget, Ne.symm h]
      · simp [tget, ih]

theorem tget_tput (d : Nat → α) (t : List (Nat × α)) (j k : Nat) (v : α) :
    tget d (tput t k v) j = if j = k then v else tget d t j := by
  split
  · subst_vars; simp
  · exact tget_tput_ne d t v ‹_›

/-- A key just deleted reads as its default. -/
@[simp] theorem tget_tdel_self (d : Nat → α) (t : List (Nat × α)) (k : Nat) : tget d (tdel k t) k = d k := by
  induction t with
  | nil => rfl
  | cons e r ih =>
    obtain ⟨j, w⟩ := e
    simp only [tdel]
    split
    · exact ih
    · simp [tget, *]

/-- Another key reads as before a deletion. -/
theorem tget_tdel_ne (d : Nat → α) (t : List (Nat × α)) {j k : Nat} (h : j ≠ k) : tget d (tdel k t) j = tget d t j := by
  induction t with
  | nil => rfl
  | cons e r ih =>
    obtain ⟨i, w⟩ := e
    simp only [tdel]
    split
    · rename_i e; subst e; simp [tget, ih, Ne.symm h]
    · simp [tget, ih]

theorem tabove_mono {i j : Nat} (h : i ≤ j) (t : List (Nat × α)) (hj : tabove j t = true) : tabove i t = true := by
  induction t with
  | nil => rfl
  | cons e r ih =>
    obtain ⟨k, v⟩ := e
    simp only [tabove, Bool.and_eq_true, decide_eq_true_eq] at hj ⊢
    exact ⟨by omega, ih hj.2⟩

theorem tabove_tput {i k : Nat} (t : List (Nat × α)) (v : α) (h : i < k) (ht : tabove i t = true) :
    tabove i (tput t k v) = true := by
  induction t with
  | nil => simp [tput, tabove, h]
  | cons e r ih =>
    obtain ⟨j, w⟩ := e
    simp only [tabove, Bool.and_eq_true, decide_eq_true_eq] at ht
    simp only [tput]
    split
    · simp [tabove, h, ht]
    · split
      · simp [tabove, h, ht]
      · simp [tabove, ht, ih ht.2]

theorem tabove_tdel {i k : Nat} (t : List (Nat × α)) (ht : tabove i t = true) : tabove i (tdel k t) = true := by
  induction t with
  | nil => rfl
  | cons e r ih =>
    obtain ⟨j, w⟩ := e
    simp only [tabove, Bool.and_eq_true, decide_eq_true_eq] at ht
    simp only [tdel]
    split
    · exact ih ht.2
    · simp [tabove, ht, ih ht.2]

theorem tabove_filter {i : Nat} (p : Nat × α → Bool) (t : List (Nat × α)) (ht : tabove i t = true) :
    tabove i (t.filter p) = true := by
  induction t with
  | nil => rfl
  | cons e r ih =>
    simp only [tabove, Bool.and_eq_true, decide_eq_true_eq] at ht
    simp only [List.filter]
    split
    · simp [tabove, ht, ih ht.2]
    · exact ih ht.2

/-- What a put of the entries of a table keeps: a predicate of every entry. -/
theorem all_tput {p : Nat × α → Bool} (t : List (Nat × α)) (k : Nat) (v : α) (hv : p (k, v) = true) (ht : t.all p = true) :
    (tput t k v).all p = true := by
  induction t with
  | nil => simp [tput, hv]
  | cons e r ih =>
    obtain ⟨j, w⟩ := e
    simp only [List.all_cons, Bool.and_eq_true] at ht
    simp only [tput]
    split
    · simp only [List.all_cons, hv, ht.1, ht.2, Bool.and_self]
    · split
      · simp only [List.all_cons, hv, ht.2, Bool.and_self]
      · simp only [List.all_cons, ht.1, ih ht.2, Bool.and_self]

/-- A read of a table whose entries and defaults have a property has it. -/
theorem all_tget {p : α → Bool} (d : Nat → α) (t : List (Nat × α)) (k : Nat) (hd : p (d k) = true)
    (ht : t.all (fun e => p e.2) = true) : p (tget d t k) = true := by
  induction t with
  | nil => exact hd
  | cons e r ih =>
    obtain ⟨j, w⟩ := e
    simp only [List.all_cons, Bool.and_eq_true] at ht
    simp only [tget]
    split
    · exact ht.1
    · exact ih ht.2

variable [DecidableEq α]

/-- Memory: a read of the key written gives the value written. -/
@[simp] theorem tget_tset_self (d : Nat → α) (t : List (Nat × α)) (k : Nat) (v : α) : tget d (tset d t k v) k = v := by
  unfold tset; split <;> simp [*]

/-- Memory: a write leaves every other key alone. -/
theorem tget_tset_ne (d : Nat → α) (t : List (Nat × α)) {j k : Nat} (v : α) (h : j ≠ k) :
    tget d (tset d t k v) j = tget d t j := by
  unfold tset; split
  · exact tget_tdel_ne d t h
  · exact tget_tput_ne d t v h

theorem tget_tset (d : Nat → α) (t : List (Nat × α)) (j k : Nat) (v : α) :
    tget d (tset d t k v) j = if j = k then v else tget d t j := by
  split
  · subst_vars; simp
  · exact tget_tset_ne d t v ‹_›

/-- A put of a value that is no default keeps the canonical form. -/
theorem twf_tput (d : Nat → α) (t : List (Nat × α)) (k : Nat) (v : α) (hv : v ≠ d k) (ht : twf d t = true) :
    twf d (tput t k v) = true := by
  induction t with
  | nil => simp [tput, twf, tabove, hv]
  | cons e r ih =>
    obtain ⟨j, w⟩ := e
    have h := ht
    simp only [twf, Bool.and_eq_true] at ht
    simp only [tput]
    split
    · rename_i hk
      simp [twf, hv, tabove, hk, ht, tabove_mono (Nat.le_of_lt hk) r ht.1.2]
    · split
      · rename_i e; subst e; simp [twf, hv, ht]
      · rename_i h1 h2
        simp [twf, ih ht.2, tabove_tput r v (by omega : j < k) ht.1.2]
        simpa using ht.1.1

/-- A deletion keeps the canonical form. -/
theorem twf_tdel (d : Nat → α) (t : List (Nat × α)) (k : Nat) (ht : twf d t = true) : twf d (tdel k t) = true := by
  induction t with
  | nil => rfl
  | cons e r ih =>
    obtain ⟨j, w⟩ := e
    simp only [twf, Bool.and_eq_true] at ht
    simp only [tdel]
    split
    · exact ih ht.2
    · simp [twf, ih ht.2, tabove_tdel r ht.1.2]
      simpa using ht.1.1

/-- Every write keeps the canonical form. -/
theorem twf_tset (d : Nat → α) (t : List (Nat × α)) (k : Nat) (v : α) (ht : twf d t = true) : twf d (tset d t k v) = true := by
  unfold tset; split
  · exact twf_tdel d t k ht
  · exact twf_tput d t k v ‹_› ht

/-- Entries taken out keep the canonical form. -/
theorem twf_filter (d : Nat → α) (p : Nat × α → Bool) (t : List (Nat × α)) (ht : twf d t = true) :
    twf d (t.filter p) = true := by
  induction t with
  | nil => rfl
  | cons e r ih =>
    simp only [twf, Bool.and_eq_true] at ht
    simp only [List.filter]
    split
    · simp [twf, ih ht.2, tabove_filter p r ht.1.2]
      simpa using ht.1.1
    · exact ih ht.2

end Sys2Proof.Machine
end

