-- ==== Sys2Proof/Laws/State.lean ====
section
/-! SUPPORT. What each update of the state leaves in each field, and what is read after an update. -/
namespace Sys2Proof.Machine

@[simp] theorem State.setReg_cycle (s : State) (b i o : Nat) (v : Word) : (s.setReg b i o v).cycle = s.cycle := rfl
@[simp] theorem State.setReg_order (s : State) (b i o : Nat) (v : Word) : (s.setReg b i o v).order = s.order := rfl
@[simp] theorem State.setReg_turn (s : State) (b i o : Nat) (v : Word) : (s.setReg b i o v).turn = s.turn := rfl
@[simp] theorem State.setReg_cur (s : State) (b i o : Nat) (v : Word) : (s.setReg b i o v).cur = s.cur := rfl
@[simp] theorem State.setReg_agenda (s : State) (b i o : Nat) (v : Word) : (s.setReg b i o v).agenda = s.agenda := rfl
@[simp] theorem State.setReg_free (s : State) (b i o : Nat) (v : Word) : (s.setReg b i o v).free = s.free := rfl
@[simp] theorem State.setReg_stamp (s : State) (b i o : Nat) (v : Word) : (s.setReg b i o v).stamp = s.stamp := rfl
@[simp] theorem State.setReg_keyEpoch (s : State) (b i o : Nat) (v : Word) : (s.setReg b i o v).keyEpoch = s.keyEpoch := rfl
@[simp] theorem State.setReg_caps (s : State) (b i o : Nat) (v : Word) : (s.setReg b i o v).caps = s.caps := rfl
@[simp] theorem State.setReg_msix (s : State) (b i o : Nat) (v : Word) : (s.setReg b i o v).msix = s.msix := rfl
@[simp] theorem State.setReg_msixTable (s : State) (b i o : Nat) (v : Word) : (s.setReg b i o v).msixTable = s.msixTable := rfl
@[simp] theorem State.setReg_hbm (s : State) (b i o : Nat) (v : Word) : (s.setReg b i o v).hbm = s.hbm := rfl
@[simp] theorem State.setReg_lines (s : State) (b i o : Nat) (v : Word) : (s.setReg b i o v).lines = s.lines := rfl
@[simp] theorem State.setReg_hostMem (s : State) (b i o : Nat) (v : Word) : (s.setReg b i o v).hostMem = s.hostMem := rfl
@[simp] theorem State.setReg_hostLink (s : State) (b i o : Nat) (v : Word) : (s.setReg b i o v).hostLink = s.hostLink := rfl
@[simp] theorem State.setReg_cells (s : State) (b i o : Nat) (v : Word) : (s.setReg b i o v).cells = s.cells := rfl
@[simp] theorem State.setReg_hbmStacks (s : State) (b i o : Nat) (v : Word) : (s.setReg b i o v).hbmStacks = s.hbmStacks := rfl
@[simp] theorem State.setReg_ports (s : State) (b i o : Nat) (v : Word) : (s.setReg b i o v).ports = s.ports := rfl
@[simp] theorem State.setReg_routes (s : State) (b i o : Nat) (v : Word) : (s.setReg b i o v).routes = s.routes := rfl
@[simp] theorem State.setReg_routePend (s : State) (b i o : Nat) (v : Word) : (s.setReg b i o v).routePend = s.routePend := rfl
@[simp] theorem State.setReg_tx (s : State) (b i o : Nat) (v : Word) : (s.setReg b i o v).tx = s.tx := rfl
@[simp] theorem State.setReg_rx (s : State) (b i o : Nat) (v : Word) : (s.setReg b i o v).rx = s.rx := rfl
@[simp] theorem State.setReg_outbox (s : State) (b i o : Nat) (v : Word) : (s.setReg b i o v).outbox = s.outbox := rfl
@[simp] theorem State.setReg_nonce (s : State) (b i o : Nat) (v : Word) : (s.setReg b i o v).nonce = s.nonce := rfl
@[simp] theorem State.setReg_dies (s : State) (b i o : Nat) (v : Word) : (s.setReg b i o v).dies = s.dies := rfl
@[simp] theorem State.setReg_graphs (s : State) (b i o : Nat) (v : Word) : (s.setReg b i o v).graphs = s.graphs := rfl
@[simp] theorem State.setReg_parts (s : State) (b i o : Nat) (v : Word) : (s.setReg b i o v).parts = s.parts := rfl
@[simp] theorem State.setReg_chans (s : State) (b i o : Nat) (v : Word) : (s.setReg b i o v).chans = s.chans := rfl
@[simp] theorem State.setReg_service (s : State) (b i o : Nat) (v : Word) : (s.setReg b i o v).service = s.service := rfl
@[simp] theorem State.setReg_fetchBuf (s : State) (b i o : Nat) (v : Word) : (s.setReg b i o v).fetchBuf = s.fetchBuf := rfl
@[simp] theorem State.setReg_flights (s : State) (b i o : Nat) (v : Word) : (s.setReg b i o v).flights = s.flights := rfl
@[simp] theorem State.setReg_trace (s : State) (b i o : Nat) (v : Word) : (s.setReg b i o v).trace = s.trace := rfl

@[simp] theorem State.setFld_cycle (s : State) (b i o lo n v : Nat) : (s.setFld b i o lo n v).cycle = s.cycle := rfl
@[simp] theorem State.setFld_order (s : State) (b i o lo n v : Nat) : (s.setFld b i o lo n v).order = s.order := rfl
@[simp] theorem State.setFld_turn (s : State) (b i o lo n v : Nat) : (s.setFld b i o lo n v).turn = s.turn := rfl
@[simp] theorem State.setFld_cur (s : State) (b i o lo n v : Nat) : (s.setFld b i o lo n v).cur = s.cur := rfl
@[simp] theorem State.setFld_agenda (s : State) (b i o lo n v : Nat) : (s.setFld b i o lo n v).agenda = s.agenda := rfl
@[simp] theorem State.setFld_free (s : State) (b i o lo n v : Nat) : (s.setFld b i o lo n v).free = s.free := rfl
@[simp] theorem State.setFld_stamp (s : State) (b i o lo n v : Nat) : (s.setFld b i o lo n v).stamp = s.stamp := rfl
@[simp] theorem State.setFld_keyEpoch (s : State) (b i o lo n v : Nat) : (s.setFld b i o lo n v).keyEpoch = s.keyEpoch := rfl
@[simp] theorem State.setFld_caps (s : State) (b i o lo n v : Nat) : (s.setFld b i o lo n v).caps = s.caps := rfl
@[simp] theorem State.setFld_msix (s : State) (b i o lo n v : Nat) : (s.setFld b i o lo n v).msix = s.msix := rfl
@[simp] theorem State.setFld_msixTable (s : State) (b i o lo n v : Nat) : (s.setFld b i o lo n v).msixTable = s.msixTable := rfl
@[simp] theorem State.setFld_hbm (s : State) (b i o lo n v : Nat) : (s.setFld b i o lo n v).hbm = s.hbm := rfl
@[simp] theorem State.setFld_lines (s : State) (b i o lo n v : Nat) : (s.setFld b i o lo n v).lines = s.lines := rfl
@[simp] theorem State.setFld_hostMem (s : State) (b i o lo n v : Nat) : (s.setFld b i o lo n v).hostMem = s.hostMem := rfl
@[simp] theorem State.setFld_hostLink (s : State) (b i o lo n v : Nat) : (s.setFld b i o lo n v).hostLink = s.hostLink := rfl
@[simp] theorem State.setFld_cells (s : State) (b i o lo n v : Nat) : (s.setFld b i o lo n v).cells = s.cells := rfl
@[simp] theorem State.setFld_hbmStacks (s : State) (b i o lo n v : Nat) : (s.setFld b i o lo n v).hbmStacks = s.hbmStacks := rfl
@[simp] theorem State.setFld_ports (s : State) (b i o lo n v : Nat) : (s.setFld b i o lo n v).ports = s.ports := rfl
@[simp] theorem State.setFld_routes (s : State) (b i o lo n v : Nat) : (s.setFld b i o lo n v).routes = s.routes := rfl
@[simp] theorem State.setFld_routePend (s : State) (b i o lo n v : Nat) : (s.setFld b i o lo n v).routePend = s.routePend := rfl
@[simp] theorem State.setFld_tx (s : State) (b i o lo n v : Nat) : (s.setFld b i o lo n v).tx = s.tx := rfl
@[simp] theorem State.setFld_rx (s : State) (b i o lo n v : Nat) : (s.setFld b i o lo n v).rx = s.rx := rfl
@[simp] theorem State.setFld_outbox (s : State) (b i o lo n v : Nat) : (s.setFld b i o lo n v).outbox = s.outbox := rfl
@[simp] theorem State.setFld_nonce (s : State) (b i o lo n v : Nat) : (s.setFld b i o lo n v).nonce = s.nonce := rfl
@[simp] theorem State.setFld_dies (s : State) (b i o lo n v : Nat) : (s.setFld b i o lo n v).dies = s.dies := rfl
@[simp] theorem State.setFld_graphs (s : State) (b i o lo n v : Nat) : (s.setFld b i o lo n v).graphs = s.graphs := rfl
@[simp] theorem State.setFld_parts (s : State) (b i o lo n v : Nat) : (s.setFld b i o lo n v).parts = s.parts := rfl
@[simp] theorem State.setFld_chans (s : State) (b i o lo n v : Nat) : (s.setFld b i o lo n v).chans = s.chans := rfl
@[simp] theorem State.setFld_service (s : State) (b i o lo n v : Nat) : (s.setFld b i o lo n v).service = s.service := rfl
@[simp] theorem State.setFld_fetchBuf (s : State) (b i o lo n v : Nat) : (s.setFld b i o lo n v).fetchBuf = s.fetchBuf := rfl
@[simp] theorem State.setFld_flights (s : State) (b i o lo n v : Nat) : (s.setFld b i o lo n v).flights = s.flights := rfl
@[simp] theorem State.setFld_trace (s : State) (b i o lo n v : Nat) : (s.setFld b i o lo n v).trace = s.trace := rfl

@[simp] theorem State.bump_cycle (s : State) (b i o lo n k : Nat) : (s.bump b i o lo n k).cycle = s.cycle := rfl
@[simp] theorem State.bump_order (s : State) (b i o lo n k : Nat) : (s.bump b i o lo n k).order = s.order := rfl
@[simp] theorem State.bump_turn (s : State) (b i o lo n k : Nat) : (s.bump b i o lo n k).turn = s.turn := rfl
@[simp] theorem State.bump_cur (s : State) (b i o lo n k : Nat) : (s.bump b i o lo n k).cur = s.cur := rfl
@[simp] theorem State.bump_agenda (s : State) (b i o lo n k : Nat) : (s.bump b i o lo n k).agenda = s.agenda := rfl
@[simp] theorem State.bump_free (s : State) (b i o lo n k : Nat) : (s.bump b i o lo n k).free = s.free := rfl
@[simp] theorem State.bump_stamp (s : State) (b i o lo n k : Nat) : (s.bump b i o lo n k).stamp = s.stamp := rfl
@[simp] theorem State.bump_keyEpoch (s : State) (b i o lo n k : Nat) : (s.bump b i o lo n k).keyEpoch = s.keyEpoch := rfl
@[simp] theorem State.bump_caps (s : State) (b i o lo n k : Nat) : (s.bump b i o lo n k).caps = s.caps := rfl
@[simp] theorem State.bump_msix (s : State) (b i o lo n k : Nat) : (s.bump b i o lo n k).msix = s.msix := rfl
@[simp] theorem State.bump_msixTable (s : State) (b i o lo n k : Nat) : (s.bump b i o lo n k).msixTable = s.msixTable := rfl
@[simp] theorem State.bump_hbm (s : State) (b i o lo n k : Nat) : (s.bump b i o lo n k).hbm = s.hbm := rfl
@[simp] theorem State.bump_lines (s : State) (b i o lo n k : Nat) : (s.bump b i o lo n k).lines = s.lines := rfl
@[simp] theorem State.bump_hostMem (s : State) (b i o lo n k : Nat) : (s.bump b i o lo n k).hostMem = s.hostMem := rfl
@[simp] theorem State.bump_hostLink (s : State) (b i o lo n k : Nat) : (s.bump b i o lo n k).hostLink = s.hostLink := rfl
@[simp] theorem State.bump_cells (s : State) (b i o lo n k : Nat) : (s.bump b i o lo n k).cells = s.cells := rfl
@[simp] theorem State.bump_hbmStacks (s : State) (b i o lo n k : Nat) : (s.bump b i o lo n k).hbmStacks = s.hbmStacks := rfl
@[simp] theorem State.bump_ports (s : State) (b i o lo n k : Nat) : (s.bump b i o lo n k).ports = s.ports := rfl
@[simp] theorem State.bump_routes (s : State) (b i o lo n k : Nat) : (s.bump b i o lo n k).routes = s.routes := rfl
@[simp] theorem State.bump_routePend (s : State) (b i o lo n k : Nat) : (s.bump b i o lo n k).routePend = s.routePend := rfl
@[simp] theorem State.bump_tx (s : State) (b i o lo n k : Nat) : (s.bump b i o lo n k).tx = s.tx := rfl
@[simp] theorem State.bump_rx (s : State) (b i o lo n k : Nat) : (s.bump b i o lo n k).rx = s.rx := rfl
@[simp] theorem State.bump_outbox (s : State) (b i o lo n k : Nat) : (s.bump b i o lo n k).outbox = s.outbox := rfl
@[simp] theorem State.bump_nonce (s : State) (b i o lo n k : Nat) : (s.bump b i o lo n k).nonce = s.nonce := rfl
@[simp] theorem State.bump_dies (s : State) (b i o lo n k : Nat) : (s.bump b i o lo n k).dies = s.dies := rfl
@[simp] theorem State.bump_graphs (s : State) (b i o lo n k : Nat) : (s.bump b i o lo n k).graphs = s.graphs := rfl
@[simp] theorem State.bump_parts (s : State) (b i o lo n k : Nat) : (s.bump b i o lo n k).parts = s.parts := rfl
@[simp] theorem State.bump_chans (s : State) (b i o lo n k : Nat) : (s.bump b i o lo n k).chans = s.chans := rfl
@[simp] theorem State.bump_service (s : State) (b i o lo n k : Nat) : (s.bump b i o lo n k).service = s.service := rfl
@[simp] theorem State.bump_fetchBuf (s : State) (b i o lo n k : Nat) : (s.bump b i o lo n k).fetchBuf = s.fetchBuf := rfl
@[simp] theorem State.bump_flights (s : State) (b i o lo n k : Nat) : (s.bump b i o lo n k).flights = s.flights := rfl
@[simp] theorem State.bump_trace (s : State) (b i o lo n k : Nat) : (s.bump b i o lo n k).trace = s.trace := rfl

@[simp] theorem State.setCell_cycle (s : State) (n : Nat) (c : Cell) : (s.setCell n c).cycle = s.cycle := rfl
@[simp] theorem State.setCell_order (s : State) (n : Nat) (c : Cell) : (s.setCell n c).order = s.order := rfl
@[simp] theorem State.setCell_turn (s : State) (n : Nat) (c : Cell) : (s.setCell n c).turn = s.turn := rfl
@[simp] theorem State.setCell_cur (s : State) (n : Nat) (c : Cell) : (s.setCell n c).cur = s.cur := rfl
@[simp] theorem State.setCell_agenda (s : State) (n : Nat) (c : Cell) : (s.setCell n c).agenda = s.agenda := rfl
@[simp] theorem State.setCell_free (s : State) (n : Nat) (c : Cell) : (s.setCell n c).free = s.free := rfl
@[simp] theorem State.setCell_stamp (s : State) (n : Nat) (c : Cell) : (s.setCell n c).stamp = s.stamp := rfl
@[simp] theorem State.setCell_keyEpoch (s : State) (n : Nat) (c : Cell) : (s.setCell n c).keyEpoch = s.keyEpoch := rfl
@[simp] theorem State.setCell_regs (s : State) (n : Nat) (c : Cell) : (s.setCell n c).regs = s.regs := rfl
@[simp] theorem State.setCell_caps (s : State) (n : Nat) (c : Cell) : (s.setCell n c).caps = s.caps := rfl
@[simp] theorem State.setCell_msix (s : State) (n : Nat) (c : Cell) : (s.setCell n c).msix = s.msix := rfl
@[simp] theorem State.setCell_msixTable (s : State) (n : Nat) (c : Cell) : (s.setCell n c).msixTable = s.msixTable := rfl
@[simp] theorem State.setCell_hbm (s : State) (n : Nat) (c : Cell) : (s.setCell n c).hbm = s.hbm := rfl
@[simp] theorem State.setCell_lines (s : State) (n : Nat) (c : Cell) : (s.setCell n c).lines = s.lines := rfl
@[simp] theorem State.setCell_hostMem (s : State) (n : Nat) (c : Cell) : (s.setCell n c).hostMem = s.hostMem := rfl
@[simp] theorem State.setCell_hostLink (s : State) (n : Nat) (c : Cell) : (s.setCell n c).hostLink = s.hostLink := rfl
@[simp] theorem State.setCell_hbmStacks (s : State) (n : Nat) (c : Cell) : (s.setCell n c).hbmStacks = s.hbmStacks := rfl
@[simp] theorem State.setCell_ports (s : State) (n : Nat) (c : Cell) : (s.setCell n c).ports = s.ports := rfl
@[simp] theorem State.setCell_routes (s : State) (n : Nat) (c : Cell) : (s.setCell n c).routes = s.routes := rfl
@[simp] theorem State.setCell_routePend (s : State) (n : Nat) (c : Cell) : (s.setCell n c).routePend = s.routePend := rfl
@[simp] theorem State.setCell_tx (s : State) (n : Nat) (c : Cell) : (s.setCell n c).tx = s.tx := rfl
@[simp] theorem State.setCell_rx (s : State) (n : Nat) (c : Cell) : (s.setCell n c).rx = s.rx := rfl
@[simp] theorem State.setCell_outbox (s : State) (n : Nat) (c : Cell) : (s.setCell n c).outbox = s.outbox := rfl
@[simp] theorem State.setCell_nonce (s : State) (n : Nat) (c : Cell) : (s.setCell n c).nonce = s.nonce := rfl
@[simp] theorem State.setCell_dies (s : State) (n : Nat) (c : Cell) : (s.setCell n c).dies = s.dies := rfl
@[simp] theorem State.setCell_graphs (s : State) (n : Nat) (c : Cell) : (s.setCell n c).graphs = s.graphs := rfl
@[simp] theorem State.setCell_parts (s : State) (n : Nat) (c : Cell) : (s.setCell n c).parts = s.parts := rfl
@[simp] theorem State.setCell_chans (s : State) (n : Nat) (c : Cell) : (s.setCell n c).chans = s.chans := rfl
@[simp] theorem State.setCell_service (s : State) (n : Nat) (c : Cell) : (s.setCell n c).service = s.service := rfl
@[simp] theorem State.setCell_fetchBuf (s : State) (n : Nat) (c : Cell) : (s.setCell n c).fetchBuf = s.fetchBuf := rfl
@[simp] theorem State.setCell_flights (s : State) (n : Nat) (c : Cell) : (s.setCell n c).flights = s.flights := rfl
@[simp] theorem State.setCell_trace (s : State) (n : Nat) (c : Cell) : (s.setCell n c).trace = s.trace := rfl

@[simp] theorem State.setThrOpt_cycle (s : State) (n k : Nat) (t : Option Thread) : (s.setThr? n k t).cycle = s.cycle := rfl
@[simp] theorem State.setThrOpt_order (s : State) (n k : Nat) (t : Option Thread) : (s.setThr? n k t).order = s.order := rfl
@[simp] theorem State.setThrOpt_turn (s : State) (n k : Nat) (t : Option Thread) : (s.setThr? n k t).turn = s.turn := rfl
@[simp] theorem State.setThrOpt_cur (s : State) (n k : Nat) (t : Option Thread) : (s.setThr? n k t).cur = s.cur := rfl
@[simp] theorem State.setThrOpt_agenda (s : State) (n k : Nat) (t : Option Thread) : (s.setThr? n k t).agenda = s.agenda := rfl
@[simp] theorem State.setThrOpt_free (s : State) (n k : Nat) (t : Option Thread) : (s.setThr? n k t).free = s.free := rfl
@[simp] theorem State.setThrOpt_stamp (s : State) (n k : Nat) (t : Option Thread) : (s.setThr? n k t).stamp = s.stamp := rfl
@[simp] theorem State.setThrOpt_keyEpoch (s : State) (n k : Nat) (t : Option Thread) : (s.setThr? n k t).keyEpoch = s.keyEpoch := rfl
@[simp] theorem State.setThrOpt_regs (s : State) (n k : Nat) (t : Option Thread) : (s.setThr? n k t).regs = s.regs := rfl
@[simp] theorem State.setThrOpt_caps (s : State) (n k : Nat) (t : Option Thread) : (s.setThr? n k t).caps = s.caps := rfl
@[simp] theorem State.setThrOpt_msix (s : State) (n k : Nat) (t : Option Thread) : (s.setThr? n k t).msix = s.msix := rfl
@[simp] theorem State.setThrOpt_msixTable (s : State) (n k : Nat) (t : Option Thread) : (s.setThr? n k t).msixTable = s.msixTable := rfl
@[simp] theorem State.setThrOpt_hbm (s : State) (n k : Nat) (t : Option Thread) : (s.setThr? n k t).hbm = s.hbm := rfl
@[simp] theorem State.setThrOpt_lines (s : State) (n k : Nat) (t : Option Thread) : (s.setThr? n k t).lines = s.lines := rfl
@[simp] theorem State.setThrOpt_hostMem (s : State) (n k : Nat) (t : Option Thread) : (s.setThr? n k t).hostMem = s.hostMem := rfl
@[simp] theorem State.setThrOpt_hostLink (s : State) (n k : Nat) (t : Option Thread) : (s.setThr? n k t).hostLink = s.hostLink := rfl
@[simp] theorem State.setThrOpt_hbmStacks (s : State) (n k : Nat) (t : Option Thread) : (s.setThr? n k t).hbmStacks = s.hbmStacks := rfl
@[simp] theorem State.setThrOpt_ports (s : State) (n k : Nat) (t : Option Thread) : (s.setThr? n k t).ports = s.ports := rfl
@[simp] theorem State.setThrOpt_routes (s : State) (n k : Nat) (t : Option Thread) : (s.setThr? n k t).routes = s.routes := rfl
@[simp] theorem State.setThrOpt_routePend (s : State) (n k : Nat) (t : Option Thread) : (s.setThr? n k t).routePend = s.routePend := rfl
@[simp] theorem State.setThrOpt_tx (s : State) (n k : Nat) (t : Option Thread) : (s.setThr? n k t).tx = s.tx := rfl
@[simp] theorem State.setThrOpt_rx (s : State) (n k : Nat) (t : Option Thread) : (s.setThr? n k t).rx = s.rx := rfl
@[simp] theorem State.setThrOpt_outbox (s : State) (n k : Nat) (t : Option Thread) : (s.setThr? n k t).outbox = s.outbox := rfl
@[simp] theorem State.setThrOpt_nonce (s : State) (n k : Nat) (t : Option Thread) : (s.setThr? n k t).nonce = s.nonce := rfl
@[simp] theorem State.setThrOpt_dies (s : State) (n k : Nat) (t : Option Thread) : (s.setThr? n k t).dies = s.dies := rfl
@[simp] theorem State.setThrOpt_graphs (s : State) (n k : Nat) (t : Option Thread) : (s.setThr? n k t).graphs = s.graphs := rfl
@[simp] theorem State.setThrOpt_parts (s : State) (n k : Nat) (t : Option Thread) : (s.setThr? n k t).parts = s.parts := rfl
@[simp] theorem State.setThrOpt_chans (s : State) (n k : Nat) (t : Option Thread) : (s.setThr? n k t).chans = s.chans := rfl
@[simp] theorem State.setThrOpt_service (s : State) (n k : Nat) (t : Option Thread) : (s.setThr? n k t).service = s.service := rfl
@[simp] theorem State.setThrOpt_fetchBuf (s : State) (n k : Nat) (t : Option Thread) : (s.setThr? n k t).fetchBuf = s.fetchBuf := rfl
@[simp] theorem State.setThrOpt_flights (s : State) (n k : Nat) (t : Option Thread) : (s.setThr? n k t).flights = s.flights := rfl
@[simp] theorem State.setThrOpt_trace (s : State) (n k : Nat) (t : Option Thread) : (s.setThr? n k t).trace = s.trace := rfl

@[simp] theorem State.setThrAt_cycle (s : State) (n k : Nat) (t : Thread) : (s.setThrAt n k t).cycle = s.cycle := rfl
@[simp] theorem State.setThrAt_order (s : State) (n k : Nat) (t : Thread) : (s.setThrAt n k t).order = s.order := rfl
@[simp] theorem State.setThrAt_turn (s : State) (n k : Nat) (t : Thread) : (s.setThrAt n k t).turn = s.turn := rfl
@[simp] theorem State.setThrAt_cur (s : State) (n k : Nat) (t : Thread) : (s.setThrAt n k t).cur = s.cur := rfl
@[simp] theorem State.setThrAt_agenda (s : State) (n k : Nat) (t : Thread) : (s.setThrAt n k t).agenda = s.agenda := rfl
@[simp] theorem State.setThrAt_free (s : State) (n k : Nat) (t : Thread) : (s.setThrAt n k t).free = s.free := rfl
@[simp] theorem State.setThrAt_stamp (s : State) (n k : Nat) (t : Thread) : (s.setThrAt n k t).stamp = s.stamp := rfl
@[simp] theorem State.setThrAt_keyEpoch (s : State) (n k : Nat) (t : Thread) : (s.setThrAt n k t).keyEpoch = s.keyEpoch := rfl
@[simp] theorem State.setThrAt_regs (s : State) (n k : Nat) (t : Thread) : (s.setThrAt n k t).regs = s.regs := rfl
@[simp] theorem State.setThrAt_caps (s : State) (n k : Nat) (t : Thread) : (s.setThrAt n k t).caps = s.caps := rfl
@[simp] theorem State.setThrAt_msix (s : State) (n k : Nat) (t : Thread) : (s.setThrAt n k t).msix = s.msix := rfl
@[simp] theorem State.setThrAt_msixTable (s : State) (n k : Nat) (t : Thread) : (s.setThrAt n k t).msixTable = s.msixTable := rfl
@[simp] theorem State.setThrAt_hbm (s : State) (n k : Nat) (t : Thread) : (s.setThrAt n k t).hbm = s.hbm := rfl
@[simp] theorem State.setThrAt_lines (s : State) (n k : Nat) (t : Thread) : (s.setThrAt n k t).lines = s.lines := rfl
@[simp] theorem State.setThrAt_hostMem (s : State) (n k : Nat) (t : Thread) : (s.setThrAt n k t).hostMem = s.hostMem := rfl
@[simp] theorem State.setThrAt_hostLink (s : State) (n k : Nat) (t : Thread) : (s.setThrAt n k t).hostLink = s.hostLink := rfl
@[simp] theorem State.setThrAt_hbmStacks (s : State) (n k : Nat) (t : Thread) : (s.setThrAt n k t).hbmStacks = s.hbmStacks := rfl
@[simp] theorem State.setThrAt_ports (s : State) (n k : Nat) (t : Thread) : (s.setThrAt n k t).ports = s.ports := rfl
@[simp] theorem State.setThrAt_routes (s : State) (n k : Nat) (t : Thread) : (s.setThrAt n k t).routes = s.routes := rfl
@[simp] theorem State.setThrAt_routePend (s : State) (n k : Nat) (t : Thread) : (s.setThrAt n k t).routePend = s.routePend := rfl
@[simp] theorem State.setThrAt_tx (s : State) (n k : Nat) (t : Thread) : (s.setThrAt n k t).tx = s.tx := rfl
@[simp] theorem State.setThrAt_rx (s : State) (n k : Nat) (t : Thread) : (s.setThrAt n k t).rx = s.rx := rfl
@[simp] theorem State.setThrAt_outbox (s : State) (n k : Nat) (t : Thread) : (s.setThrAt n k t).outbox = s.outbox := rfl
@[simp] theorem State.setThrAt_nonce (s : State) (n k : Nat) (t : Thread) : (s.setThrAt n k t).nonce = s.nonce := rfl
@[simp] theorem State.setThrAt_dies (s : State) (n k : Nat) (t : Thread) : (s.setThrAt n k t).dies = s.dies := rfl
@[simp] theorem State.setThrAt_graphs (s : State) (n k : Nat) (t : Thread) : (s.setThrAt n k t).graphs = s.graphs := rfl
@[simp] theorem State.setThrAt_parts (s : State) (n k : Nat) (t : Thread) : (s.setThrAt n k t).parts = s.parts := rfl
@[simp] theorem State.setThrAt_chans (s : State) (n k : Nat) (t : Thread) : (s.setThrAt n k t).chans = s.chans := rfl
@[simp] theorem State.setThrAt_service (s : State) (n k : Nat) (t : Thread) : (s.setThrAt n k t).service = s.service := rfl
@[simp] theorem State.setThrAt_fetchBuf (s : State) (n k : Nat) (t : Thread) : (s.setThrAt n k t).fetchBuf = s.fetchBuf := rfl
@[simp] theorem State.setThrAt_flights (s : State) (n k : Nat) (t : Thread) : (s.setThrAt n k t).flights = s.flights := rfl
@[simp] theorem State.setThrAt_trace (s : State) (n k : Nat) (t : Thread) : (s.setThrAt n k t).trace = s.trace := rfl

@[simp] theorem State.setThr_cycle (s : State) (t : Thread) : (s.setThr t).cycle = s.cycle := rfl
@[simp] theorem State.setThr_order (s : State) (t : Thread) : (s.setThr t).order = s.order := rfl
@[simp] theorem State.setThr_turn (s : State) (t : Thread) : (s.setThr t).turn = s.turn := rfl
@[simp] theorem State.setThr_cur (s : State) (t : Thread) : (s.setThr t).cur = s.cur := rfl
@[simp] theorem State.setThr_agenda (s : State) (t : Thread) : (s.setThr t).agenda = s.agenda := rfl
@[simp] theorem State.setThr_free (s : State) (t : Thread) : (s.setThr t).free = s.free := rfl
@[simp] theorem State.setThr_stamp (s : State) (t : Thread) : (s.setThr t).stamp = s.stamp := rfl
@[simp] theorem State.setThr_keyEpoch (s : State) (t : Thread) : (s.setThr t).keyEpoch = s.keyEpoch := rfl
@[simp] theorem State.setThr_regs (s : State) (t : Thread) : (s.setThr t).regs = s.regs := rfl
@[simp] theorem State.setThr_caps (s : State) (t : Thread) : (s.setThr t).caps = s.caps := rfl
@[simp] theorem State.setThr_msix (s : State) (t : Thread) : (s.setThr t).msix = s.msix := rfl
@[simp] theorem State.setThr_msixTable (s : State) (t : Thread) : (s.setThr t).msixTable = s.msixTable := rfl
@[simp] theorem State.setThr_hbm (s : State) (t : Thread) : (s.setThr t).hbm = s.hbm := rfl
@[simp] theorem State.setThr_lines (s : State) (t : Thread) : (s.setThr t).lines = s.lines := rfl
@[simp] theorem State.setThr_hostMem (s : State) (t : Thread) : (s.setThr t).hostMem = s.hostMem := rfl
@[simp] theorem State.setThr_hostLink (s : State) (t : Thread) : (s.setThr t).hostLink = s.hostLink := rfl
@[simp] theorem State.setThr_hbmStacks (s : State) (t : Thread) : (s.setThr t).hbmStacks = s.hbmStacks := rfl
@[simp] theorem State.setThr_ports (s : State) (t : Thread) : (s.setThr t).ports = s.ports := rfl
@[simp] theorem State.setThr_routes (s : State) (t : Thread) : (s.setThr t).routes = s.routes := rfl
@[simp] theorem State.setThr_routePend (s : State) (t : Thread) : (s.setThr t).routePend = s.routePend := rfl
@[simp] theorem State.setThr_tx (s : State) (t : Thread) : (s.setThr t).tx = s.tx := rfl
@[simp] theorem State.setThr_rx (s : State) (t : Thread) : (s.setThr t).rx = s.rx := rfl
@[simp] theorem State.setThr_outbox (s : State) (t : Thread) : (s.setThr t).outbox = s.outbox := rfl
@[simp] theorem State.setThr_nonce (s : State) (t : Thread) : (s.setThr t).nonce = s.nonce := rfl
@[simp] theorem State.setThr_dies (s : State) (t : Thread) : (s.setThr t).dies = s.dies := rfl
@[simp] theorem State.setThr_graphs (s : State) (t : Thread) : (s.setThr t).graphs = s.graphs := rfl
@[simp] theorem State.setThr_parts (s : State) (t : Thread) : (s.setThr t).parts = s.parts := rfl
@[simp] theorem State.setThr_chans (s : State) (t : Thread) : (s.setThr t).chans = s.chans := rfl
@[simp] theorem State.setThr_service (s : State) (t : Thread) : (s.setThr t).service = s.service := rfl
@[simp] theorem State.setThr_fetchBuf (s : State) (t : Thread) : (s.setThr t).fetchBuf = s.fetchBuf := rfl
@[simp] theorem State.setThr_flights (s : State) (t : Thread) : (s.setThr t).flights = s.flights := rfl
@[simp] theorem State.setThr_trace (s : State) (t : Thread) : (s.setThr t).trace = s.trace := rfl

@[simp] theorem State.orSt_cycle (s : State) (fl : Nat) : (s.orSt fl).cycle = s.cycle := rfl
@[simp] theorem State.orSt_order (s : State) (fl : Nat) : (s.orSt fl).order = s.order := rfl
@[simp] theorem State.orSt_turn (s : State) (fl : Nat) : (s.orSt fl).turn = s.turn := rfl
@[simp] theorem State.orSt_cur (s : State) (fl : Nat) : (s.orSt fl).cur = s.cur := rfl
@[simp] theorem State.orSt_agenda (s : State) (fl : Nat) : (s.orSt fl).agenda = s.agenda := rfl
@[simp] theorem State.orSt_free (s : State) (fl : Nat) : (s.orSt fl).free = s.free := rfl
@[simp] theorem State.orSt_stamp (s : State) (fl : Nat) : (s.orSt fl).stamp = s.stamp := rfl
@[simp] theorem State.orSt_keyEpoch (s : State) (fl : Nat) : (s.orSt fl).keyEpoch = s.keyEpoch := rfl
@[simp] theorem State.orSt_regs (s : State) (fl : Nat) : (s.orSt fl).regs = s.regs := rfl
@[simp] theorem State.orSt_caps (s : State) (fl : Nat) : (s.orSt fl).caps = s.caps := rfl
@[simp] theorem State.orSt_msix (s : State) (fl : Nat) : (s.orSt fl).msix = s.msix := rfl
@[simp] theorem State.orSt_msixTable (s : State) (fl : Nat) : (s.orSt fl).msixTable = s.msixTable := rfl
@[simp] theorem State.orSt_hbm (s : State) (fl : Nat) : (s.orSt fl).hbm = s.hbm := rfl
@[simp] theorem State.orSt_lines (s : State) (fl : Nat) : (s.orSt fl).lines = s.lines := rfl
@[simp] theorem State.orSt_hostMem (s : State) (fl : Nat) : (s.orSt fl).hostMem = s.hostMem := rfl
@[simp] theorem State.orSt_hostLink (s : State) (fl : Nat) : (s.orSt fl).hostLink = s.hostLink := rfl
@[simp] theorem State.orSt_hbmStacks (s : State) (fl : Nat) : (s.orSt fl).hbmStacks = s.hbmStacks := rfl
@[simp] theorem State.orSt_ports (s : State) (fl : Nat) : (s.orSt fl).ports = s.ports := rfl
@[simp] theorem State.orSt_routes (s : State) (fl : Nat) : (s.orSt fl).routes = s.routes := rfl
@[simp] theorem State.orSt_routePend (s : State) (fl : Nat) : (s.orSt fl).routePend = s.routePend := rfl
@[simp] theorem State.orSt_tx (s : State) (fl : Nat) : (s.orSt fl).tx = s.tx := rfl
@[simp] theorem State.orSt_rx (s : State) (fl : Nat) : (s.orSt fl).rx = s.rx := rfl
@[simp] theorem State.orSt_outbox (s : State) (fl : Nat) : (s.orSt fl).outbox = s.outbox := rfl
@[simp] theorem State.orSt_nonce (s : State) (fl : Nat) : (s.orSt fl).nonce = s.nonce := rfl
@[simp] theorem State.orSt_dies (s : State) (fl : Nat) : (s.orSt fl).dies = s.dies := rfl
@[simp] theorem State.orSt_graphs (s : State) (fl : Nat) : (s.orSt fl).graphs = s.graphs := rfl
@[simp] theorem State.orSt_parts (s : State) (fl : Nat) : (s.orSt fl).parts = s.parts := rfl
@[simp] theorem State.orSt_chans (s : State) (fl : Nat) : (s.orSt fl).chans = s.chans := rfl
@[simp] theorem State.orSt_service (s : State) (fl : Nat) : (s.orSt fl).service = s.service := rfl
@[simp] theorem State.orSt_fetchBuf (s : State) (fl : Nat) : (s.orSt fl).fetchBuf = s.fetchBuf := rfl
@[simp] theorem State.orSt_flights (s : State) (fl : Nat) : (s.orSt fl).flights = s.flights := rfl
@[simp] theorem State.orSt_trace (s : State) (fl : Nat) : (s.orSt fl).trace = s.trace := rfl

@[simp] theorem State.setFull_cycle (s : State) (r : Nat) (b : Bool) : (s.setFull r b).cycle = s.cycle := rfl
@[simp] theorem State.setFull_order (s : State) (r : Nat) (b : Bool) : (s.setFull r b).order = s.order := rfl
@[simp] theorem State.setFull_turn (s : State) (r : Nat) (b : Bool) : (s.setFull r b).turn = s.turn := rfl
@[simp] theorem State.setFull_cur (s : State) (r : Nat) (b : Bool) : (s.setFull r b).cur = s.cur := rfl
@[simp] theorem State.setFull_agenda (s : State) (r : Nat) (b : Bool) : (s.setFull r b).agenda = s.agenda := rfl
@[simp] theorem State.setFull_free (s : State) (r : Nat) (b : Bool) : (s.setFull r b).free = s.free := rfl
@[simp] theorem State.setFull_stamp (s : State) (r : Nat) (b : Bool) : (s.setFull r b).stamp = s.stamp := rfl
@[simp] theorem State.setFull_keyEpoch (s : State) (r : Nat) (b : Bool) : (s.setFull r b).keyEpoch = s.keyEpoch := rfl
@[simp] theorem State.setFull_regs (s : State) (r : Nat) (b : Bool) : (s.setFull r b).regs = s.regs := rfl
@[simp] theorem State.setFull_caps (s : State) (r : Nat) (b : Bool) : (s.setFull r b).caps = s.caps := rfl
@[simp] theorem State.setFull_msix (s : State) (r : Nat) (b : Bool) : (s.setFull r b).msix = s.msix := rfl
@[simp] theorem State.setFull_msixTable (s : State) (r : Nat) (b : Bool) : (s.setFull r b).msixTable = s.msixTable := rfl
@[simp] theorem State.setFull_hbm (s : State) (r : Nat) (b : Bool) : (s.setFull r b).hbm = s.hbm := rfl
@[simp] theorem State.setFull_lines (s : State) (r : Nat) (b : Bool) : (s.setFull r b).lines = s.lines := rfl
@[simp] theorem State.setFull_hostMem (s : State) (r : Nat) (b : Bool) : (s.setFull r b).hostMem = s.hostMem := rfl
@[simp] theorem State.setFull_hostLink (s : State) (r : Nat) (b : Bool) : (s.setFull r b).hostLink = s.hostLink := rfl
@[simp] theorem State.setFull_hbmStacks (s : State) (r : Nat) (b : Bool) : (s.setFull r b).hbmStacks = s.hbmStacks := rfl
@[simp] theorem State.setFull_ports (s : State) (r : Nat) (b : Bool) : (s.setFull r b).ports = s.ports := rfl
@[simp] theorem State.setFull_routes (s : State) (r : Nat) (b : Bool) : (s.setFull r b).routes = s.routes := rfl
@[simp] theorem State.setFull_routePend (s : State) (r : Nat) (b : Bool) : (s.setFull r b).routePend = s.routePend := rfl
@[simp] theorem State.setFull_tx (s : State) (r : Nat) (b : Bool) : (s.setFull r b).tx = s.tx := rfl
@[simp] theorem State.setFull_rx (s : State) (r : Nat) (b : Bool) : (s.setFull r b).rx = s.rx := rfl
@[simp] theorem State.setFull_outbox (s : State) (r : Nat) (b : Bool) : (s.setFull r b).outbox = s.outbox := rfl
@[simp] theorem State.setFull_nonce (s : State) (r : Nat) (b : Bool) : (s.setFull r b).nonce = s.nonce := rfl
@[simp] theorem State.setFull_dies (s : State) (r : Nat) (b : Bool) : (s.setFull r b).dies = s.dies := rfl
@[simp] theorem State.setFull_graphs (s : State) (r : Nat) (b : Bool) : (s.setFull r b).graphs = s.graphs := rfl
@[simp] theorem State.setFull_parts (s : State) (r : Nat) (b : Bool) : (s.setFull r b).parts = s.parts := rfl
@[simp] theorem State.setFull_chans (s : State) (r : Nat) (b : Bool) : (s.setFull r b).chans = s.chans := rfl
@[simp] theorem State.setFull_service (s : State) (r : Nat) (b : Bool) : (s.setFull r b).service = s.service := rfl
@[simp] theorem State.setFull_fetchBuf (s : State) (r : Nat) (b : Bool) : (s.setFull r b).fetchBuf = s.fetchBuf := rfl
@[simp] theorem State.setFull_flights (s : State) (r : Nat) (b : Bool) : (s.setFull r b).flights = s.flights := rfl
@[simp] theorem State.setFull_trace (s : State) (r : Nat) (b : Bool) : (s.setFull r b).trace = s.trace := rfl

@[simp] theorem State.setFifo_cycle (s : State) (n p : Nat) (l : List Word) : (s.setFifo n p l).cycle = s.cycle := rfl
@[simp] theorem State.setFifo_order (s : State) (n p : Nat) (l : List Word) : (s.setFifo n p l).order = s.order := rfl
@[simp] theorem State.setFifo_turn (s : State) (n p : Nat) (l : List Word) : (s.setFifo n p l).turn = s.turn := rfl
@[simp] theorem State.setFifo_cur (s : State) (n p : Nat) (l : List Word) : (s.setFifo n p l).cur = s.cur := rfl
@[simp] theorem State.setFifo_agenda (s : State) (n p : Nat) (l : List Word) : (s.setFifo n p l).agenda = s.agenda := rfl
@[simp] theorem State.setFifo_free (s : State) (n p : Nat) (l : List Word) : (s.setFifo n p l).free = s.free := rfl
@[simp] theorem State.setFifo_stamp (s : State) (n p : Nat) (l : List Word) : (s.setFifo n p l).stamp = s.stamp := rfl
@[simp] theorem State.setFifo_keyEpoch (s : State) (n p : Nat) (l : List Word) : (s.setFifo n p l).keyEpoch = s.keyEpoch := rfl
@[simp] theorem State.setFifo_regs (s : State) (n p : Nat) (l : List Word) : (s.setFifo n p l).regs = s.regs := rfl
@[simp] theorem State.setFifo_caps (s : State) (n p : Nat) (l : List Word) : (s.setFifo n p l).caps = s.caps := rfl
@[simp] theorem State.setFifo_msix (s : State) (n p : Nat) (l : List Word) : (s.setFifo n p l).msix = s.msix := rfl
@[simp] theorem State.setFifo_msixTable (s : State) (n p : Nat) (l : List Word) : (s.setFifo n p l).msixTable = s.msixTable := rfl
@[simp] theorem State.setFifo_hbm (s : State) (n p : Nat) (l : List Word) : (s.setFifo n p l).hbm = s.hbm := rfl
@[simp] theorem State.setFifo_lines (s : State) (n p : Nat) (l : List Word) : (s.setFifo n p l).lines = s.lines := rfl
@[simp] theorem State.setFifo_hostMem (s : State) (n p : Nat) (l : List Word) : (s.setFifo n p l).hostMem = s.hostMem := rfl
@[simp] theorem State.setFifo_hostLink (s : State) (n p : Nat) (l : List Word) : (s.setFifo n p l).hostLink = s.hostLink := rfl
@[simp] theorem State.setFifo_hbmStacks (s : State) (n p : Nat) (l : List Word) : (s.setFifo n p l).hbmStacks = s.hbmStacks := rfl
@[simp] theorem State.setFifo_ports (s : State) (n p : Nat) (l : List Word) : (s.setFifo n p l).ports = s.ports := rfl
@[simp] theorem State.setFifo_routes (s : State) (n p : Nat) (l : List Word) : (s.setFifo n p l).routes = s.routes := rfl
@[simp] theorem State.setFifo_routePend (s : State) (n p : Nat) (l : List Word) : (s.setFifo n p l).routePend = s.routePend := rfl
@[simp] theorem State.setFifo_tx (s : State) (n p : Nat) (l : List Word) : (s.setFifo n p l).tx = s.tx := rfl
@[simp] theorem State.setFifo_rx (s : State) (n p : Nat) (l : List Word) : (s.setFifo n p l).rx = s.rx := rfl
@[simp] theorem State.setFifo_outbox (s : State) (n p : Nat) (l : List Word) : (s.setFifo n p l).outbox = s.outbox := rfl
@[simp] theorem State.setFifo_nonce (s : State) (n p : Nat) (l : List Word) : (s.setFifo n p l).nonce = s.nonce := rfl
@[simp] theorem State.setFifo_dies (s : State) (n p : Nat) (l : List Word) : (s.setFifo n p l).dies = s.dies := rfl
@[simp] theorem State.setFifo_graphs (s : State) (n p : Nat) (l : List Word) : (s.setFifo n p l).graphs = s.graphs := rfl
@[simp] theorem State.setFifo_parts (s : State) (n p : Nat) (l : List Word) : (s.setFifo n p l).parts = s.parts := rfl
@[simp] theorem State.setFifo_chans (s : State) (n p : Nat) (l : List Word) : (s.setFifo n p l).chans = s.chans := rfl
@[simp] theorem State.setFifo_service (s : State) (n p : Nat) (l : List Word) : (s.setFifo n p l).service = s.service := rfl
@[simp] theorem State.setFifo_fetchBuf (s : State) (n p : Nat) (l : List Word) : (s.setFifo n p l).fetchBuf = s.fetchBuf := rfl
@[simp] theorem State.setFifo_flights (s : State) (n p : Nat) (l : List Word) : (s.setFifo n p l).flights = s.flights := rfl
@[simp] theorem State.setFifo_trace (s : State) (n p : Nat) (l : List Word) : (s.setFifo n p l).trace = s.trace := rfl

@[simp] theorem State.popPort_cycle (s : State) (r : Nat) : (s.popPort r).cycle = s.cycle := rfl
@[simp] theorem State.popPort_order (s : State) (r : Nat) : (s.popPort r).order = s.order := rfl
@[simp] theorem State.popPort_turn (s : State) (r : Nat) : (s.popPort r).turn = s.turn := rfl
@[simp] theorem State.popPort_cur (s : State) (r : Nat) : (s.popPort r).cur = s.cur := rfl
@[simp] theorem State.popPort_agenda (s : State) (r : Nat) : (s.popPort r).agenda = s.agenda := rfl
@[simp] theorem State.popPort_free (s : State) (r : Nat) : (s.popPort r).free = s.free := rfl
@[simp] theorem State.popPort_stamp (s : State) (r : Nat) : (s.popPort r).stamp = s.stamp := rfl
@[simp] theorem State.popPort_keyEpoch (s : State) (r : Nat) : (s.popPort r).keyEpoch = s.keyEpoch := rfl
@[simp] theorem State.popPort_regs (s : State) (r : Nat) : (s.popPort r).regs = s.regs := rfl
@[simp] theorem State.popPort_caps (s : State) (r : Nat) : (s.popPort r).caps = s.caps := rfl
@[simp] theorem State.popPort_msix (s : State) (r : Nat) : (s.popPort r).msix = s.msix := rfl
@[simp] theorem State.popPort_msixTable (s : State) (r : Nat) : (s.popPort r).msixTable = s.msixTable := rfl
@[simp] theorem State.popPort_hbm (s : State) (r : Nat) : (s.popPort r).hbm = s.hbm := rfl
@[simp] theorem State.popPort_lines (s : State) (r : Nat) : (s.popPort r).lines = s.lines := rfl
@[simp] theorem State.popPort_hostMem (s : State) (r : Nat) : (s.popPort r).hostMem = s.hostMem := rfl
@[simp] theorem State.popPort_hostLink (s : State) (r : Nat) : (s.popPort r).hostLink = s.hostLink := rfl
@[simp] theorem State.popPort_hbmStacks (s : State) (r : Nat) : (s.popPort r).hbmStacks = s.hbmStacks := rfl
@[simp] theorem State.popPort_ports (s : State) (r : Nat) : (s.popPort r).ports = s.ports := rfl
@[simp] theorem State.popPort_routes (s : State) (r : Nat) : (s.popPort r).routes = s.routes := rfl
@[simp] theorem State.popPort_routePend (s : State) (r : Nat) : (s.popPort r).routePend = s.routePend := rfl
@[simp] theorem State.popPort_tx (s : State) (r : Nat) : (s.popPort r).tx = s.tx := rfl
@[simp] theorem State.popPort_rx (s : State) (r : Nat) : (s.popPort r).rx = s.rx := rfl
@[simp] theorem State.popPort_outbox (s : State) (r : Nat) : (s.popPort r).outbox = s.outbox := rfl
@[simp] theorem State.popPort_nonce (s : State) (r : Nat) : (s.popPort r).nonce = s.nonce := rfl
@[simp] theorem State.popPort_dies (s : State) (r : Nat) : (s.popPort r).dies = s.dies := rfl
@[simp] theorem State.popPort_graphs (s : State) (r : Nat) : (s.popPort r).graphs = s.graphs := rfl
@[simp] theorem State.popPort_parts (s : State) (r : Nat) : (s.popPort r).parts = s.parts := rfl
@[simp] theorem State.popPort_chans (s : State) (r : Nat) : (s.popPort r).chans = s.chans := rfl
@[simp] theorem State.popPort_service (s : State) (r : Nat) : (s.popPort r).service = s.service := rfl
@[simp] theorem State.popPort_fetchBuf (s : State) (r : Nat) : (s.popPort r).fetchBuf = s.fetchBuf := rfl
@[simp] theorem State.popPort_flights (s : State) (r : Nat) : (s.popPort r).flights = s.flights := rfl
@[simp] theorem State.popPort_trace (s : State) (r : Nat) : (s.popPort r).trace = s.trace := rfl

@[simp] theorem State.setDie_cycle (s : State) (d : Nat) (x : Die) : (s.setDie d x).cycle = s.cycle := rfl
@[simp] theorem State.setDie_order (s : State) (d : Nat) (x : Die) : (s.setDie d x).order = s.order := rfl
@[simp] theorem State.setDie_turn (s : State) (d : Nat) (x : Die) : (s.setDie d x).turn = s.turn := rfl
@[simp] theorem State.setDie_cur (s : State) (d : Nat) (x : Die) : (s.setDie d x).cur = s.cur := rfl
@[simp] theorem State.setDie_agenda (s : State) (d : Nat) (x : Die) : (s.setDie d x).agenda = s.agenda := rfl
@[simp] theorem State.setDie_free (s : State) (d : Nat) (x : Die) : (s.setDie d x).free = s.free := rfl
@[simp] theorem State.setDie_stamp (s : State) (d : Nat) (x : Die) : (s.setDie d x).stamp = s.stamp := rfl
@[simp] theorem State.setDie_keyEpoch (s : State) (d : Nat) (x : Die) : (s.setDie d x).keyEpoch = s.keyEpoch := rfl
@[simp] theorem State.setDie_regs (s : State) (d : Nat) (x : Die) : (s.setDie d x).regs = s.regs := rfl
@[simp] theorem State.setDie_caps (s : State) (d : Nat) (x : Die) : (s.setDie d x).caps = s.caps := rfl
@[simp] theorem State.setDie_msix (s : State) (d : Nat) (x : Die) : (s.setDie d x).msix = s.msix := rfl
@[simp] theorem State.setDie_msixTable (s : State) (d : Nat) (x : Die) : (s.setDie d x).msixTable = s.msixTable := rfl
@[simp] theorem State.setDie_hbm (s : State) (d : Nat) (x : Die) : (s.setDie d x).hbm = s.hbm := rfl
@[simp] theorem State.setDie_lines (s : State) (d : Nat) (x : Die) : (s.setDie d x).lines = s.lines := rfl
@[simp] theorem State.setDie_hostMem (s : State) (d : Nat) (x : Die) : (s.setDie d x).hostMem = s.hostMem := rfl
@[simp] theorem State.setDie_hostLink (s : State) (d : Nat) (x : Die) : (s.setDie d x).hostLink = s.hostLink := rfl
@[simp] theorem State.setDie_cells (s : State) (d : Nat) (x : Die) : (s.setDie d x).cells = s.cells := rfl
@[simp] theorem State.setDie_hbmStacks (s : State) (d : Nat) (x : Die) : (s.setDie d x).hbmStacks = s.hbmStacks := rfl
@[simp] theorem State.setDie_ports (s : State) (d : Nat) (x : Die) : (s.setDie d x).ports = s.ports := rfl
@[simp] theorem State.setDie_routes (s : State) (d : Nat) (x : Die) : (s.setDie d x).routes = s.routes := rfl
@[simp] theorem State.setDie_routePend (s : State) (d : Nat) (x : Die) : (s.setDie d x).routePend = s.routePend := rfl
@[simp] theorem State.setDie_tx (s : State) (d : Nat) (x : Die) : (s.setDie d x).tx = s.tx := rfl
@[simp] theorem State.setDie_rx (s : State) (d : Nat) (x : Die) : (s.setDie d x).rx = s.rx := rfl
@[simp] theorem State.setDie_outbox (s : State) (d : Nat) (x : Die) : (s.setDie d x).outbox = s.outbox := rfl
@[simp] theorem State.setDie_nonce (s : State) (d : Nat) (x : Die) : (s.setDie d x).nonce = s.nonce := rfl
@[simp] theorem State.setDie_graphs (s : State) (d : Nat) (x : Die) : (s.setDie d x).graphs = s.graphs := rfl
@[simp] theorem State.setDie_parts (s : State) (d : Nat) (x : Die) : (s.setDie d x).parts = s.parts := rfl
@[simp] theorem State.setDie_chans (s : State) (d : Nat) (x : Die) : (s.setDie d x).chans = s.chans := rfl
@[simp] theorem State.setDie_service (s : State) (d : Nat) (x : Die) : (s.setDie d x).service = s.service := rfl
@[simp] theorem State.setDie_fetchBuf (s : State) (d : Nat) (x : Die) : (s.setDie d x).fetchBuf = s.fetchBuf := rfl
@[simp] theorem State.setDie_flights (s : State) (d : Nat) (x : Die) : (s.setDie d x).flights = s.flights := rfl
@[simp] theorem State.setDie_trace (s : State) (d : Nat) (x : Die) : (s.setDie d x).trace = s.trace := rfl

@[simp] theorem State.setStack_cycle (s : State) (k : Nat) (x : Stack) : (s.setStack k x).cycle = s.cycle := rfl
@[simp] theorem State.setStack_order (s : State) (k : Nat) (x : Stack) : (s.setStack k x).order = s.order := rfl
@[simp] theorem State.setStack_turn (s : State) (k : Nat) (x : Stack) : (s.setStack k x).turn = s.turn := rfl
@[simp] theorem State.setStack_cur (s : State) (k : Nat) (x : Stack) : (s.setStack k x).cur = s.cur := rfl
@[simp] theorem State.setStack_agenda (s : State) (k : Nat) (x : Stack) : (s.setStack k x).agenda = s.agenda := rfl
@[simp] theorem State.setStack_free (s : State) (k : Nat) (x : Stack) : (s.setStack k x).free = s.free := rfl
@[simp] theorem State.setStack_stamp (s : State) (k : Nat) (x : Stack) : (s.setStack k x).stamp = s.stamp := rfl
@[simp] theorem State.setStack_keyEpoch (s : State) (k : Nat) (x : Stack) : (s.setStack k x).keyEpoch = s.keyEpoch := rfl
@[simp] theorem State.setStack_regs (s : State) (k : Nat) (x : Stack) : (s.setStack k x).regs = s.regs := rfl
@[simp] theorem State.setStack_caps (s : State) (k : Nat) (x : Stack) : (s.setStack k x).caps = s.caps := rfl
@[simp] theorem State.setStack_msix (s : State) (k : Nat) (x : Stack) : (s.setStack k x).msix = s.msix := rfl
@[simp] theorem State.setStack_msixTable (s : State) (k : Nat) (x : Stack) : (s.setStack k x).msixTable = s.msixTable := rfl
@[simp] theorem State.setStack_hbm (s : State) (k : Nat) (x : Stack) : (s.setStack k x).hbm = s.hbm := rfl
@[simp] theorem State.setStack_lines (s : State) (k : Nat) (x : Stack) : (s.setStack k x).lines = s.lines := rfl
@[simp] theorem State.setStack_hostMem (s : State) (k : Nat) (x : Stack) : (s.setStack k x).hostMem = s.hostMem := rfl
@[simp] theorem State.setStack_hostLink (s : State) (k : Nat) (x : Stack) : (s.setStack k x).hostLink = s.hostLink := rfl
@[simp] theorem State.setStack_cells (s : State) (k : Nat) (x : Stack) : (s.setStack k x).cells = s.cells := rfl
@[simp] theorem State.setStack_ports (s : State) (k : Nat) (x : Stack) : (s.setStack k x).ports = s.ports := rfl
@[simp] theorem State.setStack_routes (s : State) (k : Nat) (x : Stack) : (s.setStack k x).routes = s.routes := rfl
@[simp] theorem State.setStack_routePend (s : State) (k : Nat) (x : Stack) : (s.setStack k x).routePend = s.routePend := rfl
@[simp] theorem State.setStack_tx (s : State) (k : Nat) (x : Stack) : (s.setStack k x).tx = s.tx := rfl
@[simp] theorem State.setStack_rx (s : State) (k : Nat) (x : Stack) : (s.setStack k x).rx = s.rx := rfl
@[simp] theorem State.setStack_outbox (s : State) (k : Nat) (x : Stack) : (s.setStack k x).outbox = s.outbox := rfl
@[simp] theorem State.setStack_nonce (s : State) (k : Nat) (x : Stack) : (s.setStack k x).nonce = s.nonce := rfl
@[simp] theorem State.setStack_dies (s : State) (k : Nat) (x : Stack) : (s.setStack k x).dies = s.dies := rfl
@[simp] theorem State.setStack_graphs (s : State) (k : Nat) (x : Stack) : (s.setStack k x).graphs = s.graphs := rfl
@[simp] theorem State.setStack_parts (s : State) (k : Nat) (x : Stack) : (s.setStack k x).parts = s.parts := rfl
@[simp] theorem State.setStack_chans (s : State) (k : Nat) (x : Stack) : (s.setStack k x).chans = s.chans := rfl
@[simp] theorem State.setStack_service (s : State) (k : Nat) (x : Stack) : (s.setStack k x).service = s.service := rfl
@[simp] theorem State.setStack_fetchBuf (s : State) (k : Nat) (x : Stack) : (s.setStack k x).fetchBuf = s.fetchBuf := rfl
@[simp] theorem State.setStack_flights (s : State) (k : Nat) (x : Stack) : (s.setStack k x).flights = s.flights := rfl
@[simp] theorem State.setStack_trace (s : State) (k : Nat) (x : Stack) : (s.setStack k x).trace = s.trace := rfl

@[simp] theorem State.setPart_cycle (s : State) (q : Nat) (x : Part) : (s.setPart q x).cycle = s.cycle := rfl
@[simp] theorem State.setPart_order (s : State) (q : Nat) (x : Part) : (s.setPart q x).order = s.order := rfl
@[simp] theorem State.setPart_turn (s : State) (q : Nat) (x : Part) : (s.setPart q x).turn = s.turn := rfl
@[simp] theorem State.setPart_cur (s : State) (q : Nat) (x : Part) : (s.setPart q x).cur = s.cur := rfl
@[simp] theorem State.setPart_agenda (s : State) (q : Nat) (x : Part) : (s.setPart q x).agenda = s.agenda := rfl
@[simp] theorem State.setPart_free (s : State) (q : Nat) (x : Part) : (s.setPart q x).free = s.free := rfl
@[simp] theorem State.setPart_stamp (s : State) (q : Nat) (x : Part) : (s.setPart q x).stamp = s.stamp := rfl
@[simp] theorem State.setPart_keyEpoch (s : State) (q : Nat) (x : Part) : (s.setPart q x).keyEpoch = s.keyEpoch := rfl
@[simp] theorem State.setPart_regs (s : State) (q : Nat) (x : Part) : (s.setPart q x).regs = s.regs := rfl
@[simp] theorem State.setPart_caps (s : State) (q : Nat) (x : Part) : (s.setPart q x).caps = s.caps := rfl
@[simp] theorem State.setPart_msix (s : State) (q : Nat) (x : Part) : (s.setPart q x).msix = s.msix := rfl
@[simp] theorem State.setPart_msixTable (s : State) (q : Nat) (x : Part) : (s.setPart q x).msixTable = s.msixTable := rfl
@[simp] theorem State.setPart_hbm (s : State) (q : Nat) (x : Part) : (s.setPart q x).hbm = s.hbm := rfl
@[simp] theorem State.setPart_lines (s : State) (q : Nat) (x : Part) : (s.setPart q x).lines = s.lines := rfl
@[simp] theorem State.setPart_hostMem (s : State) (q : Nat) (x : Part) : (s.setPart q x).hostMem = s.hostMem := rfl
@[simp] theorem State.setPart_hostLink (s : State) (q : Nat) (x : Part) : (s.setPart q x).hostLink = s.hostLink := rfl
@[simp] theorem State.setPart_cells (s : State) (q : Nat) (x : Part) : (s.setPart q x).cells = s.cells := rfl
@[simp] theorem State.setPart_hbmStacks (s : State) (q : Nat) (x : Part) : (s.setPart q x).hbmStacks = s.hbmStacks := rfl
@[simp] theorem State.setPart_ports (s : State) (q : Nat) (x : Part) : (s.setPart q x).ports = s.ports := rfl
@[simp] theorem State.setPart_routes (s : State) (q : Nat) (x : Part) : (s.setPart q x).routes = s.routes := rfl
@[simp] theorem State.setPart_routePend (s : State) (q : Nat) (x : Part) : (s.setPart q x).routePend = s.routePend := rfl
@[simp] theorem State.setPart_tx (s : State) (q : Nat) (x : Part) : (s.setPart q x).tx = s.tx := rfl
@[simp] theorem State.setPart_rx (s : State) (q : Nat) (x : Part) : (s.setPart q x).rx = s.rx := rfl
@[simp] theorem State.setPart_outbox (s : State) (q : Nat) (x : Part) : (s.setPart q x).outbox = s.outbox := rfl
@[simp] theorem State.setPart_nonce (s : State) (q : Nat) (x : Part) : (s.setPart q x).nonce = s.nonce := rfl
@[simp] theorem State.setPart_dies (s : State) (q : Nat) (x : Part) : (s.setPart q x).dies = s.dies := rfl
@[simp] theorem State.setPart_graphs (s : State) (q : Nat) (x : Part) : (s.setPart q x).graphs = s.graphs := rfl
@[simp] theorem State.setPart_chans (s : State) (q : Nat) (x : Part) : (s.setPart q x).chans = s.chans := rfl
@[simp] theorem State.setPart_service (s : State) (q : Nat) (x : Part) : (s.setPart q x).service = s.service := rfl
@[simp] theorem State.setPart_fetchBuf (s : State) (q : Nat) (x : Part) : (s.setPart q x).fetchBuf = s.fetchBuf := rfl
@[simp] theorem State.setPart_flights (s : State) (q : Nat) (x : Part) : (s.setPart q x).flights = s.flights := rfl
@[simp] theorem State.setPart_trace (s : State) (q : Nat) (x : Part) : (s.setPart q x).trace = s.trace := rfl

@[simp] theorem State.at_cycle (s : State) (n k : Nat) : (s.at n k).cycle = s.cycle := rfl
@[simp] theorem State.at_order (s : State) (n k : Nat) : (s.at n k).order = s.order := rfl
@[simp] theorem State.at_agenda (s : State) (n k : Nat) : (s.at n k).agenda = s.agenda := rfl
@[simp] theorem State.at_free (s : State) (n k : Nat) : (s.at n k).free = s.free := rfl
@[simp] theorem State.at_stamp (s : State) (n k : Nat) : (s.at n k).stamp = s.stamp := rfl
@[simp] theorem State.at_keyEpoch (s : State) (n k : Nat) : (s.at n k).keyEpoch = s.keyEpoch := rfl
@[simp] theorem State.at_regs (s : State) (n k : Nat) : (s.at n k).regs = s.regs := rfl
@[simp] theorem State.at_caps (s : State) (n k : Nat) : (s.at n k).caps = s.caps := rfl
@[simp] theorem State.at_msix (s : State) (n k : Nat) : (s.at n k).msix = s.msix := rfl
@[simp] theorem State.at_msixTable (s : State) (n k : Nat) : (s.at n k).msixTable = s.msixTable := rfl
@[simp] theorem State.at_hbm (s : State) (n k : Nat) : (s.at n k).hbm = s.hbm := rfl
@[simp] theorem State.at_lines (s : State) (n k : Nat) : (s.at n k).lines = s.lines := rfl
@[simp] theorem State.at_hostMem (s : State) (n k : Nat) : (s.at n k).hostMem = s.hostMem := rfl
@[simp] theorem State.at_hostLink (s : State) (n k : Nat) : (s.at n k).hostLink = s.hostLink := rfl
@[simp] theorem State.at_cells (s : State) (n k : Nat) : (s.at n k).cells = s.cells := rfl
@[simp] theorem State.at_hbmStacks (s : State) (n k : Nat) : (s.at n k).hbmStacks = s.hbmStacks := rfl
@[simp] theorem State.at_ports (s : State) (n k : Nat) : (s.at n k).ports = s.ports := rfl
@[simp] theorem State.at_routes (s : State) (n k : Nat) : (s.at n k).routes = s.routes := rfl
@[simp] theorem State.at_routePend (s : State) (n k : Nat) : (s.at n k).routePend = s.routePend := rfl
@[simp] theorem State.at_tx (s : State) (n k : Nat) : (s.at n k).tx = s.tx := rfl
@[simp] theorem State.at_rx (s : State) (n k : Nat) : (s.at n k).rx = s.rx := rfl
@[simp] theorem State.at_outbox (s : State) (n k : Nat) : (s.at n k).outbox = s.outbox := rfl
@[simp] theorem State.at_nonce (s : State) (n k : Nat) : (s.at n k).nonce = s.nonce := rfl
@[simp] theorem State.at_dies (s : State) (n k : Nat) : (s.at n k).dies = s.dies := rfl
@[simp] theorem State.at_graphs (s : State) (n k : Nat) : (s.at n k).graphs = s.graphs := rfl
@[simp] theorem State.at_parts (s : State) (n k : Nat) : (s.at n k).parts = s.parts := rfl
@[simp] theorem State.at_chans (s : State) (n k : Nat) : (s.at n k).chans = s.chans := rfl
@[simp] theorem State.at_service (s : State) (n k : Nat) : (s.at n k).service = s.service := rfl
@[simp] theorem State.at_fetchBuf (s : State) (n k : Nat) : (s.at n k).fetchBuf = s.fetchBuf := rfl
@[simp] theorem State.at_flights (s : State) (n k : Nat) : (s.at n k).flights = s.flights := rfl
@[simp] theorem State.at_trace (s : State) (n k : Nat) : (s.at n k).trace = s.trace := rfl

@[simp] theorem State.back_cycle (s : State) (f : State) : (s.back f).cycle = s.cycle := rfl
@[simp] theorem State.back_order (s : State) (f : State) : (s.back f).order = s.order := rfl
@[simp] theorem State.back_agenda (s : State) (f : State) : (s.back f).agenda = s.agenda := rfl
@[simp] theorem State.back_free (s : State) (f : State) : (s.back f).free = s.free := rfl
@[simp] theorem State.back_stamp (s : State) (f : State) : (s.back f).stamp = s.stamp := rfl
@[simp] theorem State.back_keyEpoch (s : State) (f : State) : (s.back f).keyEpoch = s.keyEpoch := rfl
@[simp] theorem State.back_regs (s : State) (f : State) : (s.back f).regs = s.regs := rfl
@[simp] theorem State.back_caps (s : State) (f : State) : (s.back f).caps = s.caps := rfl
@[simp] theorem State.back_msix (s : State) (f : State) : (s.back f).msix = s.msix := rfl
@[simp] theorem State.back_msixTable (s : State) (f : State) : (s.back f).msixTable = s.msixTable := rfl
@[simp] theorem State.back_hbm (s : State) (f : State) : (s.back f).hbm = s.hbm := rfl
@[simp] theorem State.back_lines (s : State) (f : State) : (s.back f).lines = s.lines := rfl
@[simp] theorem State.back_hostMem (s : State) (f : State) : (s.back f).hostMem = s.hostMem := rfl
@[simp] theorem State.back_hostLink (s : State) (f : State) : (s.back f).hostLink = s.hostLink := rfl
@[simp] theorem State.back_cells (s : State) (f : State) : (s.back f).cells = s.cells := rfl
@[simp] theorem State.back_hbmStacks (s : State) (f : State) : (s.back f).hbmStacks = s.hbmStacks := rfl
@[simp] theorem State.back_ports (s : State) (f : State) : (s.back f).ports = s.ports := rfl
@[simp] theorem State.back_routes (s : State) (f : State) : (s.back f).routes = s.routes := rfl
@[simp] theorem State.back_routePend (s : State) (f : State) : (s.back f).routePend = s.routePend := rfl
@[simp] theorem State.back_tx (s : State) (f : State) : (s.back f).tx = s.tx := rfl
@[simp] theorem State.back_rx (s : State) (f : State) : (s.back f).rx = s.rx := rfl
@[simp] theorem State.back_outbox (s : State) (f : State) : (s.back f).outbox = s.outbox := rfl
@[simp] theorem State.back_nonce (s : State) (f : State) : (s.back f).nonce = s.nonce := rfl
@[simp] theorem State.back_dies (s : State) (f : State) : (s.back f).dies = s.dies := rfl
@[simp] theorem State.back_graphs (s : State) (f : State) : (s.back f).graphs = s.graphs := rfl
@[simp] theorem State.back_parts (s : State) (f : State) : (s.back f).parts = s.parts := rfl
@[simp] theorem State.back_chans (s : State) (f : State) : (s.back f).chans = s.chans := rfl
@[simp] theorem State.back_service (s : State) (f : State) : (s.back f).service = s.service := rfl
@[simp] theorem State.back_fetchBuf (s : State) (f : State) : (s.back f).fetchBuf = s.fetchBuf := rfl
@[simp] theorem State.back_flights (s : State) (f : State) : (s.back f).flights = s.flights := rfl
@[simp] theorem State.back_trace (s : State) (f : State) : (s.back f).trace = s.trace := rfl

@[simp] theorem State.at_turn (s : State) (n k : Nat) : (s.at n k).turn = n := rfl
@[simp] theorem State.at_cur (s : State) (n k : Nat) : (s.at n k).cur = k := rfl
@[simp] theorem State.back_turn (s f : State) : (s.back f).turn = f.turn := rfl
@[simp] theorem State.back_cur (s f : State) : (s.back f).cur = f.cur := rfl

/-- Two offsets of one block name different registers. -/
theorem rk_inj {b i o o' : Nat} (h : rk b i o = rk b i o') : o = o' := by unfold rk at h; omega

/-- A register reads as it was set. -/
@[simp] theorem State.reg_setReg_self (s : State) (b i o : Nat) (v : Word) : (s.setReg b i o v).reg b i o = v := by
  simp [State.reg, State.setReg]

/-- Another register reads as before. -/
theorem State.reg_setReg_ne (s : State) (b i o : Nat) (v : Word) {b' i' o' : Nat} (h : rk b' i' o' ≠ rk b i o) :
    (s.setReg b i o v).reg b' i' o' = s.reg b' i' o' := by
  simp [State.reg, State.setReg, tget_tput_ne _ _ _ h]

theorem State.reg_of_regs {s t : State} (h : t.regs = s.regs) (b i o : Nat) : t.reg b i o = s.reg b i o := by
  simp [State.reg, h]

theorem State.fld_of_regs {s t : State} (h : t.regs = s.regs) (b i o lo n : Nat) : t.fld b i o lo n = s.fld b i o lo n := by
  simp [State.fld, State.reg, h]

@[simp] theorem State.cellAt_setCell_self (s : State) (n : Nat) (c : Cell) : (s.setCell n c).cellAt n = c := by
  simp [State.cellAt, State.setCell]

theorem State.cellAt_setCell_ne (s : State) {n m : Nat} (c : Cell) (h : m ≠ n) : (s.setCell n c).cellAt m = s.cellAt m := by
  simp [State.cellAt, State.setCell, tget_tput_ne _ _ _ h]

theorem State.cellAt_setCell (s : State) (n m : Nat) (c : Cell) :
    (s.setCell n c).cellAt m = if m = n then c else s.cellAt m := by
  simp [State.cellAt, State.setCell, tget_tput]

@[simp] theorem State.dieAt_setDie_self (s : State) (d : Nat) (x : Die) : (s.setDie d x).dieAt d = x := by
  simp [State.dieAt, State.setDie]

theorem State.dieAt_setDie (s : State) (d e : Nat) (x : Die) : (s.setDie d x).dieAt e = if e = d then x else s.dieAt e := by
  simp [State.dieAt, State.setDie, tget_tput]

@[simp] theorem State.stackAt_setStack_self (s : State) (k : Nat) (x : Stack) : (s.setStack k x).stackAt k = x := by
  simp [State.stackAt, State.setStack]

theorem State.stackAt_setStack (s : State) (k j : Nat) (x : Stack) :
    (s.setStack k x).stackAt j = if j = k then x else s.stackAt j := by
  simp [State.stackAt, State.setStack, tget_tput]

@[simp] theorem State.partAt_setPart_self (s : State) (q : Nat) (x : Part) : (s.setPart q x).partAt q = x := by
  simp [State.partAt, State.setPart]

theorem State.partAt_setPart (s : State) (q r : Nat) (x : Part) :
    (s.setPart q x).partAt r = if r = q then x else s.partAt r := by
  simp [State.partAt, State.setPart, tget_tput]

/-- The slot set holds the thread given; its cell keeps everything but its slots. -/
theorem State.cellAt_setThrOpt (s : State) (n k m : Nat) (t : Option Thread) :
    (s.setThr? n k t).cellAt m =
      if m = n then { s.cellAt n with slots := tput (s.cellAt n).slots k t } else s.cellAt m := by
  simp [State.setThr?, State.cellAt_setCell]

theorem State.thr_setThrOpt (s : State) (n k m j : Nat) (t : Option Thread) :
    (s.setThr? n k t).thr? m j = if m = n ∧ j = k then t else s.thr? m j := by
  unfold State.thr?
  rw [State.cellAt_setThrOpt]
  by_cases h : m = n
  · subst h; simp [tget_tput]
  · simp [h]

theorem State.thrAt_setThrAt (s : State) (n k m j : Nat) (t : Thread) :
    (s.setThrAt n k t).thrAt m j = if m = n ∧ j = k then t else s.thrAt m j := by
  simp only [State.thrAt, State.setThrAt, State.thr_setThrOpt]
  split <;> rfl

@[simp] theorem State.thr_setThr (s : State) (t : Thread) : (s.setThr t).thr = t := by
  simp [State.thr, State.setThr, State.thrAt_setThrAt]

/-- Setting the issuing thread leaves the FIFOs of every cell. -/
@[simp] theorem State.fifo_setThr (s : State) (t : Thread) (n p : Nat) : (s.setThr t).fifo n p = s.fifo n p := by
  simp only [State.fifo, State.setThr, State.setThrAt, State.cellAt_setThrOpt]
  split <;> simp_all

end Sys2Proof.Machine
end

