-- ==== Sys2Proof/Laws/Memory.lean ====
section
/-! SUPPORT. The laws of memory: every memory operation keeps the canonical form of every memory (HBM, host memory,
scratchpads), and reads and writes of bytes. -/
namespace Sys2Proof.Machine

/-! ## Bytes -/

/-- A write of bytes keeps the canonical form. -/
theorem wf_writeLE (m : List Host.Cell) (a v n : Nat) (h : Memory.wf m = true) : Memory.wf (writeLE m a v n) = true := by
  induction n generalizing m a v with
  | zero => exact h
  | succ n ih => exact ih _ _ _ (twf_tset _ _ _ _ h)

/-- A byte outside the range written reads as before. -/
theorem writeLE_ne (m : List Host.Cell) (a v n : Nat) {x : Nat} (h : x < a ∨ a + n ≤ x) :
    tget memDefault (writeLE m a v n) x = tget memDefault m x := by
  induction n generalizing m a v with
  | zero => rfl
  | succ n ih =>
    rw [writeLE, ih _ _ _ (by omega), tget_tset_ne _ _ _ (by omega)]

/-- A byte of the range written reads as the byte of the value. -/
theorem writeLE_in (m : List Host.Cell) (a v n : Nat) {k : Nat} (h : k < n) :
    tget memDefault (writeLE m a v n) (a + k) = BitVec.ofNat 8 (v / 256 ^ k) := by
  induction n generalizing m a v k with
  | zero => omega
  | succ n ih =>
    rw [writeLE]
    cases k with
    | zero => rw [writeLE_ne _ _ _ _ (by omega)]; simp
    | succ k =>
      have := ih (tset memDefault m a (BitVec.ofNat 8 v)) (a + 1) (v / 256) (k := k) (by omega)
      rw [show a + (k + 1) = a + 1 + k by omega, this, Nat.div_div_eq_div_mul, Nat.pow_succ, Nat.mul_comm]

/-! ## What every memory operation keeps -/

/-- The three parts of the canonical form. -/
theorem State.memWf_iff (s : State) : s.memWf = true ↔
    Memory.wf s.hbm = true ∧ Memory.wf s.hostMem = true ∧ s.cells.all (fun e => Memory.wf e.2.scratch) = true := by
  simp [State.memWf, and_assoc]

/-- A state with the same memories is in canonical form too. -/
theorem State.memWf_congr {s t : State} (h1 : t.hbm = s.hbm) (h2 : t.hostMem = s.hostMem) (h3 : t.cells = s.cells)
    (h : s.memWf = true) : t.memWf = true := by
  simpa [State.memWf, h1, h2, h3] using h

/-- The scratchpad of any cell is in canonical form. -/
theorem State.scratch_wf {s : State} (h : s.memWf = true) (n : Nat) : Memory.wf (s.cellAt n).scratch = true :=
  all_tget (p := fun c : Cell => Memory.wf c.scratch) _ _ _ rfl ((s.memWf_iff.1 h).2.2)

theorem State.memWf_hbm {s : State} (h : s.memWf = true) (m : List Host.Cell) (hm : Memory.wf m = true) :
    ({ s with hbm := m } : State).memWf = true := by
  rw [State.memWf_iff] at h ⊢; exact ⟨hm, h.2⟩

theorem State.memWf_host {s : State} (h : s.memWf = true) (m : List Host.Cell) (hm : Memory.wf m = true) :
    ({ s with hostMem := m } : State).memWf = true := by
  rw [State.memWf_iff] at h ⊢; exact ⟨h.1, hm, h.2.2⟩

theorem State.memWf_setCell {s : State} (h : s.memWf = true) (n : Nat) (c : Cell) (hc : Memory.wf c.scratch = true) :
    (s.setCell n c).memWf = true := by
  rw [State.memWf_iff] at h ⊢
  exact ⟨h.1, h.2.1, all_tput (p := fun e : Nat × Cell => Memory.wf e.2.scratch) _ _ _ hc h.2.2⟩

/-- A cell replaced by one with the same scratchpad. -/
theorem State.memWf_cell {s : State} (h : s.memWf = true) (n : Nat) (c : Cell) (hc : c.scratch = (s.cellAt n).scratch) :
    (s.setCell n c).memWf = true :=
  State.memWf_setCell h n c (by rw [hc]; exact State.scratch_wf h n)

theorem State.memWf_setThrAt {s : State} (h : s.memWf = true) (n k : Nat) (t : Thread) : (s.setThrAt n k t).memWf = true :=
  State.memWf_cell h _ _ rfl

theorem State.memWf_setThr {s : State} (h : s.memWf = true) (t : Thread) : (s.setThr t).memWf = true :=
  State.memWf_cell h _ _ rfl

theorem State.memWf_setReg {s : State} (h : s.memWf = true) (b i o : Nat) (v : Word) : (s.setReg b i o v).memWf = true :=
  State.memWf_congr rfl rfl rfl h

theorem State.memWf_bump {s : State} (h : s.memWf = true) (b i o lo n k : Nat) : (s.bump b i o lo n k).memWf = true :=
  State.memWf_setReg h _ _ _ _

theorem State.memWf_countRead {s : State} (h : s.memWf = true) (a : Nat) : (s.countRead a).memWf = true :=
  State.memWf_bump h _ _ _ _ _ _

theorem State.memWf_countWrite {s : State} (h : s.memWf = true) (a : Nat) : (s.countWrite a).memWf = true :=
  State.memWf_bump h _ _ _ _ _ _

theorem State.memWf_setLine {s : State} (h : s.memWf = true) (a : Nat) (m : LineMeta) : (s.setLine a m).memWf = true :=
  State.memWf_congr rfl rfl rfl h

theorem State.memWf_setDie {s : State} (h : s.memWf = true) (d : Nat) (x : Die) : (s.setDie d x).memWf = true :=
  State.memWf_congr rfl rfl rfl h

theorem State.memWf_setStack {s : State} (h : s.memWf = true) (k : Nat) (x : Stack) : (s.setStack k x).memWf = true :=
  State.memWf_congr rfl rfl rfl h

theorem State.memWf_setPart {s : State} (h : s.memWf = true) (q : Nat) (x : Part) : (s.setPart q x).memWf = true :=
  State.memWf_congr rfl rfl rfl h

theorem State.memWf_logEvent {s : State} (h : s.memWf = true) (k kind a words : Nat) : (s.logEvent k kind a words).memWf = true := by
  have h1 := State.memWf_bump h 2 0 (0x1000 * k + 0x40) 0 32 1
  unfold State.logEvent; dsimp only
  split
  · exact State.memWf_setReg (State.memWf_setReg (State.memWf_setReg h1 _ _ _ _) _ _ _ _) _ _ _ _
  · exact State.memWf_bump h1 _ _ _ _ _ _

theorem State.memWf_reportEvent {s : State} (h : s.memWf = true) (k kind a words : Nat) :
    (s.reportEvent k kind a words).memWf = true :=
  State.memWf_setStack h _ _

theorem State.memWf_logStack {s : State} (h : s.memWf = true) (k : Nat) : (s.logStack k).memWf = true := by
  have : ∀ (l : List Report) (s : State), s.memWf = true →
      (l.foldl (fun s e => s.logEvent k e.kind e.addr e.words) s).memWf = true := by
    intro l
    induction l with
    | nil => exact fun s h => h
    | cons e r ih => exact fun s h => ih _ (State.memWf_logEvent h _ _ _ _)
  exact this _ _ (State.memWf_setStack h _ _)

theorem State.memWf_putLine {s : State} (h : s.memWf = true) (a : Nat) (get : Nat → Byte) : (s.putLine a get).memWf = true := by
  refine State.memWf_hbm h _ ?_
  have : ∀ (l : List Nat) (m : List Host.Cell), Memory.wf m = true →
      Memory.wf (l.foldl (fun m i => tset memDefault m (a / 64 * 64 + i) (get i)) m) = true := by
    intro l
    induction l with
    | nil => exact fun m h => h
    | cons j r ih => exact fun m h => ih _ (twf_tset _ _ _ _ h)
  exact this _ _ (s.memWf_iff.1 h).1

theorem State.memWf_poisonLine {s : State} (h : s.memWf = true) (a kind words : Nat) : (s.poisonLine a kind words).memWf = true :=
  State.memWf_reportEvent (State.memWf_setLine h _ _) _ _ _ _

theorem State.memWf_inject {s : State} (h : s.memWf = true) (a : Nat) : (s.inject a).memWf = true := by
  unfold State.inject
  split
  · split
    · exact State.memWf_reportEvent (State.memWf_setReg h _ _ _ _) _ _ _ _
    · exact State.memWf_poisonLine (State.memWf_setReg h _ _ _ _) _ _ _
    · exact State.memWf_poisonLine (State.memWf_setReg h _ _ _ _) _ _ _
    · exact h
  · exact h

/-- A line read under a key, with its injection and its tag check, keeps the canonical form. -/
theorem State.memWf_checkLine {s : State} (h : s.memWf = true) (key : Option Nat) (a : Nat) : (s.checkLine key a).memWf = true := by
  have h1 := State.memWf_inject h a
  unfold State.checkLine; dsimp only
  split
  · exact State.memWf_poisonLine h1 _ _ _
  · exact h1

theorem State.memWf_zeroLine {s : State} (h : s.memWf = true) (a : Nat) (key : Option Nat) : (s.zeroLine a key).memWf = true :=
  State.memWf_setLine (State.memWf_putLine h _ _) _ _

/-- A line touched is filled: the canonical form is kept. -/
theorem State.memWf_touch {s : State} (h : s.memWf = true) (a : Nat) (key : Option Nat := none) : (s.touch a key).memWf = true := by
  unfold State.touch
  split
  · exact h
  · exact State.memWf_countWrite (State.memWf_zeroLine h _ _) _
  · split
    · exact State.memWf_countWrite (State.memWf_zeroLine h _ _) _
    · exact State.memWf_countWrite (State.memWf_countRead (State.memWf_setLine (State.memWf_putLine (State.memWf_checkLine h _ _) _ _) _ _) _) _

theorem State.memWf_openLine {s : State} (h : s.memWf = true) (key : Option Nat) (a : Nat) : (s.openLine key a).memWf = true :=
  State.memWf_checkLine (State.memWf_touch h a key) key a

theorem State.memWf_hbmRead {s : State} (h : s.memWf = true) (q a n : Nat) : (s.hbmRead q a n).s.memWf = true := by
  have h1 := State.memWf_openLine h (s.keyOf q) a
  unfold State.hbmRead; dsimp only
  split <;> exact State.memWf_countRead h1 _

theorem State.memWf_observeRings {s : State} (h : s.memWf = true) (host : Bool) (a n : Nat) : (s.observeRings host a n).memWf = true := by
  unfold State.observeRings
  split
  · exact h
  · exact State.memWf_congr rfl rfl rfl h

theorem State.memWf_observeHbm {s0 s : State} (h : s.memWf = true) (a n : Nat) : (State.observeHbm s0 s a n).memWf = true := by
  unfold State.observeHbm; dsimp only
  split
  · exact State.memWf_observeRings h _ _ _
  · exact State.memWf_setDie (State.memWf_observeRings h _ _ _) _ _

theorem State.memWf_observeScr {s0 s : State} (h : s.memWf = true) (c b o n : Nat) : (State.observeScr s0 s c b o n).memWf = true := by
  unfold State.observeScr
  split
  · exact h
  · exact State.memWf_cell h _ _ rfl

/-- A write to HBM keeps the canonical form. -/
theorem State.memWf_hbmWrite {s : State} (h : s.memWf = true) (q a n v : Nat) : (s.hbmWrite q a n v).1.memWf = true := by
  have h1 : ((s.openLine (s.keyOf q) a).countWrite a).memWf = true := State.memWf_countWrite (State.memWf_openLine h _ _) _
  unfold State.hbmWrite; dsimp only
  split
  · exact h1
  · split
    · exact State.memWf_reportEvent h1 _ _ _ _
    · exact State.memWf_observeHbm (State.memWf_setLine (State.memWf_hbm h1 _ (wf_writeLE _ _ _ _ (State.memWf_iff _ |>.1 h1).1)) _ _) _ _

theorem State.memWf_hbmWriteLine {s : State} (h : s.memWf = true) (q a : Nat) (l : Line) : (s.hbmWriteLine q a l).memWf = true := by
  have key : ∀ {x : State}, x.memWf = true → ∀ (l : Line) (m : LineMeta) (y : State) (b n : Nat),
      (State.observeHbm y ((x.putLine a fun i => l.extractLsb' (8 * i) 8).setLine a m) b n).memWf = true :=
    fun hx _ _ _ _ _ => State.memWf_observeHbm (State.memWf_setLine (State.memWf_putLine hx _ _) _ _) _ _
  unfold State.hbmWriteLine; dsimp only
  split
  · have h1 := State.memWf_countWrite (State.memWf_zeroLine h a (s.keyOf q)) a
    split
    · exact h1
    · exact key h1 _ _ _ _ _
  · have h1 := State.memWf_countWrite (State.memWf_touch h a (s.keyOf q)) a
    split
    · exact h1
    · exact key h1 _ _ _ _ _

/-- A read of any memory keeps the canonical form. -/
theorem State.memWf_memRead {s : State} (h : s.memWf = true) (q : Nat) (l : Loc) (n : Nat) : (s.memRead q l n).s.memWf = true := by
  unfold State.memRead
  split
  · exact State.memWf_hbmRead h _ _ _
  · dsimp only; split <;> exact h
  · split <;> exact h
  · exact h

/-- A write to any memory keeps the canonical form. -/
theorem State.memWf_memWrite {s : State} (h : s.memWf = true) (q : Nat) (l : Loc) (n v : Nat) : (s.memWrite q l n v).1.memWf = true := by
  unfold State.memWrite
  split
  · exact State.memWf_hbmWrite h _ _ _ _
  · exact State.memWf_observeScr (State.memWf_setCell h _ _ (wf_writeLE _ _ _ _ (State.scratch_wf h _))) _ _ _ _
  · split
    · exact State.memWf_observeRings (State.memWf_host h _ (wf_writeLE _ _ _ _ (s.memWf_iff.1 h).2.1)) _ _ _
    · exact h
  · exact h

theorem State.memWf_wordsRead {s : State} (h : s.memWf = true) (q : Nat) (l : Loc) (w : Nat) : (s.wordsRead q l w).s.memWf = true := by
  induction w generalizing s l with
  | zero => exact h
  | succ w ih => exact ih (State.memWf_memRead h _ _ _) _

theorem State.memWf_lineRead {s : State} (h : s.memWf = true) (q : Nat) (l : Loc) : (s.lineRead q l).s.memWf = true := by
  unfold State.lineRead
  split
  · exact State.memWf_wordsRead h _ _ _
  · exact State.memWf_memRead h _ _ _

theorem State.memWf_wordsWrite {s : State} (h : s.memWf = true) (q : Nat) (l : Loc) (v w : Nat) : (s.wordsWrite q l v w).1.memWf = true := by
  induction w generalizing s l v with
  | zero => exact h
  | succ w ih => exact ih (State.memWf_memWrite h _ _ _ _) _ _

theorem State.memWf_lineWrite {s : State} (h : s.memWf = true) (q : Nat) (l : Loc) (v : Line) : (s.lineWrite q l v).1.memWf = true := by
  unfold State.lineWrite
  split
  · exact State.memWf_hbmWriteLine h _ _ _
  · exact State.memWf_wordsWrite h _ _ _ _

/-- An atomic keeps the canonical form. -/
theorem State.memWf_atomic {s : State} (h : s.memWf = true) (q : Nat) (l : Loc) (n : Nat) (o : AOp) (v w : Nat) :
    (s.atomic q l n o v w).s.memWf = true := by
  have h1 := State.memWf_memRead h q l n
  unfold State.atomic; dsimp only
  split
  · exact h1
  · split
    · exact h1
    · exact State.memWf_memWrite h1 _ _ _ _

theorem State.memWf_setFe {s : State} (h : s.memWf = true) (a : Nat) (b : Bool) : (s.setFe a b).memWf = true :=
  State.memWf_setLine (State.memWf_touch h a) _ _

/-- The memory of the state after reset is in canonical form. -/
theorem State.memWf_reset : State.reset.memWf = true := rfl

end Sys2Proof.Machine
end

