-- ==== Sys2Proof/Laws/Ops.lean ====
section
/-! SUPPORT. What each shared operation of an instruction can do: one lemma per operation, which later proofs cite. -/
namespace Sys2Proof.Machine

/-! ## Running an instruction -/

/-- An instruction whose operands raise a trap takes it, and nothing else. -/
theorem run_traps {s : State} {i : Instr} {f : State → State} {c : Nat} {a : Word} (h : s.preTrap i = some (c, a)) :
    s.run i f = .next (s.trap c a) := by
  simp [State.run, h]

/-- An instruction whose operands raise no trap has its effect, and the ports it reads are popped. -/
theorem run_effect {s : State} {i : Instr} {f : State → State} (h : s.preTrap i = none) :
    s.run i f = .next (s.popAfter (f s) (s.srcsOf i)) := by
  simp [State.run, h]

/-- Every encoded instruction answers a next state. -/
theorem run_next (s : State) (i : Instr) (f : State → State) : ∃ t, s.run i f = .next t := ⟨_, rfl⟩

/-! ## The issuing thread replaced -/

/-- A thread set where it stands: the rest of the machine is as before. -/
theorem onlyThread_setThr (s : State) (t : Thread) : OnlyThread s (s.setThr t) := by
  refine ⟨rfl, ?_, ?_, ?_⟩
  · intro n hn
    simp [State.setThr, State.setThrAt, State.cellAt_setThrOpt, hn]
  · simp [State.cell, State.setThr, State.setThrAt, State.cellAt_setThrOpt]
  · intro k hk
    simp [State.setThr, State.setThrAt, State.thr_setThrOpt, hk]

theorem memSame_of_fields {s t : State} (h1 : t.hbm = s.hbm) (h2 : t.lines = s.lines) (h3 : t.hostMem = s.hostMem)
    (h4 : ∀ n, (t.cellAt n).scratch = (s.cellAt n).scratch) : MemSame s t :=
  ⟨fun a => by simp [State.hbmByte, h1], fun a => by simp [State.lineOf, h2],
   fun n b o => by simp [State.scrByte, h4], fun a => by simp [State.hostByte, h3]⟩

/-- What only touches the issuing thread leaves every memory alone. -/
theorem memSame_of_onlyThread {s t : State} (h : OnlyThread s t) : MemSame s t := by
  obtain ⟨h1, h2, h3, -⟩ := h
  have hturn : t.turn = s.turn := by have := congrArg State.turn h1; exact this
  refine memSame_of_fields (by have := congrArg State.hbm h1; exact this) (by have := congrArg State.lines h1; exact this)
    (by have := congrArg State.hostMem h1; exact this) fun n => ?_
  by_cases hn : n = s.turn
  · subst hn
    have := congrArg Cell.scratch h3
    simpa [State.cell, hturn] using this
  · rw [h2 n hn]

/-! ## A result written -/

/-- What a register reads as after a result is put in a thread. -/
theorem regOf_put (s : State) (n : Nat) (t : Thread) (r d : Nat) (v : Word) (h : r < 48 ∨ 52 ≤ r) (h61 : r ≠ 61) (h64 : r < 64) :
    s.regOf n (t.put d v) r = if r = d ∧ fillable r then v else s.regOf n t r := by
  unfold Thread.put
  split
  · rename_i hd
    rcases h with h | h
    · simp only [State.regOf, h, if_true, tget_tput, fillable]
      by_cases e : r = d <;> simp [e]
    · have hr : ¬ r < 48 := by omega
      have hr2 : ¬ r < 52 := by omega
      simp only [State.regOf, hr, hr2, if_false, fillable]
      have : r = 52 ∨ r = 53 ∨ r = 54 ∨ r = 55 ∨ r = 56 ∨ r = 57 ∨ r = 58 ∨ r = 59 ∨ r = 60 ∨ r = 62 ∨ r = 63 := by omega
      rcases this with e | e | e | e | e | e | e | e | e | e | e <;> subst e <;> simp [tget_tput] <;> try omega
      all_goals (by_cases e : d = 60 <;> by_cases e' : d = 62 <;> simp_all <;> try omega)
  · split
    · rename_i hd hd'
      subst hd'
      have : ¬ r = 61 := h61
      simp only [this, false_and, if_false]
      rcases h with h | h
      · simp [State.regOf, h]
      · have hr : ¬ r < 48 := by omega
        have hr2 : ¬ r < 52 := by omega
        have : r = 52 ∨ r = 53 ∨ r = 54 ∨ r = 55 ∨ r = 56 ∨ r = 57 ∨ r = 58 ∨ r = 59 ∨ r = 60 ∨ r = 62 ∨ r = 63 := by omega
        rcases this with e | e | e | e | e | e | e | e | e | e | e <;> subst e <;> simp [State.regOf]
    · rename_i hd hd'
      have : ¬ (r = d ∧ fillable r) := by
        rintro ⟨rfl, hf⟩
        simp [fillable] at hf
        omega
      simp [this]

/-- Reading a register depends on the thread, and for a port on the FIFOs, alone. -/
theorem regOf_congr {s t : State} (n : Nat) (th : Thread) (r : Nat) (h : r < 48 ∨ 52 ≤ r) : t.regOf n th r = s.regOf n th r := by
  unfold State.regOf
  split
  · rfl
  · split
    · omega
    · rfl

theorem full_put (t : Thread) (d r : Nat) (v : Word) (hr : fillable r = true) :
    (t.put d v).full.getLsbD r = (decide (r = d) || t.full.getLsbD r) := by
  have h64 : r < 64 := by simp [fillable] at hr; omega
  unfold Thread.put
  split
  · rename_i hd
    have hd64 : d < 64 := by omega
    by_cases e : r = d
    · subst e; simp [h64]
    · simp only [e, decide_false, Bool.false_or, BitVec.getLsbD_or]
      have : (1#64 <<< d).getLsbD r = false := by
        simp [h64]
        omega
      simp [this]
  · rename_i hd
    have e : r ≠ d := by rintro rfl; simp [fillable] at hr; omega
    split <;> simp [e]

/-- A result written: where it goes, and that it goes nowhere else. -/
theorem wr_wrote (s : State) (d : GReg) (v : Word) : Wrote s (s.wr d v) d v 0#8 := by
  unfold State.wr State.wrN
  split
  · rename_i hp
    have hnf : ∀ r, ¬ (r = d.toNat ∧ fillable r = true) := by
      rintro r ⟨rfl, hf⟩; simp [fillable] at hf; omega
    have hd : d ≠ 61#6 := by rintro rfl; simp at hp
    have key : ∀ l, Wrote s { s with flights := s.flights ++ l } d v 0#8 ↔ l = portMessage s d v := by
      intro l
      constructor
      · rintro ⟨-, -, -, h⟩; exact List.append_cancel_left h
      · rintro rfl
        refine ⟨?_, by simp [hd]; rfl, ?_, rfl⟩
        · intro r _ hr _; rw [if_neg (hnf r)]; exact regOf_congr _ _ _ hr
        · intro r hr
          have : r ≠ d.toNat := fun e => hnf r ⟨e, hr⟩
          simp [this]; rfl
    split
    · rename_i m hm
      rw [key]
      have : d.toNat - 48 + 2 = d.toNat - 46 := by omega
      simp only [portMessage, hp, hm, this, and_self, if_true]
    · rename_i hm
      have := (key []).2 (by simp [portMessage, hp, hm])
      simpa using this
  · rename_i hp
    have h62 : d.toNat < 64 := d.isLt
    refine ⟨?_, ?_, ?_, ?_⟩
    · intro r h64 hr h61
      have : (s.setThr (s.thr.put d.toNat v)).regVal r = s.regOf s.turn (s.thr.put d.toNat v) r := by
        simp only [State.regVal, State.thr_setThr, State.setThr_turn]
        exact regOf_congr _ _ _ hr
      rw [this, regOf_put _ _ _ _ _ _ hr h61 h64]; rfl
    · simp only [State.thr_setThr, BitVec.or_zero]
      unfold Thread.put
      by_cases e : d = 61#6
      · subst e; simp
      · have : d.toNat ≠ 61 := fun h => e (BitVec.eq_of_toNat_eq (by simpa using h))
        split
        · simp [e]
        · simp [e]
    · intro r hr
      rw [State.thr_setThr, full_put _ _ _ _ hr]
    · simp [portMessage, hp]

/-- Of the thread, a result written touches registers only. -/
theorem wr_onlyRegisters (s : State) (d : GReg) (v : Word) :
    OnlyRegisters s (s.wr d v) ∧ (s.wr d v).thr.npc = s.thr.npc ∧ (s.wr d v).thr.skip = s.thr.skip := by
  unfold State.wr State.wrN OnlyRegisters
  split
  · split <;> exact ⟨rfl, rfl, rfl⟩
  · simp only [State.thr_setThr]
    unfold Thread.put
    split
    · exact ⟨rfl, rfl, rfl⟩
    · split <;> exact ⟨rfl, rfl, rfl⟩

/-- A message more on its way leaves everything else. -/
theorem onlyThread_flights (s : State) (l : List Flight) : OnlyThread s { s with flights := l } :=
  ⟨rfl, fun _ _ => rfl, rfl, fun _ _ => rfl⟩

/-- Outside the thread, a result written touches nothing but the messages on their way. -/
theorem wr_onlyThread (s : State) (d : GReg) (v : Word) : OnlyThread s (s.wr d v) := by
  unfold State.wr State.wrN
  split
  · split
    · exact onlyThread_flights s _
    · exact onlyThread_flights s s.flights
  · exact onlyThread_setThr s _

@[simp] theorem wr_fifo (s : State) (d : GReg) (v : Word) (n p : Nat) : (s.wr d v).fifo n p = s.fifo n p := by
  unfold State.wr State.wrN
  split
  · split <;> rfl
  · simp

@[simp] theorem wr_turn (s : State) (d : GReg) (v : Word) : (s.wr d v).turn = s.turn := by
  have := congrArg State.turn (wr_onlyThread s d v).1; exact this

/-! ## Ports popped -/

theorem onlyThread_trans {s t u : State} (h1 : OnlyThread s t) (h2 : OnlyThread t u) : OnlyThread s u := by
  obtain ⟨a1, b1, c1, d1⟩ := h1
  obtain ⟨a2, b2, c2, d2⟩ := h2
  have ht : t.turn = s.turn := by have := congrArg State.turn a1; exact this
  have hc : t.cur = s.cur := by have := congrArg State.cur a1; exact this
  refine ⟨?_, fun n hn => ?_, ?_, fun k hk => ?_⟩
  · have := congrArg (fun x : State => ({ x with cells := s.cells, flights := s.flights } : State)) a2
    exact this.trans a1
  · rw [b2 n (by rw [ht]; exact hn), b1 n hn]
  · have := congrArg (fun c : Cell => ({ c with slots := s.cell.slots, mesh := s.cell.mesh } : Cell)) c2
    exact this.trans c1
  · rw [← d1 k hk, ← ht]; exact d2 k (by rw [hc]; exact hk)

/-- One FIFO set: the thread stays. -/
theorem onlyThread_setFifo (s : State) (p : Nat) (l : List Word) : OnlyThread s (s.setFifo s.turn p l) := by
  refine ⟨rfl, fun n hn => ?_, ?_, fun k _ => ?_⟩
  · simp [State.setFifo, State.cellAt_setCell_ne _ _ hn]
  · simp [State.cell, State.setFifo]
  · simp [State.thr?, State.setFifo]

theorem thr_setFifo (s : State) (p : Nat) (l : List Word) : (s.setFifo s.turn p l).thr = s.thr := by
  simp [State.thr, State.thrAt, State.thr?, State.setFifo]

theorem fifo_setFifo (s : State) (n p q : Nat) (l : List Word) :
    (s.setFifo n p l).fifo n q = if q = p then l else s.fifo n q := by
  simp [State.fifo, State.setFifo, tget_tput]

/-- Ports popped: the FIFOs named lose their heads, the thread and everything else stays. -/
theorem popPorts_spec (s : State) (rs : List GReg) :
    OnlyThread s (s.popPorts rs) ∧ (s.popPorts rs).thr = s.thr ∧
    ∀ p, (s.popPorts rs).fifo s.turn p =
      if p < 4 ∧ rs.any (fun r => r.toNat == 48 + p) then (s.fifo s.turn p).drop 1 else s.fifo s.turn p := by
  have step : ∀ (x : State) (r : Nat), x.turn = s.turn →
      let y := if rs.any (fun q => q.toNat == r) then x.popPort r else x
      OnlyThread x y ∧ y.thr = x.thr ∧ y.turn = s.turn ∧
      ∀ p, y.fifo s.turn p = if p = r - 48 ∧ rs.any (fun q => q.toNat == r) then (x.fifo s.turn p).drop 1 else x.fifo s.turn p := by
    intro x r hx
    dsimp only
    split
    · rename_i h
      refine ⟨onlyThread_setFifo x _ _, thr_setFifo x _ _, hx, fun p => ?_⟩
      simp only [State.popPort, h, and_true, hx]
      rw [← hx, fifo_setFifo]
      split
      · rename_i e; subst e; rfl
      · rfl
    · rename_i h
      refine ⟨onlyThread_flights x x.flights, rfl, hx, fun p => ?_⟩
      simp [h]
  unfold State.popPorts
  simp only [List.foldl]
  obtain ⟨a0, b0, c0, d0⟩ := step s 48 rfl
  obtain ⟨a1, b1, c1, d1⟩ := step _ 49 c0
  obtain ⟨a2, b2, c2, d2⟩ := step _ 50 c1
  obtain ⟨a3, b3, c3, d3⟩ := step _ 51 c2
  refine ⟨onlyThread_trans (onlyThread_trans (onlyThread_trans a0 a1) a2) a3, by rw [b3, b2, b1, b0], fun p => ?_⟩
  rw [d3, d2, d1, d0]
  have : p = 0 ∨ p = 1 ∨ p = 2 ∨ p = 3 ∨ 4 ≤ p := by omega
  rcases this with e | e | e | e | e
  · subst e; simp
  · subst e; simp
  · subst e; simp
  · subst e; simp
  · have h0 : p ≠ 0 := by omega
    have h1 : p ≠ 1 := by omega
    have h2 : p ≠ 2 := by omega
    have h3 : p ≠ 3 := by omega
    simp [h0, h1, h2, h3, Nat.not_lt.2 e]

/-! ## An instruction of one result -/

/-- Registers read as before where the threads are equal and the state differs only in its FIFOs. -/
theorem wrote_of_thr {s x y : State} {d : GReg} {v : Word} {fl : BitVec 8} (h : Wrote s x d v fl) (ht : y.thr = x.thr)
    (hn : y.turn = x.turn) (hf : y.flights = x.flights) : Wrote s y d v fl := by
  obtain ⟨h1, h2, h3, h4⟩ := h
  refine ⟨fun r h64 hr h61 => ?_, by rw [ht]; exact h2, fun r hr => by rw [ht]; exact h3 r hr, by rw [hf]; exact h4⟩
  rw [← h1 r h64 hr h61]
  unfold State.regVal
  rw [ht, hn]
  exact regOf_congr _ _ _ hr

/-- The effect of an instruction followed by the ports it reads: what `Result` says, for an effect that writes one result
and changes only registers, flags and the next pc of the thread. -/
theorem result_popAfter {i : Instr} {s x : State} {d : GReg} {v : Word} {fl : BitVec 8} (hI : Issues i s)
    (hw : Wrote s x d v fl) (hr : OnlyRegisters s x) (ho : OnlyThread s x) (hf : ∀ p, x.fifo s.turn p = s.fifo s.turn p) :
    Result i s (s.popAfter x (s.srcsOf i)) d v fl x.thr.npc x.thr.skip := by
  obtain ⟨-, hs, hh⟩ := hI
  have hst : x.thr.stop = none := by have := congrArg Thread.stop hr; exact this.trans hs
  have hwt : x.thr.wait.holds = false := by
    have : x.thr.wait = s.thr.wait := by have := congrArg Thread.wait hr; exact this
    rw [this, hh]
  have hturn : x.turn = s.turn := by have := congrArg State.turn ho.1; exact this
  have key : ∀ y, OnlyThread x y → y.thr = x.thr → y.flights = x.flights →
      (∀ p, y.fifo s.turn p = if s.thr.latch = none ∧ p < 4 ∧ (s.srcsOf i).any (fun r => r.toNat == 48 + p)
        then (s.fifo s.turn p).drop 1 else s.fifo s.turn p) → Result i s y d v fl x.thr.npc x.thr.skip := by
    intro y hy ht hfl hp
    have hyt : y.turn = x.turn := by have := congrArg State.turn hy.1; exact this
    refine ⟨wrote_of_thr hw ht hyt hfl, by rw [ht], by rw [ht], ?_, onlyThread_trans ho hy, hp,
      memSame_of_onlyThread (onlyThread_trans ho hy)⟩
    unfold OnlyRegisters; rw [ht]; exact hr
  unfold State.popAfter
  cases hl : s.thr.latch with
  | some l =>
    simp only [Option.isSome_some, Bool.true_or, if_true]
    exact key x (onlyThread_flights x x.flights) rfl rfl (fun p => by simp [hl, hf])
  | none =>
    simp only [Option.isSome_none, hst, hwt, Bool.or_false, Bool.false_eq_true, if_false]
    obtain ⟨h1, h2, h3⟩ := popPorts_spec x (s.srcsOf i)
    have h4 : (x.popPorts (s.srcsOf i)).flights = x.flights := by
      unfold State.popPorts
      have : ∀ (l : List Nat) (z : State), (l.foldl (fun z r => if (s.srcsOf i).any (fun q => q.toNat == r) then z.popPort r else z) z).flights = z.flights := by
        intro l
        induction l with
        | nil => exact fun _ => rfl
        | cons a r ih => intro z; rw [List.foldl, ih]; split <;> rfl
      exact this _ _
    refine key _ h1 h2 h4 fun p => ?_
    rw [← hturn, h3 p, hturn, hf p]
    simp [hl]

/-- What `Computes` asks of an instruction that writes one result. -/
theorem computes_of_run {i : Instr} {s : State} {d : GReg} {g : State → Word}
    (he : exec i s = s.run i fun s => s.wr d (g s)) (hI : Issues i s) : Computes i d s (g s) := by
  obtain ⟨h1, h2, h3⟩ := wr_onlyRegisters s d (g s)
  refine ⟨_, by rw [he, run_effect hI.1], ?_⟩
  have := result_popAfter hI (wr_wrote s d (g s)) h1 (wr_onlyThread s d (g s)) (fun p => wr_fifo s d (g s) _ p)
  rwa [h2, h3] at this

end Sys2Proof.Machine
end

