-- ==== Sys2Proof/Tests/Slice0.lean ====
section
/-! SUPPORT. The model's own tests: words of the spec's encoding tables, worked values of the spec, ill-formed terms, and for each
statement a witness that its hypotheses can be met. -/
set_option maxRecDepth 100000
set_option Elab.async false
namespace Sys2Proof.Tests
open Sys2Proof Sys2Proof.Machine

/-- A computed value is `a`. -/
theorem ok_of {ε α : Type} [DecidableEq α] {x : Except ε α} {a : α}
    (h : (match x with | .ok b => decide (b = a) | .error _ => false) = true) : x = .ok a := by
  cases x <;> simp_all

/-- A computed error is `a`. -/
theorem err_of {ε α : Type} [DecidableEq ε] {x : Except ε α} {a : ε}
    (h : (match x with | .error b => decide (b = a) | .ok _ => false) = true) : x = .error a := by
  cases x <;> simp_all

/-! ## Decoding -/

/-- Words of the encoding tables of spec/13 and spec/14 beside their source lines. -/
theorem test_decode_control :
    decodeCode (.c 0x010FFFFD#32) = .ok (.br (-3)) ∧ decodeCode (.c 0x0301C005#32) = .ok (.bz 7 5) ∧
    decodeCode (.c 0x0400BFFE#32) = .ok (.bnz 2 (-2)) ∧ decodeCode (.c 0x060F8500#32) = .ok (.jlr 62 5) ∧
    decodeCode (.c 0x07008010#32) = .ok (.rep 2 4) ∧ decodeCode (.c 0x0A004200#32) = .ok (.setpri 1 2) ∧
    decodeCode (.c 0x0C010518#32) = .ok (.launch 4 5 6) ∧ decodeCode (.c 0x0D000824#32) = .ok (.fill 8 9) ∧
    decodeCode (.c 0x09000000#32) = .ok (.done) ∧ decodeCode (.c 0x7F000000#32) = .ok (.nopc) := by
  and_intros <;> exact ok_of (by decide +kernel)

/-- Words of spec/13 and spec/15 beside their source lines. -/
theorem test_decode_memory :
    decodeCode (.c 0x10314484#32) = .ok (.ld 3 5 4 2 4) ∧ decodeCode (.c 0x11114443#32) = .ok (.lds 1 5 4 1 3) ∧
    decodeCode (.c 0x1201C4FF#32) = .ok (.st 7 4 3 (-1)) ∧ decodeCode (.c 0x1301441A#32) = .ok (.ldx 0 5 4 6 2) ∧
    decodeCode (.c 0x1501C418#32) = .ok (.stx 7 4 6 0) ∧ decodeCode (.c 0x160004D0#32) = .ok (.pf 4 3 16) ∧
    decodeCode (.c 0x17000009#32) = .ok (.fence 2 1) ∧ decodeCode (.c 0x18000414#32) = .ok (.cinv 4 5) ∧
    decodeCode (.c 0x2000420D#32) = .ok (.mbwait 1 2 3 1) ∧ decodeCode (.c 0x2201441A#32) = .ok (.bowait 5 4 6 2) ∧
    decodeCode (.c 0x24114400#32) = .ok (.wmread 1 5 4) ∧ decodeCode (.lone 0x020003E890014400#64) = .ok (.ldLone 0 5 4 2 false 0 false 1000) ∧
    decodeCode (.lone 0x03A0000890214400#64) = .ok (.ldLone 2 5 4 3 true 2 false 8) ∧ decodeCode (.lone 0x024000049101C400#64) = .ok (.stLone 7 4 2 true 0 4) ∧
    decodeCode (.lone 0x0390000092014400#64) = .ok (.ldsy 0 5 4 1 0) ∧ decodeCode (.lone 0x034000009301C400#64) = .ok (.stsy 7 4 0 0) ∧
    decodeCode (.lone 0x0390000894114418#64) = .ok (.aadd 1 5 4 6 3 true false 1 8) ∧ decodeCode (.lone 0x02000010940FC418#64) = .ok (.aadd 0 63 4 6 2 false false 0 16) ∧
    decodeCode (.lone 0x1FC000009D114418#64) = .ok (.acas 1 5 4 6 7 3 true true 0 0) ∧ decodeCode (.lone 0x030000009E00420C#64) = .ok (.bmove 1 2 3 3 false false 0) := by
  and_intros <;> exact ok_of (by decide +kernel)

/-- Words of spec/15 and spec/16 beside their source lines. -/
theorem test_decode_engines :
    decodeCode (.lone 0x00000001A0314418#64) = .ok (.cpsub 3 5 4 6 true) ∧ decodeCode (.lone 0x00000000A4000414#64) = .ok (.boinit 4 5) ∧
    decodeCode (.lone 0x00000000A1014400#64) = .ok (.bmv 0 5 4) ∧ decodeCode (.lone 0x00000000A2114418#64) = .ok (.coll 1 5 4 6) ∧
    decodeCode (.lone 0x00000001A3014418#64) = .ok (.cwait 5 4 6 true) ∧ decodeCode (.lone 0x00000000A6000418#64) = .ok (.marm 4 6) ∧
    decodeCode (.lone 0x1C000001A7000418#64) = .ok (.mref 4 6 7 true) ∧ decodeCode (.lone 0x00000002A8114400#64) = .ok (.mread 1 5 4 2) := by
  and_intros <;> exact ok_of (by decide +kernel)

/-- Words of spec/13 and spec/14 beside their source lines. -/
theorem test_decode_scalar :
    decodeCode (.a 0x01181080#32) = .ok (.add 6 1 2) ∧ decodeCode (.a 0x170C1083#32) = .ok (.addsc 3 1 2 3) ∧
    decodeCode (.a 0x18101089#32) = .ok (.sel 4 1 2 9) ∧ decodeCode (.a 0x0BC41FC0#32) = .ok (.or 49 1 63) ∧
    decodeCode (.a 0x200BF004#32) = .ok (.addi 2 63 4) ∧ decodeCode (.a 0x20082FFF#32) = .ok (.addi 2 2 (-1)) ∧
    decodeCode (.a 0x30FC20E2#32) = .ok (.cmp 63 2 3 2 2) ∧ decodeCode (.a 0x31042157#32) = .ok (.cmpi 1 2 5 1 7) ∧
    decodeCode (.a 0x380CA000#32) = .ok (.take 3 10) ∧ decodeCode (.a 0x451461CC#32) = .ok (.fma 5 6 7 1 2) ∧
    decodeCode (.a 0x7F000000#32) = .ok (.nopa) ∧ decodeCode (.lone 0x0040000080020000#64) = .ok (.ldi 8 0x400000) ∧
    decodeCode (.lone 0x0000000181020000#64) = .ok (.ldih 8 1) := by
  and_intros <;> exact ok_of (by decide +kernel)

/-- Words of spec/14 beside their source lines. -/
theorem test_decode_system :
    decodeCode (.lone 0x0000002A82000000#64) = .ok (.trap 42) ∧ decodeCode (.lone 0x0000000083008900#64) = .ok (.tret 2 9) ∧
    decodeCode (.lone 0x0000100084214400#64) = .ok (.rdpr 2 5 4 0x1000) ∧ decodeCode (.lone 0x0000030085000414#64) = .ok (.wrpr 4 5 0x300) ∧
    decodeCode (.lone 0x0000000186004200#64) = .ok (.cbank 1 2 true) := by
  and_intros <;> exact ok_of (by decide +kernel)

/-- Words of spec/16 beside their source lines. -/
theorem test_decode_replicated :
    decodeCode (.lone 0x080003FFB0214400#64) = .ok (.radd 2 5 4 2 1023 false) ∧ decodeCode (.lone 0x1C002000B00FC400#64) = .ok (.radd 0 63 4 7 0 true) ∧
    decodeCode (.lone 0x040000FFB6114418#64) = .ok (.rmean 1 5 4 6 1 255 false) ∧ decodeCode (.lone 0x0C004000B2014418#64) = .ok (.rlww 0 5 4 6 3 true) ∧
    decodeCode (.lone 0x00000000B3114418#64) = .ok (.rsadd 1 5 4 6) ∧ decodeCode (.lone 0x0000C1FFB7310400#64) = .ok (.rread 3 4 4 511 false true 1 false) ∧
    decodeCode (.lone 0x1C000000B9014418#64) = .ok (.rstab 0 5 4 6 7 false) ∧ decodeCode (.lone 0x00000002BA014018#64) = .ok (.rhlc 0 5 6 2) := by
  and_intros <;> exact ok_of (by decide +kernel)

/-- Words of spec/17 beside their source lines. -/
theorem test_decode_tile :
    decodeCode (.lone 0x1001F004C0218000#64) = .ok (.tld 2 3 4 0 false 31 4) ∧ decodeCode (.lone 0x1180F002C1000C00#64) = .ok (.tst 0 3 4 1 true 15 2) ∧
    decodeCode (.lone 0x00580000CB128445#64) = .ok (.vfma 1 5 1 2 5 0 0 11 false false) ∧ decodeCode (.lone 0x24820000CA031800#64) = .ok (.vmul 0 6 6 0 9 1 0 false true) ∧
    decodeCode (.lone 0x000000B1D8039400#64) = .ok (.vcvt 0 7 5 0 0 11 1) ∧ decodeCode (.lone 0x00300002DC040409#64) = .ok (.mxpack 0 8 1 9 0 6 2) := by
  and_intros <;> exact ok_of (by decide +kernel)

/-- Words of spec/13 and spec/17 beside their source lines. -/
theorem test_decode_matrix :
    decodeCode (.lone 0x29800036E0000000#64) = .ok (.mcfg 10 3 true true 1 2) ∧ decodeCode (.lone 0xFDB00000E1100040#64) = .ok (.mmul 1 0 2 63 3 1 true 0) ∧
    decodeCode (.lone 0x51000000E22010C0#64) = .ok (.msend 2 0 4 6 20 2 0 false 0 0) ∧ decodeCode (.lone 0x00008080E3138000#64) = .ok (.acget 1 7 0 0 64 128) ∧
    decodeCode (.lone 0x00584040E3018000#64) = .ok (.acget 0 3 0 11 32 64) ∧ decodeCode (.lone 0x004C0000E5000000#64) = .ok (.aczero 0 0 0 1 3) ∧
    decodeCode (.lone 0x00000040E6300120#64) = .ok (.amerge 3 0 0 9 4) := by
  and_intros <;> exact ok_of (by decide +kernel)

/-- Words of spec/17 beside their source lines. -/
theorem test_decode_stream :
    decodeCode (.lone 0x00000001F0020000#64) = .ok (.slen 2 1) ∧ decodeCode (.lone 0x30002864F1120000#64) = .ok (.sgen 1 2 12 4 3 false 5) ∧
    decodeCode (.lone 0x00000000F2142300#64) = .ok (.sand 1 4 2 3) ∧ decodeCode (.lone 0x00000000F4052310#64) = .ok (.smux 0 5 2 3 1) ∧
    decodeCode (.lone 0x00000406F5204000#64) = .ok (.scnt 2 4 6 0 1) ∧ decodeCode (.lone 0x30004800F6064000#64) = .ok (.sregen 0 6 4 12 9) := by
  and_intros <;> exact ok_of (by decide +kernel)

/-- R282: encodings that are no instruction: the all-zero and the all-ones bundle, word 1 bit 31 beside a C-slot word, LA on an opcode without
lookahead, a nonzero unused field, COND 12, KIND 3, RM 5, SGN with SZ 3, SC without a class; and the pairings of R279, R281 and R302. -/
theorem test_decode_refused :
    decodeBundle 0x0000000000000000#64 = .error .unassigned ∧ decodeBundle 0xFFFFFFFFFFFFFFFF#64 = .error .unassigned ∧
    decodeBundle 0xFF0000007F000000#64 = .error .unassigned ∧ decodeCode (.c 0x01100000#32) = .error .reserved ∧ decodeCode (.c 0x09000001#32) = .error .reserved ∧
    decodeCode (.a 0x3004208C#32) = .error .operand ∧ decodeCode (.c 0x1700000C#32) = .error .operand ∧ decodeCode (.a 0x400420A8#32) = .error .operand ∧
    decodeCode (.lone 0x0308000090014400#64) = .error .operand ∧ decodeCode (.lone 0x0310000090014400#64) = .error .operand ∧
    decodeBundle 0x01142080100144C0#64 = .error .pairing ∧ decodeBundle 0x310421570300C005#64 = .error .pairing ∧
    decodeBundle 0x380C500010014400#64 = .error .pairing ∧ decodeBundle 0x011820801001C484#64 = .ok (.pair (.ld 0 7 4 2 4) (.add 6 2 2)) := by
  and_intros <;> first | exact err_of (by decide +kernel) | exact ok_of (by decide +kernel)

/-- R282: the host's table words: the first bits of the first word are the lowest. -/
theorem test_decode_table_word :
    decodeTableWord 32 0x0400BFFE = some (.bnz 2 (-2)) ∧ decodeTableWord 32 0x01181080 = some (.add 6 1 2) ∧
    decodeTableWord 64 0x0040000080020000 = some (.ldi 8 0x400000) ∧ decodeTableWord 32 0 = none := by decide +kernel

/-- Ill-formed terms of encoded instructions: one for each operand that has a check (R176, R204, R278, R282, R369 and the chapter of each). -/
theorem test_wf_encoded_0 : ([
  .jlr 52 0, .rep 52 1, .setpri 52 0, .launch 52 0 0, .ld 0 52 0 0 0, .lds 0 52 0 0 0, .lds 0 0 0 3 0, .ldx 0 52 0 0 0, .ldsx 0 52 0 0 0, .ldsx 0 0 0 0 3, .fence 3 0,
  .mbwait 52 0 0 0, .mbwait 0 0 0 2, .mbread 0 52 0, .bowait 52 0 0 0, .boread 0 52 0 0, .wmread 0 52 0, .add 52 0 0, .sub 52 0 0, .mul 52 0 0, .mulh 52 0 0,
  .mulhu 52 0 0, .div 52 0 0, .divu 52 0 0, .rem 52 0 0, .remu 52 0 0, .and 52 0 0, .or 52 0 0, .xor 52 0 0, .andn 52 0 0, .shl 52 0 0, .shr 52 0 0, .sra 52 0 0,
  .rol 52 0 0, .ror 52 0 0, .min 52 0 0, .max 52 0 0, .minu 52 0 0, .maxu 52 0 0, .addsc 52 0 0 0, .addsc 0 0 0 8, .sel 52 0 0 0, .clz 52 0, .ctz 52 0, .popc 52 0,
  .bswap 52 0, .bext 52 0 0 0, .bins 52 0 0 0, .sext 52 0 0, .addi 52 0 0, .andi 52 0 0, .ori 52 0 0, .xori 52 0 0, .shli 52 0 0, .shli 0 0 64, .shri 52 0 0,
  .shri 0 0 64, .srai 52 0 0, .srai 0 0 64, .muli 52 0 0, .cmp 52 0 0 0 0, .cmp 0 0 0 0 12, .cmpi 52 0 0 0 0, .cmpi 0 0 0 0 12, .fcmp 52 0 0 0 0, .fcmp 0 0 0 0 8,
  .fcmpd 52 0 0 0 0, .fcmpd 0 0 0 0 8, .take 52 2, .take 1 1, .mkempty 52, .mkfull 52, .isfull 52 0, .fadd 52 0 0 0 0, .fadd 0 0 0 5 0, .fsub 52 0 0 0 0,
  .fsub 0 0 0 5 0, .fmul 52 0 0 0 0, .fmul 0 0 0 5 0, .fdiv 52 0 0 0 0, .fdiv 0 0 0 5 0, .fsqrt 52 0 0 0, .fsqrt 0 0 5 0, .fma 52 0 0 0 0, .fma 0 0 0 5 0] : List Instr).all (fun i => !i.wf) = true := by decide +kernel

/-- Ill-formed terms of encoded instructions: one for each operand that has a check (R176, R204, R278, R282, R369 and the chapter of each). -/
theorem test_wf_encoded_1 : ([
  .fmin 52 0 0 0, .fmax 52 0 0 0, .fabs 52 0 0, .fneg 52 0 0, .fcvt 52 0 0 0 0, .fcvt 0 0 0 5 0, .fcvti 52 0 0 0 0, .fcvti 0 0 4 0 0, .fcvti 0 0 0 5 0,
  .icvtf 52 0 0 0 0, .icvtf 0 0 4 0 0, .icvtf 0 0 0 5 0, .fclass 52 0 0, .fexp2 52 0 0 0, .fexp2 0 0 5 0, .ldi 52 0, .ldih 52 0, .tret 52 0, .rdpr 0 52 0 0,
  .cbank 52 0 false, .cbank 0 1 false, .rdtb 52 0, .rdtb 0 2, .ldLone 0 52 0 0 false 0 false 0, .ldLone 0 0 0 0 false 1 false 0, .stLone 0 0 0 false 1 0,
  .ldsy 0 52 0 0 0, .aadd 0 52 0 0 2 false false 0 0, .aadd 0 1 0 0 1 false false 0 0, .aadd 0 1 0 0 2 false false 1 0, .aand 0 52 0 0 2 false false 0 0,
  .aand 0 1 0 0 1 false false 0 0, .aand 0 1 0 0 2 false false 1 0, .aor 0 52 0 0 2 false false 0 0, .aor 0 1 0 0 1 false false 0 0, .aor 0 1 0 0 2 false false 1 0,
  .axor 0 52 0 0 2 false false 0 0, .axor 0 1 0 0 1 false false 0 0, .axor 0 1 0 0 2 false false 1 0, .amin 0 52 0 0 2 false false 0 0, .amin 0 1 0 0 1 false false 0 0,
  .amin 0 1 0 0 2 false false 1 0, .amax 0 52 0 0 2 false false 0 0, .amax 0 1 0 0 1 false false 0 0, .amax 0 1 0 0 2 false false 1 0, .aminu 0 52 0 0 2 false false 0 0,
  .aminu 0 1 0 0 1 false false 0 0, .aminu 0 1 0 0 2 false false 1 0, .amaxu 0 52 0 0 2 false false 0 0, .amaxu 0 1 0 0 1 false false 0 0,
  .amaxu 0 1 0 0 2 false false 1 0, .aswp 0 52 0 0 2 false false 0 0, .aswp 0 1 0 0 1 false false 0 0, .aswp 0 1 0 0 2 false false 1 0,
  .acas 0 52 0 0 0 2 false false 0 0, .acas 0 1 0 0 0 1 false false 0 0, .acas 0 1 0 0 0 2 false false 1 0, .bmove 52 2 3 0 false false 0, .bmove 1 1 3 0 false false 0,
  .bmove 1 2 1 0 false false 0, .bmove 1 2 3 0 false false 1, .cpsub 0 52 0 0 false, .bmv 0 52 0, .coll 0 52 0 0, .cwait 52 0 0 false, .mbset 52 0 0, .mref 0 1 0 false,
  .mref 0 0 1 false, .mread 0 52 0 0, .mread 0 0 0 3, .radd 0 52 0 0 0 false, .radd 0 0 0 52 0 false, .rmax 0 52 0 0 0 false, .rmax 0 0 0 52 0 false,
  .rlww 0 52 0 0 0 false, .rlww 0 0 0 1 0 false, .rlww 0 0 0 0 52 false, .rsadd 0 52 0 0, .rsrem 0 52 0 0, .rshas 0 52 0 0 false, .rmean 0 52 0 0 0 0 false,
  .rmean 0 0 0 0 52 0 false, .rread 0 52 0 0 false false 0 false, .rread 0 0 0 0 false false 5 false, .rfront 0 52 0 0 0] : List Instr).all (fun i => !i.wf) = true := by decide +kernel

/-- Ill-formed terms of encoded instructions: one for each operand that has a check (R176, R204, R278, R282, R369 and the chapter of each). -/
theorem test_wf_encoded_2 : ([
  .rstab 0 52 0 0 0 false, .rhlc 0 52 0 0, .rhlc 0 0 1 0, .rhlc 0 0 0 3, .tld 0 0 0 1 false 0 0, .tst 0 0 0 1 false 0 0, .tmov 0 0 0 false 1 0, .tmov 0 0 0 false 0 1,
  .tfill 0 0 0 0 false 1, .vadd 0 0 0 0 1 0 0 false false, .vadd 0 0 0 0 0 5 0 false false, .vadd 0 0 0 0 0 0 2 false false, .vadd 0 0 0 0 0 0 0 true false,
  .vsub 0 0 0 0 1 0 0 false false, .vsub 0 0 0 0 0 5 0 false false, .vsub 0 0 0 0 0 0 2 false false, .vsub 0 0 0 0 0 0 0 true false, .vmul 0 0 0 0 1 0 0 false false,
  .vmul 0 0 0 0 0 5 0 false false, .vmul 0 0 0 0 0 0 2 false false, .vmul 0 0 0 0 0 0 0 true false, .vfma 0 0 0 0 0 1 0 0 false false, .vfma 0 0 0 0 0 0 5 0 false false,
  .vfma 0 0 0 0 0 0 0 2 false false, .vfma 0 0 0 0 0 0 0 0 true false, .vdiv 0 0 0 0 1 0 0 false, .vdiv 0 0 0 0 0 5 0 false, .vdiv 0 0 0 0 0 0 2 false, .vsqrt 0 0 0 5 0,
  .vsqrt 0 0 0 0 2, .vmin 0 0 0 0 1 0 false false, .vmin 0 0 0 0 0 2 false false, .vmin 0 0 0 0 0 0 true false, .vmax 0 0 0 0 1 0 false false,
  .vmax 0 0 0 0 0 2 false false, .vmax 0 0 0 0 0 0 true false, .vexp2 0 0 0 5 0, .vexp2 0 0 0 0 2, .vabs 0 0 0 2 false, .vabs 0 0 0 0 true, .vneg 0 0 0 2 false,
  .vneg 0 0 0 0 true, .vand 0 0 0 0 1 0 false, .vand 0 0 0 0 0 2 false, .vor 0 0 0 0 1 0 false, .vor 0 0 0 0 0 2 false, .vxor 0 0 0 0 1 0 false, .vxor 0 0 0 0 0 2 false,
  .vshl 0 0 0 0 1 12 false, .vshl 0 0 0 0 0 1 false, .vshr 0 0 0 0 1 12 false false, .vshr 0 0 0 0 0 1 false false, .vcvt 0 0 0 5 0 0 0, .vcvt 0 0 0 0 4 0 0,
  .vcvt 0 0 0 0 0 4 0, .vcvt 0 0 0 0 0 0 1, .vrsum 0 0 0 5 0, .vrsum 0 0 0 0 2, .vrmax 0 0 0 2, .vtrans 0 0 0 0 2 false, .mxpack 0 2 0 2 0 4 0, .mxpack 0 1 0 1 0 4 0,
  .mxpack 0 1 0 2 5 4 0, .mxpack 0 1 0 2 0 1 0, .mxpack 0 1 0 2 0 4 4, .mxunpk 0 0 0 0 5 4 0, .mxunpk 0 0 0 0 0 1 0, .mxunpk 0 0 0 0 0 4 4, .vscal 0 0 0 0 0 5 11,
  .vscal 0 0 0 0 0 0 1, .mcfg 0 0 false false 1 0, .mcfg 0 0 false false 0 1, .msend 0 1 0 0 0 0 0 false 0 0, .msend 0 0 0 0 1 0 0 false 0 0,
  .msend 0 0 0 0 0 0 0 false 0 4, .acget 0 0 1 11 0 0, .acget 0 0 0 2 0 0, .amerge 0 1 0 0 1, .amerge 0 0 0 0 17, .anorm 0 1 0 1, .anorm 0 0 0 17, .slen 0 3,
  .scnt 0 0 0 0 3] : List Instr).all (fun i => !i.wf) = true := by decide +kernel

/-- Events whose numbers are out of range. -/
theorem test_wf_events : ([
  .cellRelease 8, .sensorConversion 8 0 0, .criticalHalt 8, .criticalResume 8, .throttleStepDown 8, .throttleStepUp 8, .warmLoopEval 8, .clockStepApply 8,
  .hbmTempReading 16 0, .linkFrameReceive 16 false, .apply 16, .rehashComplete 16, .clrcnt 16, .hxmWrite 16 0 0, .hxmWrite 0 6 0, .elheadWrite 16 0, .dahliaAdmit 16 0,
  .dahliaAdmit 0 8, .migrationRetry 16896 0, .migrationRetry 0 1024, .lingerReturn 16896 0, .lingerReturn 0 1024, .migrationDepart 16896 0, .migrationDepart 0 1024,
  .banksideStart 16, .banksideComplete 16, .nakRepeat 96, .aseqTimer 96, .totalsFlitSend 96, .portSilenceTimeout 96, .laneRepairStart 96, .laneSwitchComplete 96,
  .rewiden 96, .rewidenComplete 96 false, .portDisable 96, .portEnable 96, .disableFlit 96, .farEndTraining 96, .portTrained 96, .e2eGapTimeout 2048 false,
  .retransmitTimeout 2048 false, .ack 2048 false 0, .nak 2048 false 0, .syn 2048 false 0 0, .resync 2048 false 0, .wrdone 512 0 0 0, .wrdone 0 32 0 0,
  .amoresp 512 0 0 0 0, .amoresp 0 32 0 0 0, .mignak 512 0, .mignak 0 32, .framedead 8 0 0, .rejoinSwitch 8 0 0, .rejoinSwitch 0 8 0, .resetRejoin 8 0 0,
  .resetRejoin 0 8 0, .deltaPartsTimeout 8 0 0 0 0, .deltaPartsTimeout 0 8 0 0 0, .gossipRound 8 0 0, .gossipRound 0 8 0, .frontierUpdate 8 0 0, .frontierUpdate 0 8 0,
  .groupFold 8 0 0, .groupFold 0 8 0, .ringPoll 8 0 0, .ringPoll 0 8 0, .ringRotationTick 8, .go 8 0 0, .go 0 8 0, .mismatch 8 0 0, .mismatch 0 8 0,
  .collectiveComplete 8 0 0, .collectiveComplete 0 8 0, .collectivePeerTimeout 8 0 0, .collectivePeerTimeout 0 8 0, .taskDispatch 8, .taskOffer 8 0, .taskOffer 0 4,
  .ballastKill 8 0, .ballastKill 0 4, .eventRecordProcess 8 0, .eventRecordProcess 0 2, .cancel 8, .kill 8, .cancelgraph 8, .cheadWrite 8 0 0, .cheadWrite 0 24 0,
  .copyRecordRead 8 0, .copyRecordRead 0 24, .copyPacketSend 8 0, .copyPacketSend 0 24, .copyOwnReread 8 0, .copyOwnReread 0 24, .copyRecordComplete 8 0,
  .copyRecordComplete 0 24, .cctlEnWrite 8 0 0, .cctlEnWrite 0 24 0, .abort 8 0, .abort 0 24, .loadReturn 512 0 0, .loadReturn 0 32 0, .trapFrameSend 512 0,
  .trapFrameSend 0 32, .trapFrameRetry 512 0, .trapFrameRetry 0 32, .yieldEnd 512 0, .yieldEnd 0 32, .meshMessageArrive 512 0, .meshMessageArrive 0 4,
  .fillArrive 512 0 0 0, .fillArrive 0 32 0 0, .fillArrive 0 0 48 0, .fillRetry 512 0, .fillRetry 0 32, .bankWake 512 0, .bankWake 0 6, .bankPowerApply 512 0,
  .bankPowerApply 0 6, .bankAutoRetention 512 0, .bankAutoRetention 0 6, .matrixCommandStart 512, .matrixCommandFinish 512 0, .matrixCommandFinish 0 4, .bankSwitch 8,
  .bankSwitchComplete 8, .lazySwapUnit 8 0, .lazySwapUnit 0 512, .dstopWrite 8 0, .traceSample 8, .map 8, .unmap 8, .protect 8, .move 8, .pin 8, .unpin 8, .flush 8,
  .xcmdComplete 8, .placementInterval 8, .pageMoveSwitch 8 0, .backgroundFill 8 0, .pageMoveFinish 8 0, .ptrootWrite 8 0, .syncAccessPerform 16, .syncRetry 512 0,
  .syncRetry 0 32, .barrierWaitRetry 512 0, .barrierWaitRetry 0 32, .partitionCreate 8 0, .partitionEnd 8 0, .fsrvWrite 8 0, .ringGetsWork 8 0 0, .ringGetsWork 0 8 0] : List Instr).all (fun i => !i.wf) = true := by decide +kernel

/-! ## A small machine -/

/-- A machine whose cell 0 holds one thread, its first GiB of virtual addresses mapped to itself. -/
def m0 : State := State.reset.placeBundle 0

/-- Its thread changed. -/
def onThr (s : State) (f : Thread → Thread) : State := s.setThr (f s.thr)

/-- Scalar registers set. -/
def gs (s : State) (l : List (Nat × Word)) : State := onThr s fun t => { t with g := l }

/-- The state that an instruction answers. -/
def ran (i : Instr) (s : State) : State :=
  match exec i s with
  | .next t => t
  | _ => s

/-- What an instruction leaves in g3, with g1 and g2 set. -/
def g3 (i : Instr) (a b : Word) : Word := (ran i (gs m0 [(1, a), (2, b), (3, 5#64)])).regVal 3

/-- The same, with the flags. -/
def g3f (i : Instr) (a b : Word) : Word × BitVec 8 := let t := ran i (gs m0 [(1, a), (2, b), (3, 5#64)]); (t.regVal 3, t.thr.st)

/-! ## Values -/

/-- Spec/02's worked example of the hash, and spec/11's of a scratch address. -/
theorem test_hash : State.reset.channel 0x0A5C3F40 = 3 ∧ State.reset.pchan 0x0A5C3F40 = 7 := by decide +kernel

/-- R295, by hand: wraps, signs, corners of division, counts above 63. -/
theorem test_integer :
    g3 (.add 3 1 2) (BitVec.allOnes 64) 2#64 = 1#64 ∧ g3 (.sub 3 1 2) 0#64 1#64 = BitVec.allOnes 64 ∧ g3 (.mul 3 1 2) 0x100000001#64 0x100000001#64 = 0x200000001#64 ∧
    g3 (.mulh 3 1 2) (BitVec.allOnes 64) 2#64 = BitVec.allOnes 64 ∧ g3 (.mulhu 3 1 2) (BitVec.allOnes 64) 2#64 = 1#64 ∧
    g3 (.div 3 1 2) (BitVec.ofInt 64 (-7)) 2#64 = BitVec.ofInt 64 (-3) ∧ g3 (.div 3 1 2) 0x8000000000000000#64 (BitVec.allOnes 64) = 0x8000000000000000#64 ∧
    g3 (.divu 3 1 2) 9#64 0#64 = BitVec.allOnes 64 ∧ g3 (.rem 3 1 2) (BitVec.ofInt 64 (-7)) 2#64 = BitVec.allOnes 64 ∧ g3 (.remu 3 1 2) 9#64 0#64 = 9#64 ∧
    g3 (.andn 3 1 2) 0xFF#64 0x0F#64 = 0xF0#64 ∧ g3 (.shl 3 1 2) 1#64 65#64 = 2#64 ∧ g3 (.shr 3 1 2) 0x8000000000000000#64 63#64 = 1#64 ∧
    g3 (.sra 3 1 2) 0x8000000000000000#64 63#64 = BitVec.allOnes 64 ∧ g3 (.rol 3 1 2) 0x8000000000000001#64 1#64 = 3#64 ∧ g3 (.ror 3 1 2) 3#64 1#64 = 0x8000000000000001#64 := by decide +kernel

/-- R295, R296, by hand: comparisons, bit fields, immediates. -/
theorem test_bits :
    g3 (.min 3 1 2) (BitVec.allOnes 64) 1#64 = BitVec.allOnes 64 ∧ g3 (.minu 3 1 2) (BitVec.allOnes 64) 1#64 = 1#64 ∧ g3 (.max 3 1 2) (BitVec.allOnes 64) 1#64 = 1#64 ∧
    g3 (.addsc 3 1 2 3) 1#64 2#64 = 17#64 ∧ g3 (.sel 3 1 2 63) 8#64 9#64 = 9#64 ∧ g3 (.clz 3 1) 0#64 0#64 = 64#64 ∧ g3 (.ctz 3 1) 8#64 0#64 = 3#64 ∧ g3 (.popc 3 1) 0xF1#64 0#64 = 5#64 ∧
    g3 (.bswap 3 1) 0x0102030405060708#64 0#64 = 0x0807060504030201#64 ∧ g3 (.bext 3 1 2 7) 0xABCD000000000000#64 56#64 = 0xAB#64 ∧ g3 (.bext 3 1 2 7) 0xABCD000000000000#64 60#64 = 0xA#64 ∧
    g3 (.bins 3 1 2 3) 0xFF#64 8#64 = 0xF05#64 ∧ g3 (.sext 3 1 7) 0x180#64 0#64 = 0xFFFFFFFFFFFFFF80#64 ∧ g3 (.addi 3 1 0xFFF) 0#64 0#64 = BitVec.allOnes 64 ∧
    g3 (.shli 3 1 4) 3#64 0#64 = 48#64 ∧ g3 (.muli 3 1 0xFFE) 3#64 0#64 = BitVec.ofInt 64 (-6) ∧ g3 (.ldi 3 0x80000000) 0#64 0#64 = 0xFFFFFFFF80000000#64 ∧ g3 (.ldih 3 1) 0#64 0#64 = 0x100000005#64 ∧
    g3 (.cmp 3 1 2 0 2) (BitVec.allOnes 64) 1#64 = 1#64 ∧ g3 (.cmp 3 1 2 0 4) (BitVec.allOnes 64) 1#64 = 0#64 ∧ g3 (.cmpi 3 1 5 0 7) 6#64 0#64 = 1#64 := by decide +kernel

/-- R202 to R206, R298 to R300, by hand (FP32 and FP16 patterns): a tie to even, a square root, an overflow, an exact fused sum, conversions
and their flags, signs of zero. -/
theorem test_float :
    g3f (.fadd 3 1 2 0 0) 0x3F800000#64 0x33800000#64 = (0x3F800000#64, 16#8) ∧ g3f (.fsub 3 1 2 0 0) 0x7F800000#64 0x7F800000#64 = (0x7FC00000#64, 1#8) ∧
    g3f (.fmul 3 1 2 0 0) 0x40490FDB#64 0x40000000#64 = (0x40C90FDB#64, 0#8) ∧ g3f (.fdiv 3 1 2 0 0) 0xBF800000#64 0#64 = (0xFF800000#64, 2#8) ∧
    g3f (.fsqrt 3 1 0 0) 0x40000000#64 0#64 = (0x3FB504F3#64, 16#8) ∧ g3f (.fcvt 3 1 2 0 0) 0x477FF000#64 0#64 = (0x7C00#64, 20#8) ∧ g3f (.fcvt 3 1 2 1 0) 0x477FF000#64 0#64 = (0x7BFF#64, 16#8) ∧
    g3f (.icvtf 3 1 0 0 0) 16777217#64 0#64 = (0x4B800000#64, 16#8) ∧ g3f (.fcvti 3 1 2 1 0) 0xC0200000#64 0#64 = (0xFFFFFFFFFFFFFFFE#64, 16#8) ∧
    g3f (.fcvti 3 1 3 0 0) 0xBF800000#64 0#64 = (0#64, 32#8) ∧ g3f (.fmin 3 1 2 0) 0#64 0x80000000#64 = (0x80000000#64, 0#8) ∧ g3f (.fabs 3 1 0) 0xFFC00000#64 0#64 = (0x7FC00000#64, 0#8) ∧
    g3f (.fclass 3 1 0) 0x00000001#64 0#64 = (32#64, 0#8) ∧ g3f (.fexp2 3 1 0 0) 0x3F000000#64 0#64 = (0x3FB504F3#64, 16#8) ∧ g3f (.fcmp 3 1 2 0 0) 0#64 0x80000000#64 = (1#64, 0#8) := by decide +kernel

/-- R203's own examples: 7.6 and 7.75 into E2M3, 464 and 472 into E4M3. -/
theorem test_saturation :
    fencode e2m3 0 0 (fdecode fp32 0x40F33333) = (0x1F, flNX) ∧ fencode e2m3 0 0 (fdecode fp32 0x40F80000) = (0x1F, flSAT + flOF + flNX) ∧
    fencode e4m3 0 0 (fdecode fp32 0x43E80000) = (0x7E, flNX) ∧ fencode e4m3 0 0 (fdecode fp32 0x43EC0000) = (0x7E, flSAT + flOF + flNX) := by decide +kernel

/-- Spec/10's worked example: 7.5, -0.125, 1 and 3 in E2M3 and the first three bytes of their row. -/
theorem test_six_bits :
    (fencode e2m3 0 0 (fdecode fp32 0x40F00000)).1 = 0x1F ∧ (fencode e2m3 0 0 (fdecode fp32 0xBE000000)).1 = 0x21 ∧ (fencode e2m3 0 0 (fdecode fp32 0x3F800000)).1 = 0x08 ∧
    (fencode e2m3 0 0 (fdecode fp32 0x40400000)).1 = 0x14 ∧ (packRows 6#4 ([0x1F, 0x21, 0x08, 0x14] ++ List.replicate 4092 0)).getD 0 0 % 2 ^ 24 = 0x50885F := by decide +kernel

/-- Spec/05's worked example: one row merged over four ranks and normalised, and a row that is masked everywhere. -/
theorem test_merge :
    let t0 : Triple := ⟨0x40400000, 0x3FC00000, [0x3F400000]⟩
    let no : Triple := ⟨0xFF800000, 0, [0]⟩
    let t2 : Triple := ⟨0x40A00000, 0x40000000, [0x3F800000]⟩
    let t3 : Triple := ⟨0x40800000, 0x3F800000, [0xBF000000]⟩
    let r := (t0.merge no).merge (t2.merge t3)
    r = ⟨0x40A00000, 0x40380000, [0x3F700000]⟩ ∧ r.norm = [0x3EA6F4DF] ∧ (no.merge no).norm = [0] := by decide +kernel

/-- Spec/17's worked example of lineage: a product whose operands share bits raises CORR with the common sources. -/
theorem test_lineage :
    let s := (((m0.setCell 0 { m0.cell with strms := [(2, ⟨[], 1, 0x20#64, true, false⟩), (4, ⟨[], 1, 0x60#64, true, false⟩), (5, ⟨[], 1, 0x61#64, true, false⟩), (9, ⟨[], 0, 0#64, true, false⟩)] })))
    (match (ran (.sand 1 7 4 2) s).thr.stop with | some f => f.cause == 7#8 && f.faddr == 0x20#64 | none => false) = true ∧
    (match (ran (.sand 1 8 9 2) s).thr.stop with | some f => f.cause == 10#8 | none => false) = true := by decide +kernel

/-! ## Witnesses: encodings, memory, a step

Each of the following shows a state and operands that meet the hypotheses of a statement, for each of its clauses. -/

/-- The hypothesis `Issues` as a Bool. -/
def issues (s : State) (i : Instr) : Bool := (s.preTrap i).isNone && s.thr.stop.isNone && !s.thr.wait.holds

/-- It is the hypothesis. -/
theorem issues_iff (s : State) (i : Instr) : issues s i = true ↔ Issues i s := by
  simp [issues, Issues, Option.isNone_iff_eq_none, and_assoc]

/-- A word of HBM stored with its line filled. -/
def word (s : State) (a v : Nat) : State :=
  { s with hbm := writeLE s.hbm a v 8, lines := tput s.lines (a / 64) { s.lineOf a with unfilled := none } }

/-- Words of HBM stored. -/
def words (s : State) (l : List (Nat × Nat)) : State := l.foldl (fun s e => word s e.1 e.2) s

theorem witness_DecodeOfEncode : (Instr.rep 47 4095).wf = true ∧ encode (.rep 47 4095) = some (.c 0x070BFFFC#32) := by decide +kernel

theorem witness_EncodeOfDecode : decodeCode (.c 0x0400BFFE#32) = .ok (.bnz 2 (-2)) ∧ decodeCode (.lone 0x0000000780004000#64) = .ok (.ldi 1 7) := by
  and_intros <;> exact ok_of (by decide +kernel)

theorem witness_PairRules : (0x100144C0#32).getLsbD 31 = false ∧ decodeCode (.c 0x100144C0#32) = .ok (.ld 0 5 4 3 0) ∧ decodeCode (.a 0x01142080#32) = .ok (.add 5 2 2) ∧
    (0x0300C005#32).getLsbD 31 = false ∧ decodeCode (.c 0x0300C005#32) = .ok (.bz 3 5) ∧ decodeCode (.a 0x31042157#32) = .ok (.cmpi 1 2 5 1 7) ∧
    decodeCode (.a 0x380C5000#32) = .ok (.take 3 5) ∧ decodeCode (.a 0x01182080#32) = .ok (.add 6 2 2) := by
  and_intros <;> first | decide +kernel | exact ok_of (by decide +kernel)

theorem witness_CanonicalKept : m0.memWf = true ∧ (match step (State.reset.withFetchWord 32 0x01181080) with | .next t => t.memWf | _ => false) = true := by decide +kernel

/-- A machine with filled lines at 0x20000000, one of them poisoned. -/
def m1 : State := (words m0 [(0x20000000, 7), (0x20000040, 9)]).setLine 0x20000040 { LineMeta.zeroed with tag := .code }

theorem witness_MemoryBytes :
    (0x2000003A % 64 + 6 ≤ 64 ∧ (m1.lineOf 0x2000003A).unfilled = none ∧ (m1.lineOf 0x2000003A).poison = false ∧ m1.tagBad (m1.keyOf 0) 0x2000003A = false ∧
      m1.fld 11 0 0x808 3 1 = 0 ∧ m1.fld 2 0 (0x1000 * (0x2000003A / 2 ^ 36) + 8) 2 1 = 0) ∧
    (m1.lineOf 0x10000000).unfilled = some .zero ∧
    ((m1.lineOf 0x20000040).unfilled = none ∧ (m1.lineOf 0x20000040).poison = true ∧ m1.fld 2 0 (0x1000 * (0x20000040 / 2 ^ 36) + 8) 2 1 = 0) := by decide +kernel

/-- Four levels of tables for the page at 0x8000000000 + 0x40410000, with the rights of its leaf. -/
def walkState (rights : Nat) : State :=
  words m0 [(0x100008, 2 ^ 63 + 0x400000), (0x400008, 2 ^ 63 + 0x500000), (0x500010, 2 ^ 63 + 0x600000), (0x600008, 2 ^ 63 + 2 ^ 62 + rights + 0x700000)]

theorem witness_PageWalk :
    State.reset.fld 10 0 (0x40 * 0) 0 1 = 0 ∧ ([2 ^ 61, 2 ^ 60].all fun rights =>
      let s := walkState rights
      let va := 2 ^ 39 + 2 ^ 30 + 2 * 2 ^ 21 + 2 ^ 16 + 5
      let e0 := s.seenWord 0 (s.fld 10 0 (0x40 * 0) 20 20 * 2 ^ 20 + 8 * (va / 2 ^ 39 % 2 ^ 17))
      let e1 := s.seenWord 0 (entAddr e0 + 8 * (va / 2 ^ 30 % 512))
      let e2 := s.seenWord 0 (entAddr e1 + 8 * (va / 2 ^ 21 % 512))
      let e3 := s.seenWord 0 (entAddr e2 + 8 * (va / 2 ^ 16 % 32))
      s.fld 10 0 (0x40 * 0) 0 1 == 1 && ptrOk e0 4096 && ptrOk e1 4096 && ptrOk e2 256 && leafOk e3 (2 ^ 16) && !e3.getLsbD 56 && (rightsOk e3 rRD == (rights == 2 ^ 61))) = true := by
  decide +kernel

/-- Every hypothesis of StepRunsTheBundle, at a state. -/
def stepReady (s : State) : Bool :=
  match s.agenda with
  | .cell n :: r =>
    let s' : State := { s with agenda := r }
    let k := (s.cycle + 32 - n % 64 / 8 - n % 8) % 16
    let s0 := (s'.setCell n { s.cellAt n with issuedAt := s.cycle + 1 }).takeDrift n
    let s1 := s0.keepWaits (s'.cellBank n) (fun x j => attemptHome exec x n j)
    match s1.choose n (s'.cellBank n) k (fun j => attemptHome exec s1 n j) with
    | none => false
    | some j => match s1.thr? n j with
      | none => false
      | some t => decide (t.site = .home) && t.lanes.isEmpty && (s1.blocked n j t).isNone && t.owed.isEmpty && t.replay.isEmpty && (t.noBreak || !(s1.at n j).breakHit t) &&
        match (s1.at n j).fetch with
        | .word y w => (match decodeBundle w with
          | .error _ => false
          | .ok b => (y.unready (instrsOf b)).isNone && ((instrsOf b).findSome? y.sleeping).isNone && ((instrsOf b).findSome? y.unloaded).isNone && !s.turnOver n &&
            let z := (y.setThr { y.thr with npc := y.thr.pc + 8#64, skip := 0, wait := .none }).capture (instrsOf b)
            let fine := fun (x : State) => !x.stopped && !x.thr.wait.holds
            match b with
            | .lone i => fine (ran i z) && ((ran i z).thr? (ran i z).turn (ran i z).cur).isSome
            | .pair c a => fine (ran c z) && fine (ran a z) && fine (ran a (ran c z)) && ((ran a (ran c z)).thr? (ran a (ran c z)).turn (ran a (ran c z)).cur).isSome)
        | _ => false
  | _ => false

theorem witness_StepRunsTheBundle : stepReady (State.reset.withFetchWord 64 0x0000000780004000) = true ∧ stepReady (State.reset.withFetchWord 32 0x01181080) = true := by
  decide +kernel

theorem witness_FetchAndAgenda :
    (isPaged m0.thr.pc.toNat = true ∧ m0.thr.pc.toNat / 2 ^ 57 = 0 ∧ m0.paged m0.thr.part m0.thr.pc.toNat rEX = .ok (.hbm 0x30000000) ∧ m0.locStall (.hbm 0x30000000) = false ∧
      m0.moveStall m0.thr.part m0.thr.pc.toNat = false ∧ (m0.openLine (m0.keyOf m0.thr.part) 0x30000000).lineBad 0x30000000 = false ∧
      (m0.openLine (m0.keyOf m0.thr.part) 0x30000000).fetchBuf = []) ∧
    encode .laneCountClear = none ∧ encode (.add 1 2 3) = some (.a 0x010420C0#32) := by
  and_intros <;> first | decide +kernel | exact ok_of (by decide +kernel)

/-- Cell 0 of spec/09's worked example of lending: T0 and T3 of class 2, T1 of class 3, T2 of class 1, T5 of class 0. -/
def lend : State :=
  m0.setCell 0 { m0.cell with slots := [(0, some placeThread), (1, some { placeThread with cls := 3 }), (2, some { placeThread with cls := 1 }), (3, some placeThread), (5, some { placeThread with cls := 0 })] }

/-- The choices of that example in cycles 0 to 5, and a slot that only ballast takes. -/
theorem test_rotation :
    let att := fun (l : List Nat) (j : Nat) => if l.contains j then Attempt.issue (.next m0) else .vacant
    lend.choose 0 0 0 (att [0, 2, 3, 5]) = some 0 ∧ lend.choose 0 0 1 (att [0, 2, 3, 5]) = some 3 ∧ lend.choose 0 0 2 (att [0, 2, 5]) = some 2 ∧
    lend.choose 0 0 3 (att [0, 2, 5]) = some 0 ∧ lend.choose 0 0 4 (att [0, 2, 5]) = some 0 ∧ lend.choose 0 0 5 (att [0, 1, 2, 5]) = some 1 ∧ lend.choose 0 0 4 (att [5]) = some 5 := by decide +kernel

/-- The hypotheses of RotationChoice: its first clause (cycle 0), a borrowed slot (cycle 4) and a slot of class 0. -/
theorem witness_RotationChoice :
    let att := fun (l : List Nat) (j : Nat) => if l.contains j then Attempt.issue (.next m0) else .vacant
    ((att [0] 0).ready = true ∧ (lend.thrAt 0 0).cls ≠ 0) ∧ (lend.choose 0 0 4 (att [0, 2, 5]) = some 0 ∧ (lend.thrAt 0 0).cls ≠ 0 ∧ lend.lendable 0 2 = true ∧ (att [0, 2, 5] 2).ready = true) ∧
    lend.choose 0 0 4 (att [5]) = some 5 ∧ (lend.thrAt 0 5).cls = 0 := by decide +kernel

/-! ## Witnesses: scalar instructions -/

/-- Encoded instructions of one shape issue on the small machine. -/
theorem witness_RegisterOperations :
    ([.add 3 1 2, .sub 3 1 2, .mul 3 1 2, .mulh 3 1 2, .mulhu 3 1 2, .addsc 3 1 2 7, .div 3 1 2, .divu 3 1 2, .rem 3 1 2, .remu 3 1 2, .and 3 1 2, .or 3 1 2, .xor 3 1 2, .andn 3 1 2,
      .shl 3 1 2, .shr 3 1 2, .sra 3 1 2, .rol 3 1 2, .ror 3 1 2, .min 3 1 2, .max 3 1 2, .minu 3 1 2, .maxu 3 1 2, .sel 3 1 2 4, .clz 3 1, .ctz 3 1, .popc 3 1, .bswap 3 1, .bext 3 1 2 63,
      .bins 3 1 2 63, .sext 3 1 63, .add 63 63 61, .add 49 1 2] : List Instr).all (issues m0) = true ∧
    (let s := gs m0 [(1, 0x8000000000000000#64), (2, BitVec.allOnes 64)]; (s.rd 1).toInt = -2 ^ 63 ∧ (s.rd 2).toInt = -1) ∧ 7 < (8#6).toNat ∧
    decodeCode (.a 0x010420C0#32) = .ok (.add 1 2 3) ∧ decodeCode (.a 0x19042000#32) = .ok (.clz 1 2) ∧ decodeCode (.a 0x1F04200F#32) = .ok (.sext 1 2 15) := by
  and_intros <;> first | decide +kernel | exact ok_of (by decide +kernel)

theorem witness_ImmediateOperations :
    ([.addi 3 1 0x800, .muli 3 1 7, .andi 3 1 0xFFF, .ori 3 1 1, .xori 3 1 1, .shli 3 1 63, .shri 3 1 0, .srai 3 1 63] : List Instr).all (issues m0) = true ∧ (63#12).toNat < 64 ∧ 64 ≤ (64#12).toNat := by
  decide +kernel

theorem witness_ConstantsAndNops :
    ([.ldi 3 1, .ldih 3 1, .rdtb 3 0, .rdtb 3 1, .nopc, .nopa] : List Instr).all (issues m0) = true ∧ 48 ≤ (48#6).toNat ∧ (51#6).toNat < 52 ∧ 2 ≤ (2#2).toNat := by decide +kernel

theorem witness_CompareConditions :
    ([.cmp 3 1 2 0 0, .cmp 63 1 2 3 11, .cmpi 3 1 5 1 7, .fcmp 3 1 2 0 7, .fcmpd 3 1 2 3 0] : List Instr).all (issues m0) = true ∧
    ([.cmp 3 1 2 3 0, .cmpi 3 1 0 1 0] : List Instr).all (issues (onThr m0 fun t => { t with lanes := [0, 1] })) = true ∧ 11 < (12#4).toNat ∧ 7 < (8#4).toNat := by decide +kernel

/-- A machine with g1 full and a fill held for g5. -/
def held : State := m0.setCell 0 { m0.cell with fills := [{ slot := 0, reg := 5, v := 9#64 }] }

theorem witness_FullEmpty :
    m0.thr.latch = none ∧ ([.take 3 1, .mkempty 3, .mkfull 3, .isfull 3 1, .isfull 3 49, .isfull 3 59] : List Instr).all (issues m0) = true ∧ m0.cell.fills = [] ∧ fillable (3#6).toNat = true ∧
    (issues held (.mkempty 5) = true ∧ held.thr.site = .home ∧ held.thr.latch = none ∧ ∃ f, held.cell.fills = [f] ∧ f.slot = held.cur ∧ f.reg = (5#6).toNat) := by
  and_intros <;> first | decide +kernel | exact ⟨⟨0, 5, 9#64⟩, by decide +kernel⟩

theorem witness_FloatArithmetic :
    ([.fadd 3 1 2 0 0, .fsub 3 1 2 1 1, .fmul 3 1 2 2 2, .fdiv 3 1 2 3 3, .fsqrt 3 1 4 0, .fma 3 1 2 0 0, .fcvt 3 1 2 0 0, .fexp2 3 1 0 0, .icvtf 3 1 3 0 0, .fcvti 3 1 3 0 0] : List Instr).all (issues m0) = true := by
  decide +kernel

theorem witness_FloatValues :
    fp32 ∈ [fp64, fp32, fp16, bf16, e4m3, e5m2, e2m3, e3m2, e2m1] ∧ 0x80000000 < 2 ^ fp32.width ∧ fdecode fp32 0x80000000 = .fin true 0 (-149) := by
  unfold List.instMembership; decide +kernel

theorem witness_FloatSigns :
    ([.fabs 3 1 0, .fneg 3 1 1, .fclass 3 1 2, .fmin 3 1 2 0, .fmax 3 1 2 3] : List Instr).all (issues m0) = true ∧
    (fdecode fp32 0x3F800000 = .fin false 0x800000 (-23) ∧ fdecode fp32 0x40000000 = .fin false 0x800000 (-22) ∧ finVal false 0x800000 (-23) < finVal false 0x800000 (-22)) ∧
    fdecode fp32 0x80000000 = .fin true 0 (-149) ∧ fdecode fp32 0 = .fin false 0 (-149) ∧ fdecode fp32 0xFFC00000 = .nan true := by
  and_intros <;> decide +kernel

/-- A machine whose g1 names a target. -/
def target (v : Word) : State := gs m0 [(1, v), (2, 1#64)]

theorem witness_ControlTransfers :
    ([.br (-3), .call 5, .bz 1 5, .bnz 1 (-5), .jr 1, .jlr 5 1, .rep 2 4095, .rep 3 1] : List Instr).all (issues (target 0x30000100#64)) = true ∧
    (((target 0x30000100#64).rdLead 1).toNat % 8 = 0 ∧ ((target 0x30000100#64).rdLead 1).toNat < 2 ^ 57) ∧
    ((target 0x30000100#64).rdLead 2 = (target 0x30000100#64).rd 2 ∧ (target 0x30000100#64).rd 2 = 1#64 ∧ (target 0x30000100#64).rd 3 = 0#64 ∧ (target 0x30000100#64).rdLead 3 = 0#64) ∧
    (issues (target 1#64) (.jr 1) = true ∧ ((target 1#64).rdLead 1).toNat % 8 ≠ 0) ∧
    (issues (target 0x0200000000000000#64) (.jlr 5 1) = true ∧ ((target 0x0200000000000000#64).rdLead 1).toNat % 8 = 0 ∧ 2 ^ 57 ≤ ((target 0x0200000000000000#64).rdLead 1).toNat) := by
  decide +kernel

/-! ## Witnesses: threads, memory, counters -/

/-- An outstanding instruction of the single thread. -/
def pend0 : Pend :=
  { inst := 0#64, slot := 0#2, pc := 0x30000000#64, la := 0, since := 0, opA := 0#64, opB := 0#64, opC := 0#64, addr := 0x20000000#64,
    act := .load (.hbm 0x20000000) 8 false 3 false 0, perf := none, dst := some 3, tiles := [], strms := [], held := [], late := none, faddr := 0#64, seq := 0, acq := false, keeps := [] }

/-- A posted store. -/
def posted0 : Posted :=
  { loc := .hbm 0x20000000, n := 8, val := 7#64, val2 := 0#64, wide := none, op := none, sync := false, rel := false, sc := 0, pc := 0x30000000#64, addr := 0x20000000#64,
    performed := false, bad := 0, seq := 0 }

/-- The thread with an outstanding load, with posted stores. -/
def busy : State := onThr m0 fun t => { t with out := [pend0] }
def storing (l : List Posted) : State := onThr m0 fun t => { t with posted := l }

/-- Lane 0 of a gang of two lanes, in barrier group 1. -/
def gangOf : State := onThr m0 fun t => { t with lanes := [0, 1], bgrp := 1 }

theorem witness_TaskControl :
    ([.yield, .done, .tbar, .setpri 3 1] : List Instr).all (issues m0) = true ∧ m0.thr.out = [] ∧ m0.thr.bgrp = 0 ∧
    (issues gangOf .tbar = true ∧ gangOf.thr.bgrp ≠ 0 ∧ gangOf.thr.lanes ≠ [] ∧ gangOf.thr.lane + 1 ≠ gangOf.thr.lanes.length ∧
      ∀ m, m < 16 → ((gangOf.monOf gangOf.thr.part m).before gangOf.cycle).owned gangOf.thr.die gangOf.thr.graph gangOf.thr.bgrp = false) ∧
    issues busy .done = true ∧ busy.thr.out ≠ [] := by decide +kernel

/-- A machine whose slot 1 of cell 0 holds a thread of another partition. -/
def two (v : Word) : State := (target v).setCell 0 { m0.cell with slots := [(0, some (target v).thr), (1, some { placeThread with part := 1 })] }

/-- A fillable target word: register 5 of slot `k` of cell 0. -/
def fillWord (k : Nat) : Word := W (5 + 64 * k)

/-- A machine with a ring of kind `kind` and 16 entries at ring number 1 of partition 0, its table at HPA 0x20100000, and a header at 0x20300000; g1 holds the header's address and g2 the
ring's number. -/
def ringState (kind : Nat) (n : Word) : State :=
  let s := m0.setReg 5 0 0x20 (W (0x20100000 + 2 ^ 63))
  let t := s.fld 5 0 0x20 11 46 * 2048 + 32
  words (gs s [(1, 0x20300000#64), (2, n)])
    ([(t, 2 ^ 63 + kind * 2 ^ 61 + 4 * 2 ^ 56), (t + 8, 0x20200000), (t + 16, 0), (t + 24, 0), (0x20200000, 0), (0x20200040, 0)] ++ (List.range 16).map fun i => (0x20300000 + 8 * i, i))

/-- The same machine with its ring table at an address that does not translate. -/
def ringBad : State := (ringState 2 1#64).setReg 5 0 0x20 (W (2 ^ 46))

/-- Whether every hypothesis of the completing clause of Launch holds. -/
def launchReady (s : State) : Bool :=
  issues s (.launch 3 1 2) && decide ((s.rd 2).toNat ≤ 63) && decide (s.thr.out.length < 8) &&
  (match s.ringWords s.thr.part (s.cur / 16) (s.rd 2).toNat with
  | (r, some ws) => (match r.headerCheck (s.eaOf (s.rd 1)) 128 with | .ok () => true | _ => false) && (ws.getD 0 0#64).getLsbD 63 && ringOk ws && decide (bf (ws.getD 0 0#64) 61 2 = 2)
  | _ => false)

/-- A launch whose header is still to be read, and one whose header has been read. -/
def launching (s : State) (at_ : Nat) (h : List Word) : State :=
  onThr s fun t => { t with out := [{ pend0 with act := .append 1 1 16 at_ h, addr := 0x20300000#64 }] }

/-- What a ring takes of a header. -/
def appends (s : State) : Bool :=
  match s.ringWords 0 0 1 with
  | (r, some ws) => (r.ringAppend (r.ringDie 0 1) 0 (ws.getD 1 0#64).toNat (bf (ws.getD 0 0#64) 56 5) ((List.range 16).map W)).2.isSome
  | _ => false

theorem witness_FillAndLaunch :
    (([2 ^ 19, 48, 1 * 2 ^ 16] : List Nat).all (fun w => issues (target (W w)) (.fill 1 2)) = true ∧ (2 : Nat) ^ 19 ≤ (W (2 ^ 19)).toNat ∧ 47 < bf (W 48) 0 6 ∧
      (target 0#64).dieIn 0 (bf (W (2 ^ 16)) 16 3) = false ∧
    (issues (target (fillWord 3)) (.fill 1 2) = true ∧ (fillWord 3).toNat < 2 ^ 19 ∧ bf (fillWord 3) 0 6 ≤ 47 ∧ (target (fillWord 3)).dieIn 0 (bf (fillWord 3) 16 3) = true ∧
      (target (fillWord 3)).thr? (64 * bf (fillWord 3) 16 3 + bf (fillWord 3) 10 6) (16 * (target (fillWord 3)).bankOf 0 + bf (fillWord 3) 6 4) = none) ∧
    (issues (two (W 0x45)) (.fill 1 2) = true ∧ (match (two (W 0x45)).thr? 0 1 with | some u => decide (u.part ≠ (two (W 0x45)).thr.part) | none => false) = true) ∧
    (issues (target (W 5)) (.fill 1 2) = true ∧ (match (target (W 5)).thr? 0 0 with | some u => decide (u.part = (target (W 5)).thr.part) | none => false) = true)) ∧
    (issues (ringState 2 64#64) (.launch 3 1 2) = true ∧ 63 < ((ringState 2 64#64).rd 2).toNat) ∧ launchReady (ringState 2 1#64) = true ∧
    (match (ringState 1 1#64).ringWords 0 0 1 with | (_, some ws) => ringOk ws && decide (bf (ws.getD 0 0#64) 61 2 ≠ 2) | _ => false) = true ∧
    (ringBad.ringWords 0 0 1).2 = none ∧ issues ringBad (.launch 3 1 2) = true ∧ (ringBad.rd 2).toNat ≤ 63 ∧ (ringState 2 1#64).headerCheck 0x20300004#64 128 = .error cALIGN := by
  and_intros <;> first | decide +kernel | exact err_of (by decide +kernel)

/-- The clauses of a launch behind its release: a header that reads, one on a poisoned line, a ring that takes it. -/
theorem witness_HeaderArrives :
    let s := launching (ringState 2 1#64) 0 []
    let y := s.setLine 0x20300040 { LineMeta.zeroed with tag := .code }
    let reads := fun (x : State) => ((x.chargeRange 0 0 0x20300000 128).headerRead 0 0x20300000 16).2
    (s.thr.posted = [] ∧ s.thr.stop = none ∧ s.rangeStall 0 0x20300000 128 = false) ∧
    (match reads s with | .ok ws => ws.length == 16 | _ => false) = true ∧ (match reads y with | .ok _ => false | _ => true) = true ∧
    appends s = true ∧ appends (word s 0x20200000 16) = false ∧ ((word s 0x20200000 16).ringWords 0 0 1).2.isSome = true := by decide +kernel
/-- The answer of a checked access. -/
def isOk (e : Except Nat Loc) (l : Loc) : Bool :=
  match e with
  | .ok x => decide (x = l)
  | .error _ => false

/-- The hypotheses that accesses of the thread share. -/
def accessReady (s : State) (va : Word) (n need kinds : Nat) (l : Loc) (rel : Bool) (sc : Nat) : Bool :=
  isOk (s.access va n need kinds) l && !s.accessWaits va n l && !s.peerHolds l rel sc && s.thr.ea.isNone && s.thr.lanes.isEmpty && decide (s.thr.site = .home) && l.isHere

/-- The machine of `m1` with the address 0x20000000 in g1, and its first word or a scratch word as the access. -/
def acc1 : State := gs m1 [(1, 0x20000000#64)]
def acc2 : State := gs m1 [(1, 0x00FF000000000000#64)]

theorem witness_Loads :
    (([.ld 0 3 1 0 0, .lds 0 3 1 1 0, .ldx 0 3 1 2 3, .ldsx 0 3 1 2 2, .ldLone 0 3 1 3 true 1 false 0] : List Instr).all (issues acc1) = true ∧ accessReady acc1 0x20000000#64 1 rRD 1 (.hbm 0x20000000) false 0 = true ∧
      accessReady acc1 0x20000000#64 8 rRD 1 (.hbm 0x20000000) false 0 = true ∧ accessReady acc2 0x00FF000000000000#64 8 rRD 1 (.scr 0 0) false 0 = true) ∧
    (let s := onThr m1 fun t => { t with out := [pend0] }
     s.thr.out = [pend0] ∧ s.thr.posted = [] ∧ pend0.perf = none ∧ pend0.late = none ∧ pend0.dst = some 3 ∧ s.thr.site = .home ∧ 0x20000000 / 2 ^ 37 = s.turn / 64 ∧
      s.locStall (.hbm 0x20000000) = false ∧ (s.memRead s.thr.part (.hbm 0x20000000) 8).bad = 0 ∧ fillable 3 = true) := by decide +kernel

theorem witness_Stores :
    (([.st 2 1 0 0, .stx 2 1 3 3, .stLone 2 1 3 true 2 0] : List Instr).all (issues acc1) = true ∧ accessReady acc1 0x20000000#64 1 rWR 2 (.hbm 0x20000000) false 0 = true ∧
      accessReady acc1 0x20000000#64 8 rWR 2 (.hbm 0x20000000) true 2 = true) ∧
    (let s := onThr m1 fun t => { t with posted := [posted0] }
     s.thr.posted = [posted0] ∧ s.thr.out = [] ∧ posted0.performed = false ∧ posted0.op = none ∧ posted0.sync = false ∧ posted0.wide = none ∧ 0x20000000 % 64 + 8 ≤ 64 ∧
      s.locStall (.hbm 0x20000000) = false ∧ (s.lineOf 0x20000000).unfilled = none ∧ (s.lineOf 0x20000000).poison = false ∧ s.tagBad (s.keyOf s.thr.part) 0x20000000 = false ∧
      s.fld 11 0 0x808 3 1 = 0 ∧ s.fld 2 0 (0x1000 * (0x20000000 / 2 ^ 36) + 8) 2 1 = 0) := by decide +kernel

theorem witness_Synchronising :
    (issues acc1 (.ldsy 0 3 1 0 0) = true ∧ issues acc1 (.stsy 2 1 0 0) = true ∧ isOk (acc1.accessSync 0x20000000#64 (rRD + rWR) 3) (.hbm 0x20000000) = true ∧
      isOk (acc1.accessSync 0x20000000#64 rWR 2) (.hbm 0x20000000) = true ∧ acc1.accessWaits 0x20000000#64 8 (.hbm 0x20000000) = false ∧ acc1.thr.ea = none ∧ acc1.thr.lanes = [] ∧ acc1.thr.site = .home) ∧
    (4#64).toNat % 8 ≠ 0 ∧ ((0x00FF000000000008#64).toNat % 8 = 0 ∧ (0x00FF000000000008#64).toNat / 2 ^ 48 = 0xFF) ∧
    ((m1.stackAt (0x20000000 / 2 ^ 36)).syncs = [] ∧ m1.feBit 0x20000000 = !false ∧ (m1.setFe 0x20000000 false).feBit 0x20000000 = false ∧ 0x20000008 / 8 ≠ 0x20000000 / 8 ∧
      (m1.lineOf 0x20000008).unfilled = none ∧ (m1.lineOf 0x20000000).unfilled = none) := by decide +kernel

theorem witness_Atomics :
    (([.aadd 0 3 1 2 2 false false 0 0, .aand 0 63 1 2 3 false false 0 0, .aor 0 3 1 2 3 true false 1 0, .axor 0 63 1 2 3 false true 2 0, .amin 0 3 1 2 2 false false 0 0, .amax 0 3 1 2 3 false false 0 0,
      .aminu 0 3 1 2 3 false false 0 0, .amaxu 0 3 1 2 3 false false 0 0, .aswp 0 3 1 2 3 false false 0 0, .acas 0 3 1 2 4 3 false false 0 0] : List Instr).all (issues acc1) = true ∧
      accessReady acc1 0x20000000#64 4 rAT 3 (.hbm 0x20000000) false 0 = true ∧ accessReady acc1 0x20000000#64 8 rAT 3 (.hbm 0x20000000) true 2 = true) ∧
    (0x20000004 % 4 = 0 ∧ (m1.lineOf 0x20000004).unfilled = none ∧ (m1.lineOf 0x20000004).poison = false ∧ m1.tagBad (m1.keyOf 0) 0x20000004 = false ∧ m1.fld 11 0 0x808 3 1 = 0 ∧
      m1.fld 2 0 (0x1000 * (0x20000004 / 2 ^ 36) + 8) 2 1 = 0) := by decide +kernel

/-- An atomic on the word 7, by hand (R327): its old value and its new one. -/
theorem test_atomics :
    let f := fun (o : AOp) (v w : Nat) => let r := m1.atomic 0 (.hbm 0x20000000) 8 o v w; (r.v, readLE r.s.hbmByte 0x20000000 8)
    f .add 3 0 = (7, 10) ∧ f .min (2 ^ 64 - 1) 0 = (7, 2 ^ 64 - 1) ∧ f .minu (2 ^ 64 - 1) 0 = (7, 7) ∧ f .swp 1 0 = (7, 1) ∧ f .cas 7 2 = (7, 2) ∧ f .cas 6 2 = (7, 7) := by decide +kernel

theorem witness_FencesAndCode :
    ([.fence 0 0, .pf 1 3 0, .cinv 1 2] : List Instr).all (issues acc1) = true ∧ (acc1.thr.out.all (fun p => p.perf.isSome || p.act.locs.isEmpty) = true ∧ acc1.thr.released (acc1.turn / 64) 0 acc1.thr.seqNo = true) ∧
    (issues busy (.fence 0 0) = true ∧ ¬ (busy.thr.out.all (fun p => p.perf.isSome || p.act.locs.isEmpty) = true)) ∧
    (acc1.lines.all (fun e => match e.2.unfilled with | some (.copy _) => false | _ => true) = true) ∧
    ((acc1.rd 1).toNat % 8 = 0 ∧ (acc1.rd 2).toNat % 8 = 0) ∧ acc1.thr.posted.all (fun p => p.performed || !p.loc.isHere) = true ∧
    (issues (storing [posted0]) (.cinv 1 2) = true ∧ (storing [posted0]).thr.posted.any (fun p => !p.performed && p.loc.isHere) = true) ∧ issues (target 1#64) (.cinv 1 2) = true ∧ ((target 1#64).rd 1).toNat % 8 ≠ 0 := by decide +kernel

/-- A block move's registers: destination, source and count. -/
def moving (x y z : Word) : State := gs m1 [(1, x), (2, y), (3, z)]

theorem witness_BlockMove :
    let i : Instr := .bmove 1 2 3 3 false false 0
    (issues (moving 4#64 0#64 8#64) i = true ∧ ((moving 4#64 0#64 8#64).rd 1).toNat % 8 ≠ 0) ∧
    (issues (moving 8#64 4#64 8#64) i = true ∧ ((moving 8#64 4#64 8#64).rd 1).toNat % 8 = 0 ∧ ((moving 8#64 4#64 8#64).rd 2).toNat % 8 ≠ 0) ∧
    (issues (moving 8#64 16#64 0#64) (.bmove 1 2 3 3 true true 2) = true ∧ (moving 8#64 16#64 0#64).thr.latch = none ∧ (moving 8#64 16#64 0#64).rd 3 = 0#64 ∧
      (moving 8#64 16#64 0#64).thr.released ((moving 8#64 16#64 0#64).turn / 64) 2 (moving 8#64 16#64 0#64).thr.seqNo = true ∧ (moving 8#64 16#64 0#64).thr.out = []) ∧
    (let s := moving 0x20000008#64 0x20000000#64 8#64
     issues s i = true ∧ s.thr.latch = none ∧ (s.rd 1).toNat % 8 = 0 ∧ (s.rd 2).toNat % 8 = 0 ∧ s.rd 3 = W 8 ∧ s.thr.out = [] ∧ s.thr.posted = [] ∧ (1 : GReg) ≠ 2 ∧ (2 : GReg) ≠ 3 ∧ (1 : GReg) ≠ 3 ∧
      accessReady s 0x20000000#64 8 rRD 1 (.hbm 0x20000000) false 0 = true ∧ accessReady s 0x20000008#64 8 rWR 2 (.hbm 0x20000008) false 0 = true ∧
      s.locStall (.hbm 0x20000000) = false ∧ s.locStall (.hbm 0x20000008) = false ∧ (s.lineOf 0x20000000).unfilled = none ∧ (s.lineOf 0x20000000).poison = false ∧
      (s.lineOf 0x20000008).unfilled = none ∧ (s.lineOf 0x20000008).poison = false ∧
      s.tagBad (s.keyOf s.thr.part) 0x20000000 = false ∧ s.tagBad (s.keyOf s.thr.part) 0x20000008 = false ∧ s.fld 11 0 0x808 3 1 = 0 ∧ s.fld 2 0 (0x1000 * (0x20000000 / 2 ^ 36) + 8) 2 1 = 0 ∧
      s.fld 2 0 (0x1000 * (0x20000008 / 2 ^ 36) + 8) 2 1 = 0) := by decide +kernel

theorem witness_MoveInScratch :
    let s := moving 0x00FF000000000100#64 0x00FF000000000000#64 16#64
    let inWindow := fun (va : Word) => va.toNat / 2 ^ 48 = 0xFF ∧ va.toNat / 2 ^ 31 % 2 ^ 17 = 0 ∧ s.dieIn s.thr.part (va.toNat / 2 ^ 28 % 8) = true ∧
      s.thr.sb.toNat ≤ va.toNat ∧ va.toNat + 16 ≤ s.thr.sb.toNat + s.thr.ss.toNat ∧ va.toNat % 2 ^ 22 + 16 ≤ 2 ^ 22 ∧
      (s.cellAt (64 * (va.toNat / 2 ^ 28 % 8) + va.toNat / 2 ^ 22 % 64)).badWords = [] ∧ (s.cellAt (64 * (va.toNat / 2 ^ 28 % 8) + va.toNat / 2 ^ 22 % 64)).swap = []
    issues s (.bmove 1 2 3 3 false false 0) = true ∧ s.thr.latch = none ∧ s.thr.far = none ∧ (s.rd 1).toNat % 8 = 0 ∧ (s.rd 2).toNat % 8 = 0 ∧ (s.rd 3).toNat % 8 = 0 ∧
    s.thr.out = [] ∧ s.thr.posted = [] ∧ s.fld 11 0 0x800 0 1 = 0 ∧ s.chans = [] ∧ (s.partAt s.thr.part).moves = [] ∧ inWindow (s.rd 1) ∧ inWindow (s.rd 2) ∧
    (s.rd 2).toNat % 2 ^ 22 + (s.rd 3).toNat ≤ (s.rd 1).toNat % 2 ^ 22 := by decide +kernel

/-- A barrier object at 0x20000080 with PHASE `p`, its address in g1, `v` in g2. -/
def barState (p : Nat) (v : Word) : State := gs (words m0 [(0x20000080, p * 2 ^ 63 + 5), (0x20000088, 3)]) [(1, 0x20000080#64), (2, v)]

theorem witness_CountersAndBarriers :
    ([.mbset 3 1 2, .mbwait 3 1 2 0, .mbread 0 3 1] : List Instr).all (issues (target 64#64)) = true ∧ 63 < ((target 64#64).rd 1).toNat ∧
    ([.mbset 3 1 2, .mbwait 3 1 2 1, .mbread 0 3 1] : List Instr).all (issues (target 63#64)) = true ∧ ((target 63#64).rd 1).toNat ≤ 63 ∧ (2 : Nat) ^ 63 ≤ (tget (fun _ => 0#64) (target 63#64).cell.mbc 63 - (target 63#64).rd 2).toNat ∧
    (tget (fun _ => 0#64) m0.cell.mbc 0 - m0.rd 2).toNat < 2 ^ 63 ∧
    (let s := barState 1 0#64
     ([.boread 0 3 1 0, .bowait 3 1 2 0, .boinit 1 2] : List Instr).all (issues s) = true ∧ s.thr.ea = none ∧ s.thr.phaseRead = none ∧ isOk (s.barObj 0x20000080#64 rRD 1) (.hbm 0x20000080) = true ∧ s.accessWaits 0x20000080#64 8 (.hbm 0x20000080) = false ∧
      s.nowWaits [.hbm 0x20000080] = false ∧ (s.memRead 0 (.hbm 0x20000080) 8).bad = 0 ∧ decide (2 ^ 63 ≤ (s.memRead 0 (.hbm 0x20000080) 8).v) ≠ (s.rd 2).getLsbD 0 ∧ (s.memRead 0 (.hbm 0x20000080) 8).v < 2 ^ 64 ∧
      fillable 3 = true ∧ isOk (s.barObj 0x20000080#64 rWR 2 16) (.hbm 0x20000080) = true ∧ (s.rd 2).toNat < 2 ^ 48 ∧ s.accessWaits 0x20000080#64 16 (.hbm 0x20000080) = false ∧
      s.nowWaits [.hbm 0x20000080, (Loc.hbm 0x20000080).plus 8] = false ∧ 0x20000080 % 64 + 16 ≤ 64 ∧ (s.lineOf 0x20000080).unfilled = none ∧ (s.lineOf 0x20000080).poison = false ∧
      s.tagBad (s.keyOf s.thr.part) 0x20000080 = false ∧ s.fld 11 0 0x808 3 1 = 0 ∧ s.fld 2 0 (0x1000 * (0x20000080 / 2 ^ 36) + 8) 2 1 = 0) ∧
    (let s := barState 1 1#64
     issues s (.bowait 3 1 2 0) = true ∧ s.thr.phaseRead = none ∧ decide (2 ^ 63 ≤ (s.memRead 0 (.hbm 0x20000080) 8).v) = (s.rd 2).getLsbD 0 ∧ (s.stackAt (0x20000080 / 2 ^ 36)).bars = []) ∧
    (issues (barState 1 0x1000000000000#64) (.boinit 1 2) = true ∧ (2 : Nat) ^ 48 ≤ ((barState 1 0x1000000000000#64).rd 2).toNat) := by decide +kernel
/-! ## Witnesses: traps, special registers, submissions, monitors, replicas -/

theorem witness_TakingATrap :
    m0.thr? m0.turn m0.cur = some m0.thr ∧ 0 < 256 ∧ issues m0 (.trap 5) = true := by decide +kernel

/-- R252, R255, by hand: the frame of trap 5 at 0x30000000. -/
theorem test_trap_frame :
    (match (ran (.trap 5) m0).thr.stop with
    | some f => decide (f.cause = 14#8 ∧ f.faddr = 5#64 ∧ f.fpc = 0x30000000#64 ∧ f.ctx.pc = 0x30000008#64)
    | none => false) = true := by decide +kernel

/-- A machine whose thread has two tiles and one stream, with bank 0 of its tiles and bank 4 (streams 0 to 7) off. -/
def banksOff : State :=
  let s := onThr m0 fun t => { t with tiles := [0, 1], strms := [0] }
  s.setCell 0 { s.cell with power := [(0, 2), (4, 2)] }

theorem witness_SharedTraps :
    let mv : Instr := .tmov 0 2 1 false 0 0
    let fl : Instr := .tfill 0 0 1 3 false 0
    let sl : Instr := .slen 0 1
    ([mv, fl, sl, .sand 0 1 0 0, .add 48 1 2] : List Instr).all (fun i => (encode i).isSome && i.wf) = true ∧ (encode (.addsc 1 2 3 8)).isSome = true ∧ (Instr.addsc 1 2 3 8).wf = false ∧
    (∃ k ∈ tileSrcs mv ++ tileDsts mv, banksOff.thr.tiles.length ≤ k) ∧ (∃ k ∈ strmSrcs (.sand 0 1 0 0) ++ strmDsts (.sand 0 1 0 0), banksOff.thr.strms.length ≤ k) ∧
    (∃ r ∈ named (.add 48 1 2), 48 ≤ r ∧ r < 52 ∧ meshNeighbour m0.turn (r - 48) = none) ∧
    ((∀ k ∈ tileSrcs mv ++ tileDsts mv, k < m0.thr.tiles.length ∧ m0.bankPower m0.turn (m0.tphys k / 8) ≠ 2) ∧ strmSrcs mv ++ strmDsts mv = [] ∧
      (∀ r ∈ named mv, ¬ (48 ≤ r ∧ r < 52)) ∧ ∀ k ∈ tileSrcs mv, (m0.tile k).full = true ∨ (m0.tile k).pending = true) ∧
    (tileSrcs fl ++ tileDsts fl = [0] ∧ 0 < banksOff.thr.tiles.length ∧ strmSrcs fl ++ strmDsts fl = [] ∧ (∀ r ∈ named fl, ¬ (48 ≤ r ∧ r < 52)) ∧ banksOff.bankPower banksOff.turn (banksOff.tphys 0 / 8) = 2) ∧
    (tileSrcs sl ++ tileDsts sl = [] ∧ strmSrcs sl ++ strmDsts sl = [0] ∧ 0 < banksOff.thr.strms.length ∧ (∀ r ∈ named sl, ¬ (48 ≤ r ∧ r < 52)) ∧
      banksOff.bankPower banksOff.turn (4 + banksOff.sphys 0 / 8) = 2) := by decide +kernel

/-- The thread stopped by trap 5, and its frame. -/
def stopped5 : State := ran (.trap 5) m0
def frame5 : Frame :=
  { ctx := { g := List.replicate 48 0#64, pc := 0x30000008#64, f := [], gid := 0#64, cls := 2#2, eff := 2#2, st := 0#8, full := 0#48, lk := 0#64 }, cause := 14#8, faultIdx := 15#4, pcause := 0#8,
    deferred := false, dead := false, notify := false, gang := false, lane := 0#3, glanes := 0#8, faddr := 5#64, fpc := 0x30000000#64, origin := 0#64, tb := 0#64, token := 1#64, entries := [] }

/-- The thread stopped with `frame5`, the frame sent or not. -/
def stoppedWith (b : Bool) (ps : List Posted) : State := onThr m0 fun t => { t with stop := some frame5, sent := b, posted := ps }

/-- A server on another device. -/
def remoteServer (s : State) : State := s.setReg 5 0 0x18 (W (2 ^ 16 + 1))

/-- The module's own device id, and the trap queue of partition 0 at VA 0x20000000 with four slots: LOG2N 2. -/
def queued5 (ws : List (Nat × Nat)) (v : Word) : State := gs ((words m0 ws).setReg 11 0 8 (W (0x20000000 + 2))) [(2, v)]

theorem witness_FramesLeave :
    ((stoppedWith false [posted0]).thr? 0 0 = some (stoppedWith false [posted0]).thr ∧ (stoppedWith false [posted0]).thr.stop = some frame5 ∧ (stoppedWith false [posted0]).thr.sent = false ∧
      (stoppedWith false [posted0]).thr.posted ≠ []) ∧
    (let s := remoteServer (stoppedWith false [])
     s.thr? 0 0 = some s.thr ∧ s.thr.stop = some frame5 ∧ s.thr.sent = false ∧ s.thr.posted = [] ∧ s.thr.dest.or (s.server 0) = some (1, 0) ∧ 1 ≠ s.devId) ∧
    (let s := (stoppedWith false []).setReg 5 0 0x18 (W (2 ^ 16))
     s.thr.dest.or (s.server 0) = some (0, 0) ∧ 0 = s.devId) ∧
    (let s := stoppedWith false []
     s.thr? 0 0 = some s.thr ∧ s.thr.stop = some frame5 ∧ s.thr.posted = [] ∧ s.thr.dest.or (s.server 0) = none ∧ (s.partAt s.thr.part).notes = []) ∧
    (m0.heldPkt 0x34 = none ∧ m0.heldPkt 0x36 = none ∧ m0.heldPkt 0x35 = none ∧ m0.fld 11 0 8 0 5 < 2) := by decide +kernel

/-- What the trap queue of a machine does with `frame5`: its fill, whether its slot is poisoned, whether the frame is stored. -/
def queueTakes (s : State) : Option (Nat × Bool × Bool) :=
  match s.tqHead 0 with
  | (_, none) => none
  | (s2, some (prod, cons)) => some ((prod + 2 ^ 32 - cons) % 2 ^ 32, s2.meetsPoison 0 (s2.tqSlot 0 prod) 1024,
    match s2.engPut 0 (s2.tqSlot 0 prod) (frameWords frame5) with
    | .ok s3 => (match s3.engWrite 0 0x20000000 4 1 with | .ok _ => true | .error _ => false)
    | .error _ => false)

theorem witness_FramesArrive :
    let q := fun (p : Nat) => queued5 [(0x20000000, p), (0x20000040, 0)] 0#64
    (2 ≤ (q 0).fld 11 0 8 0 5 ∧ (q 0).fld 11 0 8 0 5 ≤ 12) ∧ queueTakes (q 0) = some (0, false, true) ∧ (queueTakes (q 4)).map (·.1) = some 4 ∧
    (((q 0).setLine 0x20000000 { LineMeta.zeroed with tag := .code }).tqHead 0).2 = none ∧
    (queueTakes ((q 0).setLine 0x20001040 { LineMeta.zeroed with tag := .code })).map (·.2.1) = some true := by decide +kernel

/-- A queue whose first slot holds a frame of zeros but for some words, and that slot's address in g2. -/
def slotFrame (ws : List (Nat × Nat)) : State := queued5 ((List.range 16).map (fun k => (0x20001000 + 64 * k, 0)) ++ ws.map fun e => (0x20001000 + 8 * e.1, e.2)) 0x20001000#64

/-- The same with a thread in slot 1 that stands stopped with the frame of token 7. -/
def slotOther : State :=
  let s := slotFrame [(59, 2 ^ 40), (61, 7)]
  s.setCell 0 { s.cell with slots := s.cell.slots ++ [(1, some { placeThread with stop := some { frame5 with token := 7#64 }, sent := true })] }

/-- The frame that tret would read, where its hypotheses hold. -/
def tretReady (s : State) : Option Frame :=
  let l : Loc := .hbm 0x20001000
  let va := s.eaOf (s.rd 2)
  match s.frameRead s.thr.part l 128 with
  | (s1, ws, 0) =>
    if issues s (.tret 1 2) && (match s.slotCheck s.thr.part va with | .ok () => true | _ => false) && isOk (s.access va 1024 rRD 1) l && !(frameLines l).any s.thr.lineBusy &&
      !s.accessWaits va 1024 l && !s.nowWaits (frameLines l) && decide (s.thr.out.length < 8) && decide (s1.turn = s.turn) && decide (s1.cur = s.cur) && decide (s1.thr = s.thr)
    then some (frameOfWords ws) else none
  | _ => none

theorem witness_FramesReturned :
    (let s := stoppedWith true []
     bf frame5.origin 53 11 = s.devId ∧ frame5.dead = false ∧ frame5.notify = false ∧ s.thr? (originCell frame5.origin) (originKey frame5.origin) = some s.thr ∧
      (match s.thr.stop with | some g => g.token == frame5.token | none => false) = true ∧ s.thr.sent = true ∧ bf frame5.origin 37 3 = s.thr.part ∧ frame5.ctx.pc.toNat % 8 = 0 ∧
      originKey frame5.origin / 16 = s.bankOf s.thr.part ∧ (s.partAt s.thr.part).switching = false ∧ (s.partAt s.thr.part).returned = [] ∧ (s.cellAt (originCell frame5.origin)).fills = [] ∧
      frame5.entries = [] ∧ ({ frame5 with dead := true } : Frame).dead = true) ∧
    (issues (queued5 [] 0#64) (.tret 1 2) = true ∧ (match (queued5 [] 0#64).slotCheck 0 ((queued5 [] 0#64).eaOf ((queued5 [] 0#64).rd 2)) with | .error c => c == 3 | _ => false) = true) ∧
    (tretReady (slotFrame [(56, 2 ^ 25)])).map (·.dead) = some true ∧
    (tretReady (slotFrame [(48, 4)])).map (fun f => (f.dead, f.notify, f.ctx.pc.toNat % 8)) = some (false, false, 4) ∧
    (tretReady (slotFrame [(59, 5 * 2 ^ 40)])).map (fun f => (f.ctx.pc.toNat % 8, bf f.origin 53 11, originKey f.origin)) = some (0, 0, 5) ∧ m0.devId = 0 ∧ m0.thr? 0 5 = none ∧
    ((tretReady slotOther).map (fun f => (f.token, f.ctx.pc, f.entries.isEmpty, originCell f.origin, originKey f.origin)) = some (7#64, 0#64, true, 0, 1) ∧ (slotOther.cellAt 0).fills = [] ∧ fillable 1 = true) ∧
    (tretReady (slotFrame [(59, 2 ^ 53)])).map (fun f => bf f.origin 53 11) = some 1 ∧ m0.noRoom (m0.turn / 64) 1 true 17 = false := by decide +kernel

/-- Partition 0 with PRIV `p`; g1 and g2 set. -/
def priv (p : Nat) (a v : Word) : State := gs (m0.setReg 12 0 0 (W p)) [(1, a), (2, v)]

theorem witness_SpecialRegisters :
    let rdx : Instr := .rdpr 0 3 1 0
    let wrx : Instr := .wrpr 1 2 0
    (issues (priv 0 0#64 0#64) rdx = true ∧ issues (priv 0 0#64 0#64) wrx = true ∧ issues (priv 0 0#64 0#64) (.cbank 3 1 true) = true ∧ (priv 0 0#64 0#64).fld 12 0 0 0 1 ≠ 1 ∧ (priv 0 0#64 0#64).fld 12 0 0 1 1 ≠ 1 ∧
      issues (priv 0 0#64 0#64) (.cbank 3 0 false) = true) ∧
    (issues (priv 1 4#64 0#64) rdx = true ∧ (priv 1 4#64 0#64).fld 12 0 0 0 1 = 1 ∧ ((priv 1 4#64 0#64).rd 1 + (0#26).setWidth 64).toNat % 8 ≠ 0) ∧
    (issues (priv 1 0x27008#64 0#64) rdx = true ∧ ((priv 1 0x27008#64 0#64).barRead 0x27008).isSome = true ∧ ((priv 1 0x3FFFFF8#64 0#64).barRead 0x3FFFFF8) = none ∧ 0x3FFFFF8 < 2 ^ 27) ∧
    (let s := priv 2 0x27008#64 3#64
     issues s wrx = true ∧ s.fld 12 0 0 1 1 = 1 ∧ (s.barRead 0x27008).isSome = true ∧ 16 * s.caps.length ≤ 0x27008 ∧ s.blockAt 0x27008 = some (12, 0, 8) ∧ (regMask 12 8).isSome = true ∧
      s.thr? s.turn s.cur = some s.thr ∧ s.thr.out.length < 8 ∧ s.thr.released (s.turn / 64) 1 s.thr.seqNo = true ∧ writeBad 12 8 (s.rd 2) = false ∧ s.thr.stop = none) ∧
    (let s := priv 2 0x26148#64 1#64
     issues s wrx = true ∧ s.blockAt 0x26148 = some (11, 0, 0x148) ∧ 0x148 < 0x800 ∧ 0x40 ≤ 0x148 % 0x100 ∧ (regMask 11 0x148).isSome = true ∧ writeBad 11 0x148 (s.rd 2) = false) ∧
    (issues (priv 2 0#64 0#64) (.cbank 3 1 true) = true ∧ (priv 2 0#64 0#64).fld 12 0 0 1 1 = 1) ∧
    (issues (priv 0 24#64 0#64) (.wmread 0 3 1) = true ∧ 23 < ((priv 0 24#64 0#64).rd 1).toNat) ∧
    (let s := (priv 0 23#64 0#64).setReg 9 0 (0x40 * 23) (W (2 ^ 9))
     issues s (.wmread 0 3 1) = true ∧ (s.rd 1).toNat ≤ 23 ∧ s.fld 9 0 (0x40 * 23) 9 3 ≠ s.thr.part) ∧
    (let s := priv 0 23#64 0#64
     issues s (.wmread 0 3 1) = true ∧ (s.rd 1).toNat ≤ 23 ∧ s.fld 9 0 (0x40 * 23) 9 3 = s.thr.part) := by decide +kernel

/-- The single write of a register that is outstanding, to be performed. -/
theorem witness_privAll :
    let p := { pend0 with act := .priv 0x27008 3#64 }
    let s := onThr (priv 2 0#64 0#64) fun t => { t with out := [p] }
    s.cells = [(0, s.cell)] ∧ s.cell.slots = [(0, some s.thr)] ∧ s.thr.out = [p] ∧ s.thr.posted = [] ∧ 16 * s.caps.length ≤ 0x27008 ∧ s.blockAt 0x27008 = some (12, 0, 8) ∧
      writeBad 12 8 3#64 = false := by decide +kernel
/-- A machine with channel 23 of die 0 in partition 0: enabled or not, its state and shadow flag; g1 the channel, g2 the record's address. -/
def copying (en st full ch a : Nat) : State := gs ((m0.setReg 9 0 (0x40 * 23) (W en)).setReg 9 0 (0x40 * 23 + 0x18) (W (st + 8 * full))) [(1, W ch), (2, W a)]

/-- Whether the hypotheses common to the answers of cpsub hold. -/
def mayCopy (s : State) (wt : Bool) : Bool :=
  issues s (.cpsub 0 3 1 2 wt) && decide ((s.rd 1).toNat ≤ 23) && decide (s.chPart 0 (s.rd 1).toNat = s.thr.part) && decide ((s.rd 2).toNat % 256 = 0) && decide ((s.rd 2).toNat < 2 ^ 57) &&
  s.thr.released 0 1 s.thr.seqNo && s.thr.ea.isNone

/-- A bank-side block at 0x20000000 of one row of 32 elements, with a pinned B. -/
def bankSide (w4 : Nat) : State :=
  gs (words m0 [(0x20000000, 0x20010000), (0x20000008, 0x20001000), (0x20000010, 0x20002000), (0x20000018, 1 + 32 * 2 ^ 32), (0x20000020, w4), (0x20000028, 0), (0x20000030, 0), (0x20000038, 0),
    (0x20001000, 5), (0x200000, 2 ^ 63 + 2 ^ 62 + 2 ^ 61 + 2 ^ 60 + 2 ^ 59 + 2 ^ 58 + 2 ^ 57)]) [(1, 0x20000000#64)]

/-- Whether the hypotheses of bmv hold, with the status or the stack that it gets. -/
def bmvReady (s : State) : Bool × Nat :=
  match s.access (s.rd 1) 64 rRD 1 with
  | .ok l =>
    let r := s.lineRead s.thr.part l
    let s1 := r.s.charge 0 s.thr.part (s.rd 1).toNat 64
    let w := wordsOf r.v 8
    let ok := issues s (.bmv 0 3 1) && !s.accessWaits (s.rd 1) 64 l && !s.nowWaits [l] && s.thr.released 0 1 s.thr.seqNo && r.bad == 0
    (match s1.bsStatus s.thr.part w with
    | .error st => (ok, st)
    | .ok k => (ok && decide ((s1.stackAt k).bsq.length < 8) && !s1.rehashing (k * 2 ^ 36) && !s1.rangeStall s.thr.part (bsA w) (bsK w * bsAsz w), k))
  | _ => (false, 0)

/-- Whether the hypotheses of coll hold. -/
def collReady (s : State) : Bool :=
  issues s (.coll 0 3 1 2) && decide ((s.rd 2).toNat ≤ 63) &&
  (match s.ringWords s.thr.part (s.cur / 16) (s.rd 2).toNat with
  | (r, some ws) => (match r.headerCheck (s.rd 1) 128 with | .ok () => true | _ => false) && (ws.getD 0 0#64).getLsbD 63 && ringOk ws && decide (bf (ws.getD 0 0#64) 61 2 = 1) && decide ((s.rd 1).toNat % 64 = 0)
  | _ => false)

theorem witness_Submissions :
    (issues (copying 1 0 0 24 256) (.cpsub 0 3 1 2 false) = true ∧ 23 < ((copying 1 0 0 24 256).rd 1).toNat) ∧
    (issues (copying (2 ^ 9) 0 0 23 256) (.cpsub 0 3 1 2 false) = true ∧ ((copying (2 ^ 9) 0 0 23 256).rd 1).toNat ≤ 23 ∧ (copying (2 ^ 9) 0 0 23 256).chPart 0 23 ≠ 0) ∧
    (mayCopy (copying 1 2 0 23 256) true = true ∧ (copying 1 2 0 23 256).chState 0 23 = 2) ∧
    (mayCopy (copying 0 0 0 23 256) true = true ∧ (copying 0 0 0 23 256).chState 0 23 ≠ 2 ∧ (copying 0 0 0 23 256).chEn 0 23 = false) ∧
    (mayCopy (copying 1 1 1 23 256) false = true ∧ (copying 1 1 1 23 256).chState 0 23 ≠ 2 ∧ (copying 1 1 1 23 256).chEn 0 23 = true ∧ (copying 1 1 1 23 256).chFull 0 23 = true) ∧
    (mayCopy (copying 1 1 0 23 256) true = true ∧ (copying 1 1 0 23 256).chState 0 23 = 1 ∧ (copying 1 1 0 23 256).chEn 0 23 = true ∧ (copying 1 1 0 23 256).chFull 0 23 = false) ∧
    (mayCopy (copying 1 0 0 23 256) false = true ∧ (copying 1 0 0 23 256).chState 0 23 = 0) ∧
    bmvReady (bankSide 0) = (true, 3) ∧ bmvReady (bankSide (64 + 3 * 2 ^ 32 + 2 ^ 40)) = (true, 0) ∧ collReady (ringState 1 1#64) = true ∧ (issues (copying 1 0 0 24 8) (.cpsub 0 3 1 2 false) = true ∧ ((copying 1 0 0 24 8).rd 2).toNat % 256 ≠ 0) ∧ (2 : Nat) ^ 57 ≤ ((copying 1 0 0 24 (2 ^ 57)).rd 2).toNat ∧ ((copying 1 0 0 24 (2 ^ 57)).rd 2).toNat % 256 = 0 ∧
    (let l : Loc := .hbm 0x20000000
     issues acc1 (.cwait 3 1 2 true) = true ∧ (acc1.rd 1).toNat % 16 = 0 ∧ isPaged (acc1.rd 1).toNat = true ∧ (acc1.rd 1).toNat < 2 ^ 57 ∧ isOk (acc1.paged 0 (acc1.rd 1).toNat rRD) l = true ∧
      acc1.watchHit acc1.thr (acc1.rd 1).toNat 8 1 = false ∧ acc1.accessWaits (acc1.rd 1) 8 l = false ∧ acc1.nowWaits [l] = false ∧
      ((acc1.charge 0 0 (acc1.rd 1).toNat 8).memRead 0 l 8).bad = 0 ∧ issues acc1 (.cwait 3 1 2 false) = true ∧ (0 + 2 ^ 32 - (acc1.rd 2).toNat % 2 ^ 32) % 2 ^ 32 < 2 ^ 31 ∧
      ¬ ((0 + 2 ^ 32 - ((gs m1 [(1, 0x20000000#64), (2, 1#64)]).rd 2).toNat % 2 ^ 32) % 2 ^ 32 < 2 ^ 31)) := by decide +kernel

/-- An arm block at 0x20000000, its address in g1 and the channel in g2. -/
def arming (w0 base limit w3 ch : Nat) : State := gs (words m0 [(0x20000000, w0), (0x20000008, base), (0x20000010, limit), (0x20000018, w3)]) [(1, 0x20000000#64), (2, W ch)]

/-- Whether the hypotheses that arming shares hold. -/
def armReady (s : State) : Bool :=
  let l := 0x20000000
  issues s (.marm 1 2) && decide ((s.rd 1).toNat % 8 = 0) && (List.range 4).all (fun i => isOk (s.access (s.rd 1 + W (8 * i)) 8 rRD 1) (.hbm (l + 8 * i))) &&
  !s.accessWaits (s.rd 1) 32 (.hbm l) && !s.accessWaits (s.rd 1) 32 (.hbm (l + 24)) && !s.nowWaits [.hbm l, .hbm (l + 24)] && decide (l % 64 ≤ 32) && (s.lineOf l).unfilled.isNone && !(s.lineOf l).poison && !s.tagBad (s.keyOf 0) l &&
  decide (s.fld 11 0 0x808 3 1 = 0) && decide (s.fld 2 0 (0x1000 * (l / 2 ^ 36) + 8) 2 1 = 0)

/-- The block's words as the statement names them. -/
def armWords (s : State) : List Nat := (List.range 4).map fun i => readLE s.hbmByte (0x20000000 + 8 * i) 8

/-- A thread in barrier group 1 with g1 and g2. -/
def grouped (a v : Word) : State := onThr (gs m0 [(1, a), (2, v), (4, 0x3FF0000000000000#64)]) fun t => { t with bgrp := 1 }

theorem witness_Monitors :
    (armReady (arming 0 0 0 0 8) = true ∧ 8 ≤ ((arming 0 0 0 0 8).rd 2).toNat) ∧
    (armReady (arming 3 0 0 0 7) = true ∧ armWords (arming 3 0 0 0 7) = [3, 0, 0, 0] ∧ armOk false (W 3) (W 0) (W 0) (W 0) = false) ∧
    (armReady (arming 0 0 0 0 3) = true ∧ armWords (arming 0 0 0 0 3) = [0, 0, 0, 0] ∧ armOk false (W 0) (W 0) (W 0) (W 0) = true ∧ armOk true (W 0) (W 0) (W 0) (W 0) = true ∧ bf (W 0) 0 8 = 0) ∧
    (armReady (arming 0 0 0 0 4) = true ∧ 4 ≤ ((arming 0 0 0 0 4).rd 2).toNat ∧ ((arming 0 0 0 0 7).rd 2).toNat < 8) ∧
    (let b := 0xFF * 2 ^ 48
     let s := arming 1 b (b + 64) 8 3
     armReady s = true ∧ armWords s = [1, b, b + 64, 8] ∧ (s.rd 2).toNat < 4 ∧ armOk false (W 1) (W b) (W (b + 64)) (W 8) = true ∧ bf (W 1) 0 8 ≠ 0 ∧ s.thr.sb.toNat ≤ b ∧ b + 64 ≤ s.thr.sb.toNat + s.thr.ss.toNat) ∧
    (issues m0 (.mref 1 0 0 false) = true ∧ m0.thr.bgrp = 0 ∧ issues (grouped 16#64 0#64) (.mref 1 2 4 true) = true ∧ 16 ≤ ((grouped 16#64 0#64).rd 1).toNat) ∧
    (let s := grouped 15#64 0#64
     issues s (.mref 1 2 4 true) = true ∧ issues s (.mref 1 0 0 false) = true ∧ (s.rd 1).toNat < 16 ∧ s.thr.bgrp ≠ 0 ∧ bf (s.rd 2) 52 11 ≠ 2047 ∧ bf (s.rd 4) 52 11 ≠ 2047 ∧ (s.rd 4).toNat ≤ 2 ^ 63) ∧
    (issues (grouped 16#64 0#64) (.mread 0 3 1 0) = true ∧ issues (grouped 8#64 0#64) (.mread 0 3 1 1) = true ∧ issues (grouped 15#64 0#64) (.mread 0 3 1 0) = true ∧ issues (grouped 3#64 0#64) (.mread 0 3 1 1) = true ∧
      issues (grouped 15#64 0#64) (.mread 0 3 1 2) = true ∧ ((grouped 15#64 0#64).rd 1).toNat < 16 ∧ ((grouped 3#64 0#64).rd 1).toNat < 4) := by decide +kernel

/-- A machine with object 1 of a type on die 0, in group 0 of contributors 0 and 1: its descriptor at 0x20400040, the group's at 0x20500000, its members at 0x20600000 and STATE at
0x20700000. -/
def objState (typ fmt wc n : Nat) (y z w : Word) : State :=
  let s := (m0.setReg 4 0 0 (W (0x20400000 + 1))).setReg 4 0 8 (W 0x20500000)
  gs (words s [(0x20400040, 2 ^ 31 + typ * 2 ^ 28 + fmt * 2 ^ 23 + wc * 2 ^ 18), (0x20400048, n), (0x20400050, 0), (0x20400058, 0), (0x20400060, 0), (0x20400068, 0x20700000), (0x20400070, 16), (0x20400078, 0),
    (0x20500000, 2 ^ 31 + 1), (0x20500008, 0), (0x20500010, 0x20600000), (0x20500018, 0), (0x20500020, 0), (0x20500028, 0), (0x20500030, 0), (0x20500038, 0), (0x20600000, 0x10000)]) [(1, y), (2, z), (4, w)]

/-- The reference of element `e` of that object. -/
def refOf (e : Nat) : Word := W (1 * 2 ^ 36 + e)

/-- Whether a contribution of `n` elements to element `e` has room there. -/
def contributes (s : State) (typ e n : Nat) (i : Instr) : Bool :=
  match s.refObj (s.rd 1) with
  | (s1, some (_, o, g, r)) =>
    (match s1.room 0 o r (((List.range n).map fun j => (e + j) / o.perTile).eraseDups) with
    | (_, r2, true) => issues s i && !r2.spent && decide (o.typ = typ) && decide (e + n ≤ o.n) && decide (n * dtSize o.fmt ≤ 4096) && !r.spent && !s1.joinHeld g o &&
      decide ((o.contribute (s.contrib 0) e 1 (s.contribSrc o 4 n true) r2).opened.length < 65536)
    | _ => false)
  | _ => false

/-- Whether the hypotheses of rlww hold. -/
def writes (s : State) (e : Nat) (i : Instr) : Bool :=
  match s.refObj (s.rd 1) with
  | (s1, some (_, o, g, r)) =>
    (match s1.room 0 o r [e] with
    | (_, r2, true) => issues s i && !r2.spent && decide (o.typ = 3) && decide (e < o.tiles) && !r.spent && !s1.joinHeld g o && decide (r2.opened = [])
    | _ => false)
  | _ => false

/-- What a reference of the machine reaches: its type, elements, sum flag, and whether a set of it has room and holds no element 7. -/
def reaches (s : State) : Option (Nat × Nat × Bool × Bool) :=
  match s.refObj (s.rd 1) with
  | (s1, some (_, o, g, r)) => some (o.typ, o.n, o.isSum, !r.spent && !s1.joinHeld g o && decide ((r.entries r.log).length + addsOf r.held < 2 ^ 20) && decide (r.inUse + 128 ≤ 4096 * o.plog) &&
      decide (r.next < 0xFFFFFFFF) && (r.entries r.log).all (fun q => decide (q.1 ≠ 7)) && decide (r.frontOf 0 < 5) && g.mem.contains 0)
  | _ => none

theorem witness_ReplicaInstructions :
    (([Instr.radd 0 3 1 4 0 true, .rmax 0 3 1 4 0 true, .rmean 0 3 1 2 4 0 true, .rlww 0 3 1 2 4 true, .rsadd 0 3 1 2, .rsrem 0 3 1 2, .rshas 0 3 1 2 false, .rread 0 3 1 0 true false 0 false,
      .rfront 0 3 1 2 0, .rstab 0 3 1 2 4 false] : List Instr).all (issues m0) = true ∧ (m0.refObj (m0.rd 1)).2 = none) ∧
    (issues m0 (.rhlc 0 3 2 2) = true ∧ (m0.rd 2).toNat < 2 ^ 63 ∧ (m0.reg 4 0 0x400).toNat < 2 ^ 63 ∧ m0.nowUnits < 2 ^ 47) ∧
    (contributes (objState 1 0 0 600 (refOf 599) 0#64 0#64) 1 599 1 (.radd 0 3 1 4 0 true) = true ∧ contributes (objState 2 0 0 600 (refOf 0) 0#64 0#64) 2 0 1 (.rmax 0 3 1 4 0 true) = true ∧
      contributes (objState 5 0 0 600 (refOf 5) 16777216#64 0#64) 5 5 1 (.rmean 0 3 1 2 4 0 true) = true ∧ writes (objState 3 0 0 600 (refOf 0) 5#64 0#64) 0 (.rlww 0 3 1 2 4 true) = true) ∧
    (let s := objState 4 0 0 (2 ^ 20) (refOf 0) 7#64 0#64
     reaches s = some (4, 2 ^ 20, false, true) ∧ ([.rsadd 0 3 1 2, .rsrem 0 3 1 2, .rshas 0 3 1 2 true, .radd 0 3 1 4 0 true, .rfront 0 3 1 0 2, .rstab 0 3 1 2 4 false] : List Instr).all (issues s) = true ∧ (s.rd 2).toNat < 2 ^ 40) ∧
    (let s := objState 5 0 0 600 (refOf 599) 5#64 0#64
     reaches s = some (5, 600, true, true) ∧ ([.rread 0 3 1 0 true false 1 false, .rread 0 3 1 0 false true 0 false, .rread 0 3 1 0 true false 0 true] : List Instr).all (issues s) = true) ∧
    (let s := objState 5 0 0 600 (refOf 0) 5#64 0#64
     reaches s = some (5, 600, true, true) ∧ (s.rd 2).toNat < 2 ^ 32 ∧ (s.rd 4).toNat < 2 ^ 14) := by decide +kernel

/-- The replica of a machine's reference changed. -/
def changed (s : State) (f : ObjD → Replica → Replica) : State :=
  match s.refObj (s.rd 1) with
  | (s1, some (_, o, _, r)) => s1.setRepl 0 (f o r)
  | _ => s

/-- Whether its replica has a number, a join to wait for, and room for tile 0. -/
def roomOf (s : State) : Option (Bool × Bool × Bool) :=
  match s.refObj (s.rd 1) with
  | (s1, some (_, o, g, r)) => some (r.spent, s1.joinHeld g o, (s1.room 0 o r [0]).2.2)
  | _ => none

/-- Whether the hypotheses of a removal of page 7 that is present hold, and of a wait for a front. -/
def removes (s : State) : Bool :=
  match s.refObj (s.rd 1) with
  | (s1, some (_, o, g, r)) =>
    issues s (.rsrem 0 3 1 2) && decide (o.typ = 4) && decide (r.next < 0xFFFFFFFF) && !s1.joinHeld g o &&
    decide (((r.entries r.log).filter fun q => q.1 == 7).length = 1) && decide (r.inUse + remCost 1 ≤ 4096 * o.plog) && decide (r.frontOf 0 < 2 ^ 32 - 1) && g.mem.contains 0
  | _ => false

/-- The further clauses of ReplicaInstructions: a log without room, a last number taken, a page to remove. -/
theorem witness_ReplicaWaits :
    let s := objState 1 0 0 65536 (refOf 0) 0#64 0#64
    roomOf (changed s fun o r => { r with opened := (List.range 15).map fun i => o.tile0 1 0 (i + 1) }) = some (false, false, false) ∧
    roomOf (changed s fun _ r => { r with next := 0xFFFFFFFE, opened := [] }) = some (false, false, true) ∧
    (roomOf (changed s fun _ r => { r with next := 0xFFFFFFFF })).map (·.1) = some true ∧
    removes (ran (.rsadd 0 3 1 2) (objState 4 0 0 (2 ^ 20) (refOf 0) 7#64 0#64)) = true := by decide +kernel
/-! ## Witnesses: tiles, matrices, streams -/

/-- Whether the hypotheses of a tile transfer hold: its lines translate, need no wait and are here. -/
def linesReady (s : State) (need kinds : Nat) (rel : Bool) (sc p n : Nat) : Bool :=
  match s.linesGo need kinds (rowLines (s.rd 1) p n) with
  | (ls, none) => !s.linesWait ls rel sc && ls.all (·.2.isHere) && decide ((s.rd 1).toNat % 64 = 0) && decide ((s.rd 1).toNat < 2 ^ 57)
  | _ => false

/-- The thread with tile 2 as a result that returns. -/
def returning : State :=
  onThr m0 fun t => { t with out := [{ pend0 with act := .ret [.tile 2 [(0, 7#8)]] 4#8, dst := none }] }

theorem witness_TileTransfers :
    (issues (target 32#64) (.tld 0 2 1 0 false 0 0) = true ∧ issues (target 32#64) (.tst 0 2 1 0 false 0 0) = true ∧ ((target 32#64).rd 1).toNat % 64 ≠ 0 ∧ m0.thr.ea = none) ∧
    (issues acc1 (.tld 0 2 1 1 true 31 2) = true ∧ linesReady acc1 rRD 1 false 0 2 32 = true) ∧ (issues acc1 (.tst 0 2 1 2 true 31 2) = true ∧ linesReady acc1 rWR 2 true 2 2 32 = true) ∧
    ([.tmov 0 2 1 false 0 0, .tmov 0 2 1 true 31 3, .tfill 0 2 1 3 false 0, .tfill 0 2 1 0 true 31] : List Instr).all (issues m0) = true ∧
    ((List.replicate 1024 7).length = teCount 11 ∧ ∀ v ∈ List.replicate 1024 7, v < 2 ^ teBits 11) ∧
    (∃ w, returning.thr.out = [w] ∧ w.act = .ret [.tile 2 [(0, 7#8)]] 4#8 ∧ w.late = none ∧ w.perf = none ∧ w.dst = none) := by
  and_intros <;> first | decide +kernel | exact ⟨{ pend0 with act := .ret [.tile 2 [(0, 7#8)]] 4#8, dst := none }, by decide +kernel⟩

theorem witness_VectorArithmetic :
    ([.vadd 0 2 1 3 0 4 11 false false, .vadd 0 2 1 3 0 0 12 true false, .vsub 0 2 1 0 1 1 0 false true, .vmul 0 2 1 3 0 0 14 false false, .vfma 0 2 1 3 4 0 0 1 false false, .vdiv 0 2 1 3 0 2 11 false, .vsqrt 0 2 1 3 13,
      .vexp2 0 2 1 0 11, .vmin 0 2 1 3 0 12 false false, .vmax 0 2 1 3 0 11 false false, .vabs 0 2 1 14 true, .vneg 0 2 1 11 false, .vand 0 2 1 3 0 12 false, .vor 0 2 1 3 0 12 false,
      .vxor 0 2 1 0 1 14 true, .vshl 0 2 1 3 0 12 false, .vshr 0 2 1 3 0 12 true false] : List Instr).all (issues m0) = true := by decide +kernel

theorem witness_VectorConversions :
    ([.vcvt 0 2 1 0 0 11 1, .vcvt 0 2 1 4 11 1 1, .vrsum 0 2 1 0 11, .vrsum 0 2 1 0 12, .vrmax 0 2 1 14, .vtrans 0 2 1 3 1 true, .vtrans 0 2 1 0 11 false, .vscal 0 2 1 3 4 0 12, .mxunpk 0 2 1 3 0 4 0,
      .mxpack 0 2 1 3 0 4 0] : List Instr).all (issues m0) = true ∧ (0 : Nat) < min (teCount 11) (teCount 0) := by decide +kernel

/-- Configuration words: FP16 in a 1 by 1 mode, valid and invalid. -/
def cfgWord : Word := W 4

/-- The thread with g2 and g3, and configuration 1 as `cfgWord`'s. -/
def matrix : State := let s := gs m0 [(1, 16#64), (2, cfgWord), (3, cfgWord)]; s.setMcfg 0 0 1 (cfgOf cfgWord 0#64 0#64)

/-- The same with a full queue of 16 commands. -/
def cmd0 (op : MOp) (run : Bool) : MCmd :=
  { op := op, cfg := cfgOf cfgWord 0#64 0#64, fresh := none, a := [List.replicate 4096 0#8], b := List.replicate 2 (List.replicate 4096 0#8), hold := [], cell := 0, slot := 0, gid := 0#64, part := 0, sb := 0#64, ss := 0#64, pend := pend0, bank := 0, running := run, flags := 0, sca := [],
    scb := [], ga := 32, gb := 32 }
def queueOf (l : List MCmd) : State := matrix.setCell 0 { matrix.cell with mq := l }

/-- A message from slot 0 of cell 0 to its own cell, and the thread that waits for it. -/
def msg0 (kind : BitVec 2) (cap : Nat) : MatMsg :=
  { senderCell := 0, senderSlot := 0, kind := kind, cap := W cap, second := cfgWord, c := 1, sub := 0, zero := false, ext := 0, ascale := 0#64, bscale := 0#64, aTiles := [], bTiles := [] }
def sending (m : MatMsg) : State := onThr matrix fun t => { t with out := [{ pend0 with act := .msg m false }] }

theorem witness_MatrixUnit :
    (issues matrix (.mcfg 1 1 false false 0 0) = true ∧ cfgBad (matrix.rd 1) false false 0#64 0#64 = true ∧ issues matrix (.mcfg 2 1 false false 0 0) = true ∧ cfgBad (matrix.rd 2) false false 0#64 0#64 = false) ∧
    (issues (queueOf (List.replicate 16 (cmd0 (.zero 0 0 32 32) false))) (.mmul 0 1 3 1 1 0 true 0) = true ∧ (queueOf (List.replicate 16 (cmd0 (.zero 0 0 32 32) false))).mqFull 0 0 = true) ∧
    (issues matrix (.mmul 0 1 3 1 0 0 true 0) = true ∧ (matrix.mcfgAt 0 0 0).v = false ∧ matrix.mqFull 0 0 = false) ∧
    (issues matrix (.mmul 0 1 3 1 1 3 false 0) = true ∧ (matrix.mcfgAt 0 0 1).v = true ∧ (matrix.mcfgAt 0 0 1).mode = 0) ∧
    (issues matrix (.acget 0 2 0 11 480 480) = true ∧ issues matrix (.acget 0 2 0 0 0 448) = true ∧ issues matrix (.acput 0 2 480 480) = true ∧ issues matrix (.acput 0 2 481 0) = true ∧ issues matrix (.aczero 0 480 0 0 15) = true) ∧
    (issues matrix (.msend 0 0 4 8 2 1 0 true 0 0) = true ∧ issues matrix (.msend 0 0 4 0 2 0 0 false 3 0) = true ∧ issues matrix (.msend 0 0 0 0 2 1 0 false 1 0) = true ∧
      cfgBad (matrix.rd 3) false false 0#64 0#64 = false ∧ cfgBad ((gs m0 [(3, 16#64)]).rd 3) false false 0#64 0#64 = true ∧ issues (gs m0 [(3, 16#64)]) (.msend 0 0 0 0 2 1 0 false 1 0) = true) ∧
    (let m := msg0 0 0
     (sending m).thr.out = [{ pend0 with act := .msg m false }] ∧ 0 = m.senderCell / 64 * 64 + bf m.cap 0 6 ∧ capOk m ((sending m).mcfgAt 0 0 1).key = false) ∧
    (let m := msg0 0 (2 ^ 20 + 2 ^ 25)
     capOk m ((sending m).mcfgAt 0 0 1).key = true ∧ ((sending m).mcfgAt 0 0 1).v = true ∧ ((sending m).mcfgAt 0 0 1).mode = (m.ext.extractLsb' 0 2).toNat ∧ (sending m).mqFull 0 0 = false) ∧
    (capOk (msg0 1 (2 ^ 21 + 2 ^ 25)) ((sending (msg0 1 (2 ^ 21 + 2 ^ 25))).mcfgAt 0 0 1).key = true) ∧
    (let s := queueOf [cmd0 (.zero 32 64 32 96) false]
     (s.cellAt 0).mq = [cmd0 (.zero 32 64 32 96) false] ∧ (cmd0 (.zero 32 64 32 96) false).bank = s.cellBank 0 ∧ (s.partAt 0).switching = false ∧ (s.cellAt 0).swap = [] ∧
      ((s.setPart 0 { s.partAt 0 with switching := true }).partAt 0).switching = true) ∧
    (let y := cmd0 (.mul 0 false 0#64) false
     mScaled y.cfg.afmt = false ∧ mScaled y.cfg.bfmt = false ∧ (queueOf [y]).scalesWait y = false ∧ y.running = false ∧ y.bank = (queueOf [y]).cellBank 0 ∧ ((queueOf [y]).partAt y.part).switching = false ∧ ((queueOf [y]).cellAt 0).swap = []) ∧
    (let y := cmd0 (.mul 0 false 0#64) true
     let s := queueOf [y]
     (s.cellAt 0).mq = [y] ∧ y.running = true ∧ y.sub? = some 0 ∧ s.thr? y.cell y.slot = some s.thr ∧ s.thr.gid = y.gid ∧ y.area.1 + y.area.2.2.1 ≤ 512 ∧ y.area.2.1 + y.area.2.2.2 ≤ 512 ∧
      (y.product (s.cellAt 0)).1.length = y.area.2.2.1 ∧ ∀ x ∈ (y.product (s.cellAt 0)).1, x.length = y.area.2.2.2) := by decide +kernel

/-- Streams 0 and 1 of the thread: lineages and codes. -/
def streams (c0 c1 : Nat) (l0 l1 : Word) : State :=
  (m0.setStrmAt 0 0 0 ⟨[(3, 5)], c0, l0, true, false⟩).setStrmAt 0 0 1 ⟨[(3, 6)], c1, l1, true, false⟩

theorem witness_AttentionAndStreams :
    ([.amerge 0 0 4 8 2, .anorm 0 0 4 2, .slen 2 2, .sgen 0 2 1 3 31 true 63, .sregen 0 2 0 1 5, .scnt 0 0 2 31 1] : List Instr).all (issues m0) = true ∧
    (let is := ([.sand 0 2 0 1, .sxnor 0 2 0 1, .smux 0 2 0 1 1] : List Instr)
     (is.all (issues (streams 1 2 0#64 0#64)) = true ∧ ((streams 1 2 0#64 0#64).strm 1).code ≠ ((streams 1 2 0#64 0#64).strm 0).code) ∧
      (is.all (issues (streams 1 1 3#64 2#64)) = true ∧ ((streams 1 1 3#64 2#64).strm 1).code = ((streams 1 1 3#64 2#64).strm 0).code ∧
        ((streams 1 1 3#64 2#64).strm 0).lineage &&& ((streams 1 1 3#64 2#64).strm 1).lineage ≠ 0#64) ∧
      is.all (issues (streams 1 1 1#64 2#64)) = true ∧ ((streams 1 1 1#64 2#64).strm 0).lineage &&& ((streams 1 1 1#64 2#64).strm 1).lineage = 0#64) := by decide +kernel
/-! ## Witnesses: sensors, stacks, migration -/

/-- A sensor of die 0 at a temperature in degrees. -/
def heated (c : Nat) : State := m0.setReg 1 0 0 (W (2 ^ 16 + 16 * c))

theorem witness_ThermalEvents :
    ((1600#16).toInt = 1600 ∧ (0#16).toInt < 1600 ∧ (m0.dieAt 0).warned = false) ∧
    (16 * 118 ≤ (heated 118).temp 0 0 ∧ (heated 118).partOfDie 0 = some 0 ∧ (heated 118).running 0 = true ∧ (heated 118).fld 5 0 0x18 16 1 = 0) ∧
    (∀ m, m < 8 → ¬ 16 * 118 ≤ m0.temp 0 m) ∧
    (let s := m0.setReg 1 0 0x200 8#64
     s.fld 1 0 0x200 3 1 = 1 ∧ (∀ m, m < 8 → s.temp 0 m ≤ 1600) ∧ s.fld 1 0 0x200 2 1 = 0) ∧
    (16 * 108 ≤ (heated 108).temp 0 0) ∧ ((∀ m, m < 8 → ¬ 16 * 105 ≤ (heated 104).temp 0 m) ∧ (heated 104).fld 1 0 0x200 3 1 ≠ 1) ∧
    ((m0.setReg 1 0 0x300 1#64).fld 1 0 0x300 0 2 = 1 ∧ m0.fld 1 0 0x300 0 2 ≠ 1) ∧ ((m0.dieAt 0).throttle < 32 ∧ (m0.dieAt 0).warm < 32 ∧ (m0.dieAt 0).power < 32) ∧
    (let s := (List.range 8).foldl (fun s m => s.setReg 1 0 (8 * m) (W (2 ^ 16))) (((m0.setReg 1 0 0x400 (W (2 ^ 18))).setReg 1 0 0x408 (W (2 ^ 18))))
     let t : State := { s with service := { s.service with up := true, loaded := [{ kind := 2, addr := 0, body := [] }] } }
     t.service.up = true ∧ t.service.loaded.any (·.kind == 2) = true ∧ (∀ m, m < 8 → t.fld 1 0 (8 * m) 16 1 = 1) ∧ t.fld 1 0 0x400 18 1 = 1 ∧ t.fld 1 0 0x408 18 1 = 1) := by decide +kernel

/-- Stack 0 changed. -/
def stack0 (f : Stack → Stack) : State := m0.setStack 0 (f (m0.stackAt 0))

/-- A bank-side command. -/
def bsc (run : Bool) (compl : Nat) : BsCmd := { block := [0#64, 0#64, 0#64, 0#64, 0#64, W compl, 0#64, 0#64], a := [], part := 0, gid := 0#64, running := run }

/-- A consuming load of the first thread that waits on the word of `acc1`. -/
def consPend : Pend := { pend0 with act := .cons (.hbm 0x20000000) 3 0, seq := 5 }

/-- A producing store or a consuming load waiting on that word, which is full or empty. -/
def syncing (store full : Bool) : State :=
  let s := onThr m1 fun t => if store then { t with posted := [{ posted0 with sync := true, seq := 5 }] } else { t with out := [consPend] }
  let s1 := s.setFe 0x20000000 full
  s1.setStack 0 { s1.stackAt 0 with syncs := [{ cell := 0, slot := 0, seq := 5, store := store, hpa := 0x20000000, pkt := none }] }

theorem witness_StackEvents :
    (m0.fld 11 0 0x808 3 1 = 0 ∧ m0.partOfDie 0 = some 0 ∧ m0.fld 5 0 0x18 16 1 = 0 ∧ tget (fun _ => 0) ((stack0 fun x => { x with linkFails := [(0, 2), (1, 1)] }).stackAt 0).linkFails 0 = 2 ∧
      tget (fun _ => 0) ((stack0 fun x => { x with linkFails := [(0, 2), (1, 1)] }).stackAt 0).linkFails 1 ≠ 2) ∧
    (m0.fld 2 0 8 1 1 = 0 ∧ (m0.setReg 2 0 8 2#64).fld 2 0 8 1 1 = 1) ∧
    (let s := stack0 fun x => { x with target := some [] }
     (s.stackAt 0).target = some [] ∧ (s.stackAt 0).bsq = []) ∧
    (let s := stack0 fun x => { x with target := some [], bsq := [bsc false 0] }
     (s.stackAt 0).target = some [] ∧ (s.stackAt 0).bsq ≠ []) ∧
    ((0x3000#64).toNat % 2 ^ 12 = 0 ∧ (0x3000#64).toNat < 2 ^ 40 ∧ ¬ ((1#64).toNat % 2 ^ 12 = 0)) ∧ (15#64).toNat < 16 ∧
    (let s := stack0 fun x => { x with bsq := [bsc true 1, bsc false 0] }
     (s.stackAt 0).bsq = bsc true 1 :: [bsc false 0] ∧ (bsc true 1).running = true ∧ bsCompl (bsc true 1).block = 1 ∧ bsCompl (bsc true 0).block ≠ 1 ∧ (bsc false 0).running = false ∧ s.bsStall 0 (bsc true 1) = false) ∧
    (let c : BsCmd := { bsc true 0 with block := [0#64, 0x20002000#64, 0x20002000#64, W (32 + 16 * 2 ^ 32), 0#64, 0#64, 0#64, 0#64] }
     let s := (m0.setReg 2 0 8 2#64).setStack 1 { m0.stackAt 1 with bsq := [c] }
     (s.stackAt 1).bsq = [c] ∧ c.running = true ∧ s.bsStall 1 c = true) ∧
    ((m0.stackAt 0).syncs = []) ∧
    ([true, false].all fun b =>
      let s := syncing b (!b)
      (match (s.stackAt 0).syncs with
      | w :: _ => w.pkt.isNone && (s.feBit w.hpa != w.store) && w.store == b && (if b then ((s.thrAt w.cell w.slot).postIdx w.seq).isSome else ((s.thrAt w.cell w.slot).outIdx w.seq).isSome)
      | [] => false)) = true ∧
    ((syncing false true).thrAt 0 0).out = [consPend] ∧ ((syncing false true).thrAt 0 0).posted = [] ∧
    (let s := onThr m0 fun t => { t with wait := .barRefused 0 }
     s.thr? 0 0 = some s.thr ∧ s.thr.wait = .barRefused (0 % 16)) := by decide +kernel

/-- A Dahlia core of stack 0 with slots and a queue. -/
def core0 (slots queue : List Guest) (s : State) : State := s.setCore 0 0 { slots := slots, queue := queue, issuedAt := 0 }

/-- The thread where it stands and what it waits for. -/
def standing (st : Site) (w : Wait) (out : List Pend) (r : Nat) : State := onThr m0 fun t => { t with site := st, wait := w, out := out, refusals := r }

/-- A light context, and the access descriptor of one of another device. -/
def light0 : LightCtx := frame5.ctx
def desc0 : Desc := { rwin := 0#16, group := 0#16, offset := 0#40, sz := 3#2, acq := false, rel := false, sc := 0#2, op := 0#4, slot := 0#4, cid := 0#6, mask := 255#64, zeroOk := true }

/-- Other contexts at a core. -/
def guests (n : Nat) : List Guest := List.replicate n (.own 5 5)

/-- A window of 64 KiB over VA 0x20010000 of partition 0 for group 0, with every right, at 0x20800000. -/
def windowed : State :=
  words (m0.setReg 3 0 0x48 (W (0x20800000 + 1)))
    [(0x20800000, 2 ^ 63 + 2 ^ 62 + 2 ^ 61 + 2 ^ 60 + 16 * 2 ^ 54), (0x20800008, 0x20010000), (0x20800010, 0), (0x20800018, 0), (0x20010000, 7)]

/-- Whether a context of another device finds a free slot, once its access has been checked. -/
def peerRuns (s : State) (need : Nat) : Option Bool :=
  match s.peerCheck desc0 1 desc0.offset.toNat (descN desc0) need with
  | (s2, .ok _) => some (decide ((s2.coreOf 0 0).slots.length < 16) && !(s2.coreOf 0 0).slots.contains (.own 520 0))
  | _ => none

theorem witness_MigrationEvents :
    (let s := standing (.departing 0 0) .none [pend0] 0
     s.thr? 0 0 = some s.thr ∧ s.thr.wait = .none ∧ s.thr.site = .departing 0 0 ∧ s.thr.posted = [] ∧ (∀ p ∈ s.thr.out.dropLast, p.perf.isSome = true) ∧ (s.coreOf 0 0).slots.length < 16 ∧ s.hbmStacks = [] ∧
      s.traced s.thr.gid = false) ∧
    (let s := standing (.departing 0 0) (.migRefused 3) [] 3
     s.thr? 0 0 = some s.thr ∧ s.thr.wait = .migRefused 3 ∧ s.thr.site = .departing 0 0) ∧
    (let s := core0 (guests 16) [] (standing (.departing 0 0) .none [] 0)
     16 ≤ (s.coreOf 0 0).slots.length ∧ (s.coreOf 0 0).queue.length < 64 ∧ s.thr? 0 0 = some s.thr ∧ (∀ c ∈ (s.stackAt 0).cores, .own 0 0 ∉ c.2.slots ++ c.2.queue)) ∧
    (let s := core0 (guests 16) (guests 64) (standing (.departing 0 0) .none [] 14)
     16 ≤ (s.coreOf 0 0).slots.length ∧ 64 ≤ (s.coreOf 0 0).queue.length ∧ s.thr.refusals < 15) ∧
    (let s := core0 (guests 16) (guests 64) (standing (.departing 0 0) .none [pend0] 15)
     s.thr? 0 0 = some s.thr ∧ s.thr.refusals = 15 ∧ s.thr.out ≠ [] ∧ s.thr.posted = [] ∧ ∀ p ∈ s.thr.out.dropLast, p.perf.isSome = true) ∧
    (let s := onThr (standing (.departing 0 0) .none [] 0) fun t => { t with posted := [posted0] }
     s.thr.site = .departing 0 0 ∧ s.thr.wait = .none ∧ s.thr.posted ≠ []) ∧
    (let s := core0 [.own 0 0] (guests 1) (standing (.dahlia 0 0) .none [] 0)
     s.thr? 0 0 = some s.thr ∧ s.thr.site = .dahlia 0 0 ∧ (s.coreOf 0 0).queue ≠ [] ∧ s.thr.posted = [] ∧ (∀ p ∈ s.thr.out, p.perf.isSome = true) ∧ (s.cellAt 0).fills = [] ∧ s.traced s.thr.gid = false) ∧
    (let s := core0 [.own 0 0] [] (standing (.dahlia 0 0) .none [] 0)
     s.thr.site = .dahlia 0 0 ∧ (s.coreOf 0 0).queue = []) ∧
    (let s := core0 (guests 15) [.own 0 0] (standing (.queued 0 0) .none [] 0)
     (s.coreOf 0 0).slots.length < 16 ∧ (s.coreOf 0 0).queue = [.own 0 0] ∧ .own 0 0 ∉ (s.coreOf 0 0).slots ∧ s.thr? 0 0 = some s.thr) ∧
    ((let s := core0 [.own 0 0] (guests 1) (onThr (standing (.dahlia 0 0) .none [] 0) fun t => { t with far := some desc0 })
      s.thr.site = .dahlia 0 0 ∧ (s.coreOf 0 0).queue ≠ [] ∧ s.thr.posted = [] ∧ s.thr.out = [] ∧ s.thr.far ≠ none)) ∧
    (windowed.peerStall desc0 = false ∧ windowed.heldPkt 0x30 = none ∧
      peerRuns windowed rRD = some true ∧ peerRuns windowed (rRD + rWR) = some true ∧ peerRuns windowed rAT = some true ∧ peerRuns m0 rRD = none ∧
      peerRuns (core0 (guests 16) (guests 64) windowed) rRD = some false) ∧
    (let s := standing (.peer 1) .none [] 0
     s.heldPkt 0x31 = none ∧ s.heldPkt 0x32 = none ∧ s.thr? 0 0 = some s.thr ∧ s.thr.site = .peer 1 ∧ s.thr.out = [] ∧ (s.cellAt 0).fills = [] ∧ s.fld 11 0 0x30 8 1 = 0 ∧ s.thr.refusals < 15) := by and_intros <;> decide +kernel
/-! ## Witnesses: cells, debugging -/

/-- A message or fill to cell 0 from slot 0 of cell 0. -/
def flight (slot reg : Nat) : Flight := { cell := 0, slot := slot, reg := reg, v := 9#64, fromCell := 0, fromSlot := 0, landed := false }

/-- A thread in slot 1 beside the first, which waits. -/
def pairOf (w : Wait) (u : Thread) (fs : List Flight) (held : Nat) : State :=
  let c := m0.cell
  { m0.setCell 0 { c with slots := [(0, some { placeThread with wait := w }), (1, some u)], fills := List.replicate held { slot := 2, reg := 0, v := 0#64 } } with flights := fs }

/-- A machine with a bank's power, its CBANK and the cycle. -/
def powered (b st : Nat) (cb : Word) (cyc : Nat) : State :=
  { m0.setCell 0 { m0.cell with power := [(b, st)], cbank := cb } with cycle := cyc }

theorem witness_CellEvents :
    (let s : State := { m0 with flights := [flight 0 (64 + 1)] }
     s.thr? 0 0 = some s.thr ∧ s.flights.all (fun g => g.landed || !(g.cell == 0 && g.reg == 64 + 1)) = false ∧ (flight 0 65).landed = false ∧ (s.fifo 0 1).length < 4 ∧
      4 ≤ ((s.setFifo 0 1 [0#64, 0#64, 0#64, 0#64]).fifo 0 1).length ∧ s.flights.all (fun g => g.landed || !(g.cell == 0 && g.slot == 1 && g.reg == 5 && g.v == 9#64)) = true) ∧
    (let f := { flight 1 5 with landed := true }
     let g : Flight := { flight 1 5 with landed := true, fromCell := 1 }
     (({ m0 with flights := [f] } : State).flights.filter (·.landed) = [f]) ∧ ({ m0 with flights := [g, f] } : State).flights.filter (·.landed) = [g, f] ∧ f.fromCell < g.fromCell) ∧
    (let u : Thread := { placeThread with full := 0#64 }
     let s := pairOf (.fillSent 8#64) u [flight 1 5] 0
     s.thr? 0 1 = some u ∧ u.part = s.thr.part ∧ s.thr.wait = .fillSent 8#64 ∧ u.site = .home ∧ u.full.getLsbD 5 = false ∧ s.thr? 0 0 = some s.thr) ∧
    (let s := pairOf (.fillSent 8#64) placeThread [flight 1 5] 7
     s.thr? 0 1 = some placeThread ∧ placeThread.full.getLsbD 5 = true ∧ (s.cellAt 0).fills.length < 8 ∧ 8 ≤ ((pairOf (.fillSent 8#64) placeThread [flight 1 5] 8).cellAt 0).fills.length) ∧
    (let s := pairOf (.fillSent 8#64) placeThread [flight 3 5] 0
     s.thr? 0 3 = none ∧ s.thr.wait = .fillSent 8#64) ∧
    (let s := pairOf (.fillRefused 8#64) placeThread [flight 1 5] 0
     s.thr.wait = .fillRefused 8#64 ∧ s.flights.all (fun g => g.landed || !(g.fromCell == 0 && g.fromSlot == 0 && decide (g.reg < 48))) = false) ∧
    (let s := pairOf (.yielding 3) placeThread [] 0
     s.thr.wait = .yielding 3 ∧ s.cycle ≤ 3 + 16 ∧ 3 + 16 < ({ s with cycle := 20 } : State).cycle) ∧
    (let s := powered 0 1 0#64 0
     s.bankPower 0 0 ≠ 0 ∧ bf (s.cellAt 0).cbank 0 2 = 0 ∧ ({ s.setThr { s.thr with wait := .wake 0 } with cycle := 0 } : State).thr.wait = .wake 0) ∧
    (let s := powered 5 0 (W (1 * 2 ^ 10)) 0
     bf (s.cellAt 0).cbank 10 2 = 1 ∧ s.bankPower 0 5 ≠ 1 ∧ s.bankBusy 0 5 = false ∧ (powered 5 2 (W (1 * 2 ^ 10)) 0).bankPower 0 5 ≠ 1) ∧
    (let s := powered 5 0 (W (2 * 2 ^ 10)) 0
     bf (s.cellAt 0).cbank 10 2 = 2 ∧ s.bankPower 0 5 ≠ 2 ∧ s.bankBusy 0 5 = false) ∧
    ((m0.setTileAt 0 0 0 { Tile.init with pending := true }).bankBusy 0 0 = true) ∧
    (let s := powered 0 0 (W (2 ^ 16)) 65536
     (s.cellAt 0).cbank.getLsbD 16 = true ∧ s.bankPower 0 0 = 0 ∧ s.bankPending 0 0 = false ∧ tget (fun _ => 0) (s.cellAt 0).idle 0 + 65536 ≤ s.cycle ∧ (powered 0 0 (W (2 ^ 16)) 65535).cycle < tget (fun _ => 0) (s.cellAt 0).idle 0 + 65536) := by
  and_intros <;> decide +kernel

/-- A task of one lane in slot 0 of cell 0, and its graph, owned by die 0 in partition 0. -/
def task0 (st : TaskState) : Task :=
  { entry := 0x30000000#64, gang := 1, gdir := 0, ntile := 0, nstrm := 0, cls := 2, policy := 0, scratch := 0, fmts := [], aff := 0#64, deps := 0, left := 0, succs := [], pin := 0, bgrp := 0, port := none,
    state := st, recorded := false, lent := 0, arrived := 0, stamp := 0 }
def graph0 (ts : List Task) : Graph :=
  { die := 0, part := 0, num := 0, bank := 0, event := false, taskev := true, arg := 0#64, compl := 0#64, seed := 0#64, tasks := ts, ndone := 0, lostAny := false }
def running (ts : List Task) : State := { m0 with graphs := [graph0 ts] }

theorem witness_DebugEvents :
    ((m0.setReg 11 0 0x30 256#64).fld 11 0 0x30 8 1 = 1 ∧ m0.fld 11 0 0x30 8 1 = 0 ∧ m0.graphOf 0#64 = none ∧ m0.thr? 0 0 = some m0.thr) ∧
    (let s := running [task0 (.dispatched 0 [0] 0)]
     s.lanesOf 0#64 = [(0, 0)] ∧ s.thr.stoppable = true ∧ s.thr? 0 0 = some s.thr ∧ s.fld 11 0 0x30 8 1 = 0) ∧
    (let s := onThr (running [task0 (.dispatched 0 [0] 0)]) fun t => { t with site := .peer 1 }
     s.lanesOf 0#64 = [(0, 0)] ∧ s.thr.site = .peer 1) ∧
    ((m0.setReg 11 0 0x800 1#64).fld 11 0 0x800 0 1 = 1 ∧ m0.fld 11 0 0x800 0 1 ≠ 1 ∧ 1 ≤ (5#3).toNat ∧ (5#3).toNat ≤ 5) ∧
    ((m0.setReg 11 0 0x18 256#64).fld 11 0 0x18 8 1 = 1 ∧ m0.fld 11 0 0x18 8 1 = 0 ∧ m0.running 0 = true ∧ m0.thr.part = 0 ∧ 0 / 16 = m0.bankOf 0 ∧ m0.dieIn 0 (0 / 64) = true ∧ m0.thr.stop = none ∧ m0.thr.site = .home) ∧
    (let s := m0.setPart 0 { m0.partAt 0 with switching := true }
     (s.partAt 0).switching = true ∧ (s.partAt 0).returned = [] ∧ s.thr.replay.all (fun x => !x.action) = true ∧ (m0.partAt 0).switching = false) ∧
    (let s := (m0.setPart 0 { m0.partAt 0 with lazyLeft := true }).setCell 0 { m0.cell with swap := [3] }
     s.dieIn 0 0 = true ∧ (s.partAt 0).lazyLeft = true ∧ (s.partAt 0).switching = false ∧ (s.cellAt 0).swap.length ≤ 1 ∧ s.cells.Pairwise (fun a b => a.1 < b.1) ∧ s.cells.all (fun e => decide (e.1 = 0)) = true) ∧
    (m0.dieIn 0 (64 / 64) = false) ∧
    (m0.fld 11 0 0x818 1 1 = 0 ∧ (let s := m0.setReg 11 0 0x818 3#64
      s.fld 11 0 0x818 1 1 = 1 ∧ s.thr? 0 0 = some s.thr ∧ s.thr.site = .home ∧ s.thr.far = none ∧ s.traced s.thr.gid = true)) ∧
    (let s := m0.setReg 11 0 0xA00 (W (0x20000000 + 4))
     s.heldPkt 0x60 = none ∧ s.partOfDie 0 = some 0 ∧ s.fld 11 0 0xA00 0 5 = 4 ∧
      (let a := s.fld 11 0 0xA00 12 45 * 4096 + 32 * ((s.reg 11 0 0xA08).toNat % 2 ^ 4)
       match (State.charge { s with trace := s.trace.erase (0, ⟨1#64, 2#64, 3#64, 4#64⟩) } 0 0 a 32).engPut 0 a [1#64, 2#64, 3#64, 4#64] with
      | .ok _ => true | .error _ => false) = true) ∧
    (m0.heldPkt 0x60 = none ∧ m0.partOfDie 1 = none) := by and_intros <;> decide +kernel
/-! ## Witnesses: copies, the scheduler -/

/-- A copy record of two 8-byte elements with an event: its own flag, its kind and its next record. -/
def rec0 (own kind nx dst : Nat) : List Word :=
  [W (own * 2 ^ 63 + kind * 2 ^ 60 + 3 * 2 ^ 40), W (256 * nx), 0x20000000#64, W dst, 0#64, 0#64, 2#64] ++ List.replicate 25 0#64

/-- Channel 23 running: its state beside its registers. -/
def chanOf (f : CopyCh → CopyCh) (s : State) : State := s.setChan 0 23 (f (s.chan 0 23))

/-- The words of a record at 0x20010000. -/
def recMem (ws : List Word) (s : State) : State := words s ((List.range 32).map fun i => (0x20010000 + 8 * i, (ws.getD i 0#64).toNat))

/-- The running channel between records, at a record in memory. -/
def between (ws : List Word) : State := chanOf (fun x => { x with recAddr := 0x20010000#64 }) (recMem ws (copying 1 1 0 23 0))

/-- The running channel in a record that has sent `k` elements. -/
def within (ws : List Word) (k : Nat) : State :=
  chanOf (fun x => { x with recAddr := 0x20010000#64, words := ws, begun := true, sentEls := k }) (recMem ws (words (copying 1 1 0 23 0) [(0x20000000, 1), (0x20000008, 2), (0x20000100, 0), (0x20000108, 0)]))

/-- Whether the record in memory is read, with OWN and its fields. -/
def recRead (s : State) : Option (Bool × Bool) :=
  match (s.charge 0 0 (s.chan 0 23).recAddr.toNat 256).engWords 0 (s.chan 0 23).recAddr.toNat 32 with
  | (_, .ok ws) => some ((ws.getD 0 0#64).getLsbD 63, ({ s.chan 0 23 with words := ws } : CopyCh).fieldsOk)
  | _ => none

/-- Whether the hypotheses of a packet of the channel hold: its destination here (true) or on another device. -/
def mayCarry (s : State) (here : Bool) : Bool :=
  let x := s.chan 0 23
  let va := recDst x.words x.sentEls
  let k := runLen x.words x.sentEls va 2048 0
  let n := k * cpDstSize x.ctrl
  s.chState 0 23 == 1 && x.begun && decide (x.sentEls < recCount x.words) && !x.aborting && x.failing.isNone && decide (k = 2) && s.engTurn 0 5 3 &&
  (match (s.serve 0 5 3).engLoc 0 va (min n (64 - va % 64)) rWR with
  | .ok l => (l.isHere == here) &&
    (match (s.serve 0 5 3).readRun 0 x.words x.sentEls k with
    | .ok (s0, v, _, _) =>
      let s1 := ((List.range k).foldl (fun y j => y.charge 0 0 (recSrc x.words (x.sentEls + j)) (cpSrcSize x.ctrl)) s0).chargeRange 0 0 va n
      (match l with
      | .peer dev _ _ => (match s1.peerLoc 0 va n rWR with | .ok _ => !s1.noRoom 0 dev false 37 | _ => false)
      | _ => (match s1.landRun 0 x.ctrl va v k with | .ok _ => true | _ => false))
    | _ => false)
  | _ => false)

/-- Channel 20 of the same engine in the same state as channel 23. -/
def beside (s : State) : State := ((s.setReg 9 0 (0x40 * 20) 1#64).setReg 9 0 (0x40 * 20 + 0x18) 1#64).setChan 0 20 (s.chan 0 23)

/-- The peer window 0 of partition 0 on device 1, readable and writable, of 64 KiB. -/
def exporting (s : State) : State := words (s.setReg 5 0 0x10 (W (0x20880000 + 1))) [(0x20880000, 2 ^ 63 + 2 ^ 62 + 2 ^ 61 + 2 ^ 60 + 16 * 2 ^ 48 + 1 * 2 ^ 32)]

/-- Die 0 with a full event queue. -/
def chanFull (s : State) : State := s.setDie 0 { s.dieAt 0 with events := List.replicate 4096 ⟨2#8, 0#8, 0#32, 0#64⟩ }

theorem witness_CopyEvents :
    (writeBad 9 (0x40 * 23 + 8) 2#64 = true ∧ writeBad 9 (0x40 * 23 + 8) 0x101#64 = false ∧ (0x101#64).getLsbD 0 = true ∧ writeBad 9 (0x40 * 23 + 8) 0x100#64 = false) ∧
    ((copying 1 1 1 23 0).chFull 0 23 = true ∧ (copying 1 1 0 23 0).chFull 0 23 = false ∧ (copying 1 1 0 23 0).chState 0 23 ≠ 0 ∧ (copying 1 0 0 23 0).chEn 0 23 = true ∧ (copying 1 0 0 23 0).chState 0 23 = 0) ∧
    ((between (rec0 0 3 0 0x20000100)).chState 0 23 = 1 ∧ ((between (rec0 0 3 0 0x20000100)).chan 0 23).begun = false ∧ (recRead (between (rec0 0 3 0 0x20000100))).map (·.1) = some false) ∧
    (recRead (between (rec0 1 3 0 0x20000100)) = some (true, true) ∧ ((between (rec0 1 3 0 0x20000100)).chan 0 23).aborting = false ∧
      recRead (between ((rec0 1 3 0 0x20000100).set 24 1#64)) = some (true, false)) ∧
    (let s := chanOf (fun x => { x with recAddr := 0x100000000#64 }) (copying 1 1 0 23 0)
     (match (s.charge 0 0 (s.chan 0 23).recAddr.toNat 256).engWords 0 (s.chan 0 23).recAddr.toNat 32 with | (_, .error (c, _)) => c == 2 | _ => false) = true ∧ (s.chan 0 23).clip = false ∧ s.copyRoom 0 23 = true ∧ (chanFull s).copyRoom 0 23 = false) ∧
    ((within (rec0 1 3 0 0x20000100) 0).chState 0 23 = 1 ∧ ((within (rec0 1 3 0 0x20000100) 0).chan 0 23).begun = true ∧ (copying 1 1 0 23 0).fld 9 0 (0x40 * 23 + 0x18) 2 1 = 0 ∧
      ((copying 1 1 0 23 0).setReg 9 0 (0x40 * 23 + 0x18) 5#64).fld 9 0 (0x40 * 23 + 0x18) 2 1 = 1) ∧
    mayCarry (within (rec0 1 3 0 0x20000100) 0) true = true ∧ (beside (within (rec0 1 3 0 0x20000100) 0)).engTurn 0 5 3 = false ∧ mayCarry (exporting (within (rec0 1 3 0 0x100000000000000) 0)) false = true ∧
    ([rec0 1 3 0 0x20000100, rec0 1 3 7 0x20000100, (rec0 1 2 0 0x20000100).set 4 0x20000200#64].map fun w =>
      let y := ((within w 2).copyAcked 0 23).sourceRead 0 23
      let z := y.chan 0 23
      let s1 := if cpKind z.ctrl = 2 then y.engBar 0 0 (z.w 4).toNat z.bytes else y
      (y.chState 0 23 == 1 && z.begun && decide (recCount z.words ≤ z.sentEls) && z.flying.isEmpty && z.gid.isNone && z.failing.isNone && y.copyRoom 0 23 && !s1.chFull 0 23, cpKind z.ctrl, bf (z.w 1) 8 49)) =
      [(true, 3, 0), (true, 3, 7), (true, 2, 0)] ∧
    (let s := chanOf (fun x => { x with failing := some 3 }) (between (rec0 1 3 0 0x20000100))
     let y := (s.copyAcked 0 23).sourceRead 0 23
     s.chState 0 23 = 1 ∧ (s.chan 0 23).begun = false ∧ (s.chan 0 23).failing = some 3 ∧ s.copyRoom 0 23 = true ∧ (y.chan 0 23).failing = some 3 ∧ y.chState 0 23 = 1 ∧ y.copyRoom 0 23 = true) ∧
    (let y := ((chanFull (within (rec0 1 3 0 0x20000100) 2)).copyAcked 0 23).sourceRead 0 23
     cpKind (y.chan 0 23).ctrl = 3 ∧ (y.chan 0 23).failing = none ∧ y.copyRoom 0 23 = false) ∧
    (writeBad 9 (0x40 * 23) 1#64 = false ∧ writeBad 9 (0x40 * 23) (W (2 ^ 9)) = false ∧ (copying 0 2 0 23 0).chEn 0 23 = false ∧ (copying 0 2 0 23 0).chFull 0 23 = false ∧ (copying 1 2 0 23 0).chEn 0 23 = true) := by
  and_intros <;> decide +kernel

/-- A queued entry of task 0 of graph 0 (or 1), and machines with a queue. -/
def entry0 : QEntry := { die := 0, part := 0, num := 0, task := 0, stamp := 0 }
def queuing (c : Nat) (t : Task) (s : State) : State := ({ s with graphs := s.graphs ++ [graph0 [t]] }).setReady 0 c [entry0]

/-- Task 0 as ready, and one that needs a tile register. -/
def taskT : Task := { task0 (.ready 0 2) with ntile := 1 }

/-- Every cell of die 0 full with a thread of class 0 of graph 1, which owns all its tiles. -/
def fullDie : State :=
  let th : Thread := { placeThread with cls := 0, gid := W (1 * 2 ^ 32), graph := 1 }
  { m0 with cells := (List.range 64).map fun n => (n, { Cell.init with slots := [(0, some th)] }), graphs := [{ graph0 [task0 (.dispatched 0 [0] 0)] with num := 1 }] }

/-- The machine of graph 0 with a task whose thread has ended or not, event records, and a scheduler command register. -/
def ending (e : Bool) (st : TaskState) : State := onThr (running [task0 st]) fun t => { t with ended := e }
def recording (l : List EvRec) (ts : List Task) : State := let s := running ts; s.setDie 0 { s.dieAt 0 with events := l }

theorem witness_SchedulerEvents :
    (let s := queuing 3 { task0 (.ready 0 3) with cls := 3 } m0
     (match s.servable 0 3 with
      | some (_, e, g, t, cs, _) => decide (e = entry0) && decide (g.tasks[e.task]? = some t) && decide (s.graph? g.die g.part g.num = some g) && decide (cs.Nodup) && decide (cs ≠ [])
      | none => false) = true ∧ s.bypassOf 0 2 < 16) ∧
    (let s := queuing 1 { task0 (.ready 0 1) with cls := 1 } m0
     let t := s.setBypass 0 1 16
     (t.servable 0 1).isSome = true ∧ 16 ≤ t.bypassOf 0 1 ∧ (t.servable 0 2).isSome = false) ∧
    (∀ b, b < 4 → (m0.servable 0 b).isSome = false) ∧
    (let s := (queuing 2 taskT fullDie).setReg 5 0 0 (W (3 * 2 ^ 8 + 1))
     s.ready 0 2 = [entry0] ∧ (s.entryTask entry0).map (·.2) = some taskT ∧ taskT.cls ≠ 0 ∧ taskT.policy = 0 ∧ s.placeable 0 entry0 = none ∧ s.diesOf 0 = [0, 1] ∧ (s.placeable 1 entry0).isSome = true) ∧
    (let s := queuing 2 taskT m0
     s.ready 0 2 = [entry0] ∧ s.crowdedOut 0 (graph0 [taskT]) taskT = false ∧ (s.placeable 0 entry0).isSome = true) ∧
    (let s := queuing 2 taskT fullDie
     s.placeable 0 entry0 = none ∧ s.crowdedOut 0 (graph0 [taskT]) taskT = true ∧ s.holdsNeeded 0 taskT [0] 0 0 0 (s.thrAt 0 0) = true ∧ (s.thrAt 0 0).ended = false ∧ s.placement 0 0 (fun x => x.cls != 0) taskT taskT.port = some ([0], 0) ∧ (s.threadsOf 0 0).map (·.1) = [0] ∧
      (match s.thr? 0 0 with | some th => decide (th.cls = 0) && decide (bf th.gid 0 32 = th.task) && (s.graphOf th.gid).isSome | none => false) = true) ∧
    (let s := ending true (.dispatched 0 [0] 0)
     s.graphOf 0#64 = some (graph0 [task0 (.dispatched 0 [0] 0)]) ∧ (task0 (.dispatched 0 [0] 0)).bgrp = 0 ∧ s.thr? 0 0 = some s.thr ∧ s.thr.gid = 0#64 ∧ s.thr.ended = true ∧ s.thr.posted = [] ∧
      (s.cells.map (·.1) = [0] ∧ (s.cellAt 0).slots.map (·.1) = [0]) ∧ (s.dieAt 0).events.length < 4096 ∧ (ending false (.dispatched 0 [0] 0)).thr.ended = false) ∧
    (let r : EvRec := { kind := 0x10#8, code := 0#8, data := 0#32, w1 := 0#64 }
     let s := recording [r] []
     (s.dieAt 0).events = [r] ∧ bf r.w1 32 1 = 0 ∧ s.fld 8 0 0x18 5 1 = 0 ∧ 0 ≠ 1) ∧
    (let r : EvRec := { kind := 1#8, code := 0#8, data := 0#32, w1 := 0#64 }
     let ts := [{ task0 (.dispatched 0 [0] 0) with succs := [1] }, { task0 .waiting with left := 1 }]
     let s : State := { recording [r] [] with graphs := [{ graph0 ts with taskev := false }] }
     s.graphOf r.w1 = some { graph0 ts with taskev := false } ∧ (ts[1]?).map (·.left) = some 1 ∧ (ts[1]?).map (·.recorded) = some false ∧ (s.dieAt 0).events = [r]) ∧
    (let r : EvRec := { kind := 2#8, code := 0#8, data := 0#32, w1 := 0#64 }
     let s := recording [r] [task0 .cancelled]
     s.graphOf r.w1 = some (graph0 [task0 .cancelled]) ∧ bf r.w1 0 32 = 0 ∧ (task0 .cancelled).succs = []) ∧
    (m0.graphOf (m0.reg 8 0 0) = none ∧ (running [task0 .waiting]).graphOf 0#64 = some (graph0 [task0 .waiting]) ∧ (running [task0 (.ready 0 2)]).graphOf 0#64 = some (graph0 [task0 (.ready 0 2)])) ∧
    (let s := ending true (.dispatched 0 [0] 0)
     s.allDone (graph0 [task0 (.dispatched 0 [0] 0)]) (task0 (.dispatched 0 [0] 0)) = true) ∧
    (let s := chanFull (running [task0 .waiting])
     (s.dieAt 0).events.length = 4096 ∧ s.graphOf (s.reg 8 0 0) = some (graph0 [task0 .waiting]) ∧ (graph0 [task0 .waiting]).die = 0 ∧ (task0 .waiting).bgrp = 0 ∧
      m0.fld 8 0 0x10 8 1 = 0) ∧
    (let s := ending false (.dispatched 0 [0] 0)
     s.thr? 0 (16 * 0 + 0) = some s.thr ∧ s.thr.ended = false) ∧
    ((running [task0 .done]).graphOf 0#64 = some (graph0 [task0 .done]) ∧ TaskState.done.ended = true) := by and_intros <;> decide +kernel
/-! ## Witnesses: rings, collectives, replicas -/

/-- Ring 1 of partition 0 with entries of a kind, PROD `p` and CONS 0, its record, and a group of contributors 0 and 1 at group 0. -/
def ringing (kind p : Nat) (slot : List Nat) (x : Option Ring) : State :=
  let s := (ringState kind 1#64).setReg 5 0 0 (W (2 ^ 8 + 16 + 1))
  let s1 := words (s.setReg 4 0 8 (W 0x20500000)) ([(0x20200000, p), (0x20500000, 2 ^ 31), (0x20500008, 0), (0x20500010, 0x20600000), (0x20500018, 0), (0x20500020, 0), (0x20500028, 0), (0x20500030, 0), (0x20500038, 0),
    (0x20600000, 0)] ++ (List.range 16).map fun i => (0x20200100 + 8 * i, slot.getD i 0))
  match x with
  | some x => s1.setRing 0 x
  | none => s1

/-- The ring's record. -/
def ring1 (kind : Nat) (on : Bool) : Ring :=
  { part := 0, bank := 0, num := 1, mapped := on, since := 0, invalid := false, d0 := W (2 ^ 63 + kind * 2 ^ 61 + 4 * 2 ^ 56), d1 := 0x20200000#64, rejects := 0#24, doneCnt := 0#23, descAt := none }

/-- All eight dies in the partition: die 1 serves ring 1, which has work, and ring 9, which is mapped without work. -/
def twoRings : State :=
  let s := ((ringing 2 1 [] none).setReg 5 0 0 0xFF11#64).setRing 1 { ring1 2 true with num := 9, d1 := 0x20204000#64 }
  let t := s.fld 5 0 0x20 11 46 * 2048 + 32 * 9
  words s [(t, 2 ^ 63 + 2 * 2 ^ 61 + 4 * 2 ^ 56), (t + 8, 0x20204000), (t + 16, 0), (t + 24, 0), (0x20204000, 0), (0x20204040, 0)]

/-- Collective blocks: a barrier (OP 6) of group 0, and a gathering (OP 3) of one element of 4 bytes. -/
def barrierBlock : List Nat := [6, 0, 0, 0, 0, 0, 1]
def gatherBlock (send recv : Nat) : List Nat := [3, 0, 1, send, recv, 0, 1]
def callOf (ws : List Nat) (f : Call → Call) : Call := f { Call.init 0 0 1 with block := (List.range 16).map (fun i => W (ws.getD i 0)) }
def calling (c : Call) : State := (ringing 1 0 [] none).setCall 0 c

/-- Group 0 of contributors 0 and `m`. -/
def groupWith (m : Nat) (s : State) : State := words s [(0x20500000, 2 ^ 31 + 1), (0x20600000, m * 2 ^ 16)]

/-- What the poll of a collective ring finds in its slot: whether the group is there, whether the fields are good, and whether SEND reads. -/
def pollFinds (b : List Nat) : Option (Bool × Bool × Bool) :=
  let s := ringing 1 1 b (some (ring1 1 true))
  match s.ringCheck 0 (ring1 1 true) with
  | (s1, some (y, prod, cons)) =>
    let va := slotVa y.d1.toNat (bf y.d0 56 5) cons
    if prod = cons ∨ (s1.call? 0 0 0 1).isSome ∨ !s1.slotOk 0 va 128 then none
    else match (s1.charge 0 0 va 128).engWords 0 va 16 with
    | (s2, .ok w) => if w.isEmpty then none else some (match s2.readGroup 0 0 (cbGroup w) with
      | (_, none) => (false, false, false)
      | (s3, some gd) =>
        let z : Call := { Call.init 0 0 1 with block := w, cons := cons, slotVa := va }
        (gd.mem.contains (s3.contrib 0) && s3.dieReleased 0 && !s3.matching 0 w && (s3.dieAt 0).arrived.isEmpty, cbOk w gd.mem.length,
          (SendRead (s3.setCall 0 { z with started := true }) 0 z gd.mem.length (gd.mem.idxOf (s3.contrib 0))).2.isSome))
    | _ => none
  | _ => none

/-- What the completion of a call finds: whether a peer is waited for, whether one differs, and, where every step has arrived, whether RECV is written. -/
def completes (s : State) (c : Call) : Option (Bool × Bool × Option Bool) :=
  match s.callNow 0 0 1, s.readGroup 0 0 (cbGroup c.block), c.data with
  | some y, (s1, some gd), some l =>
    if y = c ∧ c.started ∧ c.ending = none then
      some (s1.waitsPeer 0 c gd, s1.differs 0 c gd.mem, (callRun c.block gd.mem.length (gd.mem.idxOf (s.contrib 0)) l (s1.stepsAt 0 c gd.mem)).out.map fun out =>
        ((s1.chargeRange 0 0 (cbRecv c.block) (cbItem c.block * out.length)).writeItems 0 (cbRecv c.block) (cbItem c.block) out.length (out.map (·.v))).2.2)
    else none
  | _, _, _ => none

/-- A packet of a step that die 1 has sent to die 0, and one that die 0 has still to send. -/
def stepIn0 (op : Nat) : StepIn := { src := 1, seq := 0#16, group := 0, cseq := 1, op := op, stage := 0, first := 0, items := [⟨5, false, false⟩], last := true }
def stepOut0 (dest : Nat) : StepOut := { dest := dest, group := 0, cseq := 0, op := 3, stage := 0, first := 0, items := [⟨5, false, false⟩], last := true, ctrl := 0x40#64 }
def stepping (dest : Nat) (s : State) : State := s.setDie 0 { s.dieAt 0 with steps := [stepOut0 dest] }

theorem witness_Collectives :
    pollFinds barrierBlock = some (true, true, true) ∧ pollFinds (gatherBlock 0x20000000 0x20000100) = some (true, true, true) ∧
    pollFinds (gatherBlock (2 ^ 40) 0x20000100) = some (true, true, false) ∧ pollFinds [6 + 255 * 2 ^ 32] = some (false, false, false) ∧
    (pollFinds [6 + 2 ^ 8 * 255]).map (·.2.1) = some false ∧
    (let c := callOf barrierBlock fun c => { c with started := true }
     let s := groupWith 8 (calling c)
     (s.call? 0 0 0 1).map (·.started) = some true ∧ c.block ≠ [] ∧ c.data = none ∧ (s.readGroup 0 0 0).2.map (·.mem) = some [0, 8] ∧ cbSendLen c.block 2 = 0 ∧ s.callNow 0 0 1 = some c ∧
      ({ cbData c.block with cseq := 9 } : CallData) ≠ cbData c.block) ∧
    (([gatherBlock 0x20000000 0x20000100, gatherBlock (2 ^ 40) 0x20000100].map fun b =>
      let c := callOf b fun c => { c with started := true }
      let s := words (calling c) [(0x20000000, 0)]
      (decide (s.callNow 0 0 1 = some c), (SendRead (s.readGroup 0 0 0).1 0 c 1 0).2.isSome)) = [(true, true), (true, false)]) ∧
    (let c := callOf (gatherBlock 0x20000000 0x20000100) fun c => { c with started := true, data := some [(7, false)] }
     let bad := callOf (gatherBlock 0x20000000 (2 ^ 40)) fun c => { c with started := true, data := some [(7, false)] }
     let two := groupWith 1 (calling c)
     let got := fun op => two.setDie 0 { two.dieAt 0 with arrived := [stepIn0 op] }
     let e := { c with ending := some (3, 0, false) }
     completes (calling c) c = some (false, false, some true) ∧ completes (calling bad) bad = some (false, false, some false) ∧
      completes two c = some (true, false, none) ∧ completes (got 1) c = some (true, true, none) ∧ (completes (got 3) c).map (·.2) = some (false, some true) ∧
      ((groupWith 8 (calling c)).readGroup 0 0 0).2.map (fun gd => (calling c).waitsPeer 0 c gd) = some true ∧ (calling e).callNow 0 0 1 = some e) ∧
    ((m0.dieAt 0).steps = [] ∧ (stepping 8 m0).engTurn 0 5 4 = true ∧ (stepping 8 m0).devId = 0 ∧ (m0.dieAt 1).calls = [] ∧
      (stepping 1 (within (rec0 1 3 0 0x20000100) 0)).engTurn 0 5 4 = false) ∧
    cbAlgo ((List.range 16).map fun i => W (barrierBlock.getD i 0)) = 3 ∧
    (let c := callOf [6 + 255 * 2 ^ 32, 0, 0, 0, 0, 0, 1] fun c => { c with started := true }
     (calling c).callNow 0 0 1 = some c ∧ ((calling c).readGroup 0 0 (cbGroup c.block)).2 = none) := by and_intros <;> decide +kernel

theorem witness_RingsAndCollectives :
    (let s := ringing 2 1 [] none
     (0, s.ringBank 0, 1) ∈ s.ringsOn 0 ∧ (match s.ringLook 0 0 0 1 with | (s1, some (x, prod, cons)) => decide (prod ≠ cons) && !x.mapped && decide (s1.mappedCount 0 < 128) | _ => false) = true) ∧
    (let s := ringing 2 0 [] none
     (match s.ringLook 0 0 0 1 with | (_, some (_, prod, cons)) => decide (prod = cons) | _ => false) = true ∧ (0, 0, 1) ∉ s.ringsOn 1 ∧ s.ringsOn 1 = []) ∧
    ((∀ y ∈ (twoRings.dieAt 1).rings, (y.part, y.bank, y.num) ∈ twoRings.ringsOn 1) ∧
      (let z := (lookAll 1 (twoRings.ringsOn 1) twoRings).2
       (z.1.map (·.num), z.2.map (·.num))) = ([1], [9])) ∧
    (let s := ringing 2 1 [] (some (ring1 2 true))
     s.ring? 0 0 0 1 = some (ring1 2 true) ∧ (ring1 2 true).mapped = true ∧ s.running 0 = true ∧ bf (ring1 2 true).d0 61 2 = 2 ∧
      (match s.ringCheck 0 (ring1 2 true) with
      | (s1, some (y, prod, cons)) => decide (prod ≠ cons) && (match (s1.charge 0 0 (slotVa y.d1.toNat (bf y.d0 56 5) cons) 128).engWords 0 (slotVa y.d1.toNat (bf y.d0 56 5) cons) 16 with | (_, .ok _) => true | _ => false)
      | _ => false) = true) ∧
    ([2, 1].all fun kind => match (ringing kind 0 [] (some (ring1 kind true))).ringCheck 0 (ring1 kind true) with
      | (s1, some (y, prod, cons)) => decide (prod = cons) && (s1.call? 0 y.part y.bank y.num).isNone
      | _ => false) = true ∧
    (let s := chanFull (ringing 2 1 [] (some (ring1 2 true)))
     (match s.ringCheck 0 (ring1 2 true) with
      | (s1, some (y, prod, cons)) => decide (prod ≠ cons) && (match (s1.charge 0 0 (slotVa y.d1.toNat (bf y.d0 56 5) cons) 128).engWords 0 (slotVa y.d1.toNat (bf y.d0 56 5) cons) 16 with
        | (s2, .ok h) => decide (4096 < ((s2.admitGraph 0 y h).dieAt 0).events.length)
        | _ => false)
      | _ => false) = true) ∧
    (let h := [1#64, 0x20900000#64, 0#64, 0x20000000#64, 0#64]
     let s := words m0 [(0x20900000, 0x30000000), (0x20900008, 1), (0x20900010, 0), (0x20900018, 0), (0x20900020, 0), (0x20900028, 0), (0x20900030, 0), (0x20900038, 0)]
     (match s.checkGraph 0 0 h with | (_, .ok (ts, n)) => decide (ts.length = 1) && decide (n = 0) | _ => false) = true) ∧
    (m0.heldPkt 0x48 = none ∧ m0.heldPkt 0x49 = none ∧ m0.heldPkt 0x4A = none ∧ m0.call? 0 0 0 1 = none ∧ m0.callNow 0 0 1 = none) ∧
    (let c := callOf barrierBlock id
     (calling c).callNow 0 0 1 = some c ∧ c.started = false) := by and_intros <;> decide +kernel

/-- Object 1 of two elements, a maximum register of group 0, on die 0. -/
def objM : State := objState 2 0 0 2 0#64 0#64 0#64

/-- A delta of its one tile from contributor 1. -/
def delta1 (seq parts got : Nat) : DeltaTile :=
  { obj := 1, typ := 2, fmt := 0, clip := false, tile := 0, contrib := 1, dlen := 8, seq := seq, parts := parts, count := 0, hlc := 0#64, zeroOk := true, data := List.replicate got 0#8 }

/-- Its replica changed. -/
def replOf (f : Replica → Replica) : State := objM.setRepl 0 (f (Replica.init 0 1 0x20700000 0 [0, 1]))

/-- What a delta finds there: whether it fits, whether it is whole, whether its group may be applied, and whether it is seen, and what LOG holds of it. -/
def meets (s : State) (u : DeltaTile) : Option (Bool × Bool × Bool × Bool × Bool) :=
  match s.readObj 0 0 u.obj with
  | (s1, some (o, gd)) =>
    let r := (s1.useGroup 0 0 o.group gd).repl 0 0 u.obj o
    let G : DeltaGroup := { contrib := u.contrib, seq := u.seq, tiles := [u] }
    some (o.fits gd u, u.parts == 1 && u.data.length == u.dlen && o.recsOk G && r.parts.all (fun y => !y.same { src := 0, parts := u.parts, group := G, last := (0#16, u.tile) }), o.ready r G, decide (u.seq ≤ r.seenOf u.contrib),
      r.held.isEmpty && decide (r.inUse + groupCost [u] + 8320 ≤ 4096 * o.plog))
  | _ => none

/-- The group of `delta1` of which half a tile has arrived. -/
def half : DeltaGroup := { contrib := 1, seq := 1, tiles := [delta1 1 1 4] }
def halfSet : PartSet := { src := 0, parts := 1, group := half, last := (0#16, 0) }

/-- A donor's state from contributor 1 whose F reaches 5. -/
def donor1 : DonorState := { obj := 1, sender := 1, base := baseNone, seen := [(1, 5)], front := [(1, 5)], log := [] }

/-- The view of group 0 changed. -/
def viewing (f : GView → GView) : State :=
  match objM.readGroup 0 0 0 with
  | (s1, some gd) => s1.setView 0 (f (s1.view 0 0 0 gd))
  | (s1, none) => s1

/-- A group in LOG of 60,000 bytes, so that nothing more is held. -/
def heavy : DeltaGroup := { contrib := 0, seq := 1, tiles := List.replicate 16 { delta1 1 1 0 with contrib := 0, dlen := 4000 } }

theorem witness_ReplicaEvents :
    (objM.heldPkt 0x40 = none ∧ objM.heldPkt 0x41 = none ∧ objM.heldPkt 0x42 = none ∧ objM.heldPkt 0x43 = none ∧ (objM.readObj 0 0 0).2 = none) ∧
    (meets objM { delta1 1 1 8 with typ := 1 }).map (·.1) = some false ∧ meets objM (delta1 1 1 8) = some (true, true, true, false, true) ∧
    meets (replOf fun r => { r with seen := [(1, 3)] }) (delta1 3 1 8) = some (true, true, false, true, true) ∧ meets objM (delta1 2 1 8) = some (true, true, false, false, true) ∧
    meets (replOf fun r => { r with log := [heavy] }) (delta1 2 1 8) = some (true, true, false, false, false) ∧ meets objM (delta1 1 2 8) = some (true, false, true, false, true) ∧
    (meets objM (delta1 1 1 4)).map (·.2.1) = some false ∧
    (let s := replOf fun r => { r with parts := [halfSet] }
     (match s.readObj 0 0 1 with
     | (s1, some (o, _)) => decide ((s1.repl 0 0 1 o).parts = [halfSet]) && (s1.repl 0 0 1 o).held.isEmpty && o.tileOk (delta1 1 1 8) && o.ready (s1.repl 0 0 1 o) { half with tiles := [delta1 1 1 8] }
     | _ => false) = true ∧ s.heldBad 0x42 = false ∧ s.heldSrc 0x42 = (0, 0#16) ∧ (delta1 1 1 4).data.length + 4 = (delta1 1 1 4).dlen ∧ (delta1 1 1 4).data.length + 3 < (delta1 1 1 4).dlen ∧ (delta1 1 1 4).dlen < (delta1 1 1 4).data.length + 5) ∧
    ((Replica.init 0 1 0x20700000 0 [0, 1]).parts = [] ∧ (Replica.init 0 1 0x20700000 0 [0, 1]).shadow = none) ∧
    (let s := replOf fun r => { r with shadow := some donor1 }
     (match s.readObj 0 0 1 with
     | (s1, some (o, _)) => decide ((s1.repl 0 0 1 o).shadow = some donor1) && (s1.repl 0 0 1 o).behind donor1 && (s1.repl 0 0 1 o).held.isEmpty
     | _ => false) = true ∧ donor1.sender < 2 ^ 14) ∧
    (match objM.readObj 0 0 1 with
     | (s1, some (o, gd)) => (s1.repl 0 0 1 o).shadow.isNone && gd.mem.contains donor1.sender && (s1.repl 0 0 1 o).behind donor1 && !((s1.repl 0 0 1 o).behind { donor1 with front := [] })
     | _ => false) = true ∧
    ((match objM.readGroup 0 0 0 with
     | (s1, some gd) => gd.mem.contains (s1.contrib 0) && (s1.dieAt 0).views.isEmpty && decide (((s1.useGroup 0 0 0 gd).setView 0 ((s1.useGroup 0 0 0 gd).view 0 0 0 gd)).declared 0 0 0 |>.2.map (·.1) = [1]) && !((s1.useGroup 0 0 0 gd).view 0 0 0 gd).lost && gd.mem.contains 1 && (s1.contrib 0 != 1) &&
        ((s1.useGroup 0 0 0 gd).partner 0 gd { (s1.useGroup 0 0 0 gd).view 0 0 0 gd with rounds := 1 }).isSome
     | _ => false) = true) ∧
    (let s := viewing fun v => { v with lost := true, first := some 1 }
     (match s.readGroup 0 0 0 with
     | (s1, some gd) => let v := (s1.useGroup 0 0 0 gd).view 0 0 0 gd
       v.lost && decide (v.first = some 1) && decide (((s1.useGroup 0 0 0 gd).setView 0 { v with lost := false, first := none }).declared 0 0 0 |>.2.map (·.1) = [1])
     | _ => false) = true) := by and_intros <;> decide +kernel

/-- The further clauses of ReplicaEvents: an object whose descriptor no longer stands while parts of it are held, and a donor's state that holds nothing new. -/
theorem witness_ReplicaLost :
    (let s := words (replOf fun r => { r with parts := [halfSet] }) [(0x20400040, 0)]
     (match s.readObj 0 0 1 with
     | (s1, none) => ((s1.heldRepl 0 0 1).bind (·.partOf (0, 0#16) 1 1 0)).isSome && ((s1.heldRepl 0 0 1).bind (·.partOf (0, 0#16) 1 2 0)).isNone
     | _ => false) = true) ∧
    (match (replOf fun r => { r with shadow := some { donor1 with front := [] } }).readObj 0 0 1 with
     | (s1, some (o, gd)) => (s1.repl 0 0 1 o).shadow.any (fun x => !(s1.repl 0 0 1 o).behind x) && !gd.mem.contains 2
     | _ => false) = true ∧
    ([0x41, 0x42].all fun k =>
      let s : State := { objM.setRx 1 false { nonce := some 3#64, exp := 4#16, map := 0#64 } with outbox := [{ objM.blank k 1 0 false with seq := 4#16, sdev := 1#11, poison := true }] }
      s.heldBad k && (match s.heldPkt k with | some p => (s.accept p).2 | none => false)) = true := by decide +kernel
/-! ## Witnesses: translation and page moves -/

/-- A key that a table does not list. -/
theorem tget_absent {α : Type} (d : Nat → α) (l : List (Nat × α)) (k : Nat) (h : l.all (fun e => decide (e.1 < k)) = true) : tget d l k = d k := by
  induction l with
  | nil => rfl
  | cons e r ih =>
    simp only [List.all_cons, Bool.and_eq_true, decide_eq_true_eq] at h
    simp only [tget, if_neg (Nat.ne_of_lt h.1), ih h.2]

/-- No frame is free where the pool lies above every line that memory lists. -/
theorem frames_none (s : State) (q d z b : Nat) (hl : s.lines.all (fun e => decide (e.1 < b)) = true) (hp : b ≤ s.fld 10 0 (0x40 * q + 8) 21 19 * 2 ^ 21 / 64) :
    s.placeOn q d z = none ∧ s.frameOn q d z = none := by
  have hf : ∀ k i, s.frameFree q k i = false := by
    intro k i
    have hb : b ≤ s.poolByte q k i / 64 := by
      exact Nat.le_trans hp (Nat.div_le_div_right (Nat.le_trans (Nat.le_add_right _ _) (Nat.le_add_right _ _)))
    have hs : s.lineOf (s.poolByte q k i) = LineMeta.init := by
      refine tget_absent _ _ _ ?_
      rw [List.all_eq_true] at hl ⊢
      intro e he
      have := hl e he
      simp only [decide_eq_true_eq] at this ⊢
      omega
    simp [State.frameFree, State.seenUnder, hs, LineMeta.init]
  have hn : 0 < pageBytes z / 65536 := by
    unfold pageBytes; split <;> decide
  have hd : ∀ k, s.findFrame q k z = none := by
    intro k
    simp only [State.findFrame, Option.map_eq_none_iff, List.find?_eq_none, List.mem_range, State.runFree]
    intro j _
    simp only [List.all_eq_true, List.mem_range, hf]
    intro h
    exact Bool.noConfusion (h 0 hn)
  simp [State.frameOn, State.placeOn, hd]

/-- Some frame is free where the first frames of each stack of the die are. -/
theorem frames_some (s : State) (q d z : Nat) (h0 : s.runFree q (2 * d) 0 (pageBytes z / 65536) = true) (h1 : s.runFree q (2 * d + 1) 0 (pageBytes z / 65536) = true) : (∃ h, s.placeOn q d z = some h) ∧ ∃ h, s.frameOn q d z = some h := by
  have hk : ∀ k, s.runFree q k 0 (pageBytes z / 65536) = true → ∃ h, s.findFrame q k z = some h := by
    intro k hk
    have hp : (0 : Nat) ∈ List.range (2 ^ 20 / (pageBytes z / 65536)) := by
      rw [List.mem_range]; unfold pageBytes; split <;> decide
    have := (List.find?_isSome (p := fun j => s.runFree q k (pageBytes z / 65536 * j) (pageBytes z / 65536))).mpr ⟨0, hp, hk⟩
    obtain ⟨j, hj⟩ := Option.isSome_iff_exists.mp this
    exact ⟨_, by simp only [State.findFrame]; rw [hj]; rfl⟩
  have hs : ∃ h, s.placeOn q d z = some h := by
    unfold State.placeOn State.freerStack
    split
    · exact hk _ h1
    · exact hk _ h0
  obtain ⟨h, hh⟩ := hs
  exact ⟨⟨h, hh⟩, h, by simp [State.frameOn, hh]⟩

/-- A command's registers: the page's VA and size code, and XARG; the tables of `walkState` with a leaf `e`, and the frame pool at 0x40000000. -/
def xstate (va z arg e : Nat) : State :=
  (((words m0 [(0x100008, 2 ^ 63 + 0x400000), (0x400008, 2 ^ 63 + 0x500000), (0x500010, 2 ^ 63 + 0x600000), (0x600008, e)]).setReg 10 0 0x18 (W (va + z))).setReg 10 0 0x20 (W arg)).setReg 10 0 8 0x40000000#64

/-- The page of that leaf, and leaves: of HBM, pinned, of host memory. -/
def xva : Nat := 2 ^ 39 + 2 ^ 30 + 2 * 2 ^ 21 + 2 ^ 16
def leafH : Nat := 2 ^ 63 + 2 ^ 62 + 2 ^ 61 + 0x700000

/-- The state in which a command is tried, and its page. -/
def begun (s : State) (op : Nat) : State :=
  let y := s.setFld 10 0 0x30 8 1 1
  y.setPart 0 { y.partAt 0 with xcmd := some { op := op, va := 65536 * s.fld 10 0 0x18 16 41, size := s.fld 10 0 0x18 0 2, arg := s.reg 10 0 0x20, flushed := none } }

/-- Whether a command is ready, and its leaf. -/
def xready (s : State) (op : Nat) : Bool :=
  decide (s.fld 10 0 0x30 8 1 = 0) && !(begun s op).xfield 0 { op := op, va := 65536 * s.fld 10 0 0x18 16 41, size := s.fld 10 0 0x18 0 2, arg := s.reg 10 0 0x20, flushed := none } &&
  (s.moveOf 0 (65536 * s.fld 10 0 0x18 16 41)).isNone
def xleafAt (s : State) (op : Nat) : Option (Nat × Word) := (begun s op).leafOf 0 (65536 * s.fld 10 0 0x18 16 41) (s.fld 10 0 0x18 0 2)
def xslot (s : State) : Slot := (begun s 1).entrySlot 0 (65536 * s.fld 10 0 0x18 16 41) (s.fld 10 0 0x18 0 2)

/-- The hypotheses of `Plain` as a Bool. -/
def plain (s : State) (q a : Nat) : Bool :=
  decide (a % 8 = 0) && (s.lineOf a).unfilled.isNone && !(s.lineOf a).poison && !s.tagBad (s.keyOf q) a && decide (s.fld 11 0 0x808 3 1 = 0) && decide (s.fld 2 0 (0x1000 * (a / 2 ^ 36) + 8) 2 1 = 0)

/-- The pool with a free frame on either stack of die 0, and a thread that has an access to the leaf's frame. -/
def pooled (s : State) : State := words s [(0x40000000, 255), (0x40020000, 255)]
def flying (s : State) : State := onThr s fun t => { t with posted := [{ posted0 with loc := .hbm 0x700000 }] }

theorem witness_TranslationCommands :
    ((((xstate xva 0 0 leafH).setReg 10 0 0x30 256#64).fld 10 0 0x30 8 1 = 1 ∧ (xstate xva 0 0 leafH).fld 10 0 0x30 8 1 = 0) ∧
    ([1, 2, 3, 4, 5, 6].all fun op => (begun (xstate xva 3 0 leafH) op).xfield 0 { op := op, va := xva, size := 3, arg := 0#64, flushed := none }) = true ∧
    ([2, 3, 4, 5, 6].all fun op => xready (xstate (xva + 65536) 0 0 leafH) op && (xleafAt (xstate (xva + 65536) 0 0 leafH) op).isNone) = true ∧
    (([2, 3, 4, 5, 6].all fun op => xready (xstate xva 0 0 leafH) op && decide (xleafAt (xstate xva 0 0 leafH) op = some (0x600008, W leafH))) = true ∧ plain (xstate xva 0 0 leafH) 0 0x600008 = true) ∧
    ((xstate xva 0 0 leafH).inFlight ((W leafH).getLsbD 56) (entAddr (W leafH) / 65536 * 65536) (pageBytes 0) true = false ∧
      (flying (xstate xva 0 0 leafH)).inFlight ((W leafH).getLsbD 56) (entAddr (W leafH) / 65536 * 65536) (pageBytes 0) true = true) ∧
    (xready (xstate xva 0 0 (leafH + 2 ^ 56)) 4 = true ∧ xleafAt (xstate xva 0 0 (leafH + 2 ^ 56)) 4 = some (0x600008, W (leafH + 2 ^ 56)) ∧ (W (leafH + 2 ^ 56)).getLsbD 56 = true) ∧
    (xready (xstate xva 0 0 (leafH + 2 ^ 57)) 4 = true ∧ (W (leafH + 2 ^ 57)).getLsbD 57 = true ∧ (W (leafH + 2 ^ 57)).getLsbD 56 = false) ∧
    ((begun (xstate xva 0 0 leafH) 4).meetsReplica 0 xva (pageBytes 0) = false ∧ (begun (xstate xva 0 0 leafH) 4).meetsChannel 0x700000 (pageBytes 0) = false)) ∧
    (begun (xstate xva 0 0 leafH) 4).frameOn 0 (bf 0#64 52 3) 0 = none ∧ (∃ h, (begun (pooled (xstate xva 0 0 leafH)) 4).frameOn 0 (bf 0#64 52 3) 0 = some h) ∧
    (xready (xstate (2 ^ 40) 0 0 leafH) 1 = true ∧ xslot (xstate (2 ^ 40) 0 0 leafH) = .noTable ∧ xready (xstate 0 0 0 leafH) 1 = true ∧ xslot (xstate 0 0 0 leafH) = .larger ∧
      xslot (xstate xva 0 0 leafH) = .at_ 0x600008 ∧ ((begun (xstate xva 0 0 leafH) 1).seenWord 0 0x600008).getLsbD 63 = true) ∧
    (xready (xstate (xva + 65536) 0 (2 ^ 62) leafH) 1 = true ∧ xslot (xstate (xva + 65536) 0 (2 ^ 62) leafH) = .at_ 0x600010 ∧ ((begun (xstate (xva + 65536) 0 (2 ^ 62) leafH) 1).seenWord 0 0x600010).getLsbD 63 = false ∧
      plain (xstate (xva + 65536) 0 (2 ^ 62) leafH) 0 0x600010 = true) ∧
    (xready (xstate (xva + 65536) 0 (2 ^ 63) leafH) 1 = true ∧ (W (2 ^ 63)).getLsbD 63 = true) ∧ (begun (xstate (xva + 65536) 0 (2 ^ 63) leafH) 1).frameOn 0 (bf (W (2 ^ 63)) 52 3) 0 = none ∧
    (∃ h, (begun (pooled (xstate (xva + 65536) 0 (2 ^ 63) leafH)) 1).frameOn 0 (bf (W (2 ^ 63)) 52 3) 0 = some h) ∧
    (let y : XCmd := { op := 3, va := xva, size := 0, arg := 0#64, flushed := some (false, 0x700000, 65536) }
     let s := m0.setPart 0 { m0.partAt 0 with xcmd := some y }
     (s.partAt 0).xcmd = some y ∧ s.inFlight false 0x700000 65536 true = false ∧ (flying s).inFlight false 0x700000 65536 true = true ∧ (m0.partAt 0).xcmd = none) ∧
    (writeBad 10 0 2#64 = true ∧ writeBad 10 0 0x100001#64 = false) :=
  ⟨by and_intros <;> decide +kernel,
    (frames_none _ _ _ _ 0x1000000 (by decide +kernel) (by decide +kernel)).2, (frames_some _ _ _ _ (by decide +kernel) (by decide +kernel)).2, by decide +kernel, by decide +kernel, by decide +kernel,
    (frames_none _ _ _ _ 0x1000000 (by decide +kernel) (by decide +kernel)).2, (frames_some _ _ _ _ (by decide +kernel) (by decide +kernel)).2, by decide +kernel, by decide +kernel⟩

/-- A page of partition 0 moving from the leaf's frame to 0x800000, or being filled there. -/
def pageMove (stalled : Bool) (old : Option Nat) : PageMove := { va := xva, size := 0, leaf := 0x600008, old := old, new := 0x800000, stalled := stalled, isCmd := true }
def moving1 (m : PageMove) (s : State) : State := s.setPart 0 { s.partAt 0 with moves := [m] }

/-- Placement on, with a page that dies 0 and 1 share and die 1 accesses most. -/
def placing (s : State) : State :=
  let s1 := (s.setReg 5 0 0 (W (3 * 2 ^ 8 + 1))).setReg 10 0 0x10 (W (1 + 10 * 2 ^ 16))
  s1.setPart 0 { s1.partAt 0 with counts := [(8 * (xva / 65536), 1), (8 * (xva / 65536) + 1, 20)] }

/-- A listed line of a table of lines. -/
theorem tget_tofn {α : Type} (d : Nat → α) (b n : Nat) (f : Nat → α) (i : Nat) (h : i < n) : tget d (tofn b n f) (b + i) = f i := by
  have aux : ∀ (l : List Nat), i ∈ l → tget d (l.map fun k => (b + k, f k)) (b + i) = f i := by
    intro l
    induction l with
    | nil => exact fun h => nomatch h
    | cons a r ih =>
      intro hm
      simp only [List.map_cons, tget]
      split
      · rename_i e; rw [Nat.add_left_cancel e]
      · rename_i e
        rcases List.mem_cons.mp hm with rfl | hm
        · exact absurd rfl e
        · exact ih hm
  exact aux _ (List.mem_range.mpr h)

/-- A machine whose lines from 0x800000 on are filled. -/
def filled : State := moving1 (pageMove false none) { m0 with lines := tofn (0x800000 / 64) 1024 fun _ => LineMeta.zeroed }

theorem filled_none : filled.anyUnfilled 0x800000 65536 = none := by
  simp only [State.anyUnfilled, List.find?_eq_none, List.mem_range]
  intro i hi
  have hi : i < 1024 := hi
  have : (0x800000 + 64 * i) / 64 = 0x800000 / 64 + i := by omega
  simp only [State.lineOf, this]
  have ht : filled.lines = tofn (0x800000 / 64) 1024 fun _ => LineMeta.zeroed := rfl
  rw [ht, tget_tofn _ _ _ _ _ hi]
  decide

/-- The frame pool with a free frame on either stack of die 1. -/
def pooled1 (s : State) : State := words s [(0x40040000, 255), (0x40060000, 255)]

theorem witness_PageMoves :
    ((m0.setReg 10 0 0x10 0#64).fld 10 0 0x10 0 1 = 0 ∧ m0.moveOf 0 xva = none) ∧
    ((([xstate xva 0 0 leafH, pooled1 (xstate xva 0 0 leafH)].all fun x => let s := placing x
      s.fld 10 0 0x10 0 1 == 1 && (match s.hotPages 0 with | [h] => decide (h.wants (max 1 (s.fld 10 0 0x10 16 16)) = some (1, 20)) && s.mayMove 0 h && decide (h.size = 0) | _ => false) && s.dieIn 0 1) = true) ∧
      ((placing (xstate xva 0 0 leafH)).setPart 0 { (placing (xstate xva 0 0 leafH)).partAt 0 with counts := [] }).placeOn 0 1 0 = none ∧
      ∃ h, ((placing (pooled1 (xstate xva 0 0 leafH))).setPart 0 { (placing (pooled1 (xstate xva 0 0 leafH))).partAt 0 with counts := [] }).placeOn 0 1 0 = some h) ∧
    (let m := pageMove true (some 0x700000)
     let s := moving1 m (xstate xva 0 0 leafH)
     s.moveOf 0 xva = some m ∧ m.old = some 0x700000 ∧ m.va = (W xva).toNat ∧ m.stalled = true ∧ s.inFlight false 0x700000 65536 true = false ∧ (flying s).inFlight false 0x700000 65536 true = true ∧
      plain s 0 0x600008 = true ∧ m.leaf / 64 ≠ m.new / 64 ∧ m.leaf < m.new / 64 * 64) ∧
    (let m := pageMove false (some 0x700000)
     let s := moving1 m (xstate xva 0 0 leafH)
     s.moveOf 0 xva = some m ∧ m.stalled = false ∧ s.rehashing m.new = false ∧ s.rehashing 0x700000 = false ∧ s.anyUnfilled m.new 65536 = some 0) ∧
    ((filled.moveOf 0 xva = some (pageMove false none) ∧ (pageMove false none).va = (W xva).toNat ∧ (pageMove false none).old = none) ∧ filled.anyUnfilled 0x800000 65536 = none) :=
  ⟨by decide +kernel, ⟨by decide +kernel, (frames_none _ _ _ _ 0x1000000 (by decide +kernel) (by decide +kernel)).1, (frames_some _ _ _ _ (by decide +kernel) (by decide +kernel)).1⟩,
    by decide +kernel, by decide +kernel, by decide +kernel, filled_none⟩
/-! ## Witnesses: the host, the mailbox -/

theorem witness_HostEvents :
    ((3 : Nat) < 8 ∧ m0.heldPkt 0x50 = none ∧ m0.heldPkt 0x51 = none ∧ m0.heldPkt 0x52 = none) ∧
    (let v := W (2 ^ 9 + 1)
     writeBad 5 0x40 v = false ∧ m0.fld 5 0 0x40 0 1 = 0 ∧ v.getLsbD 0 = true ∧
      (let t := m0.setFld 5 0 0 8 8 1
       diesOk (bf v 8 8) = true ∧ t.diesTaken 1 (bf v 8 8) = false ∧ t.fld 5 0 0x40 0 1 = 0 ∧ ((List.range 8).any fun d => v.getLsbD (8 + d) && t.dieHalted d) = false) ∧
      diesOk 5 = false ∧ writeBad 5 0x40 (W (5 * 256 + 1)) = false ∧ (m0.setFld 5 0 0 8 8 2).diesTaken 1 (bf v 8 8) = true ∧
      ((List.range 8).any fun d => v.getLsbD (8 + d) && (m0.setReg 1 0 0x208 8#64).dieHalted d) = true) ∧
    (let s := m0.setReg 5 0 0 (W (2 ^ 8 + 1))
     let v := W (2 ^ 8)
     writeBad 5 0 v = false ∧ s.fld 5 0 0 0 1 = 1 ∧ v.getLsbD 0 = false ∧ bf v 8 8 = s.fld 5 0 0 8 8 ∧ writeBad 5 0 (W (2 ^ 9)) = false ∧ bf (W (2 ^ 9)) 8 8 ≠ s.fld 5 0 0 8 8) ∧
    (writeBad 5 0x18 (W (2 ^ 20)) = true ∧ writeBad 5 0x18 5#64 = false ∧ (5#64).getLsbD 16 = false ∧ writeBad 5 0x18 (W (2 ^ 16 + 5)) = false ∧ (W (2 ^ 16 + 5)).getLsbD 16 = true ∧ (m0.partAt 0).notes = []) ∧
    ([0x27008, 0x26140].all fun o => (match m0.blockAt o with
      | some (b, _, r) => (regMask b r).isSome && decide (b = 12 ∨ (b = 11 ∧ 0x40 ≤ r % 0x100 ∧ r < 0x800)) && !writeBad b r 1#64 && writeBad b r (BitVec.allOnes 64)
      | none => false) && decide (16 * m0.caps.length ≤ o ∧ o % 8 = 0)) = true ∧
    (0x27009 % 8 ≠ 0 ∧ m0.blockAt 0x7FFFFF8 = none ∧ 8 < 16 * m0.caps.length) ∧
    (let s := m0.setReg 5 0 0x400 (W (2 ^ 11 + 9))
     s.managed 9#11 = true ∧ s.managed 8#11 = false ∧ (s.barRead 0).isSome = true ∧ s.barRead 0x7FFFFF8 = none ∧ s.heldPkt 0x50 = none ∧ s.heldPkt 0x51 = none) := by and_intros <;> decide +kernel

/-- The mailbox registers and the service processor set. -/
def mail (busy len : Nat) (f : Service → Service) : State :=
  let s := (m0.setReg 6 0 0x18 (W busy)).setReg 6 0 0x10 (W len)
  { s with service := f s.service, hostLink := true }

theorem witness_MailboxEvents :
    (mail 1 0 id).fld 6 0 0x18 0 1 ≠ 0 ∧ (mail 0 0 id).fld 6 0 0x18 0 1 = 0 ∧
    (let s : State := { mail 0 0 id with hostLink := false }
     s.fld 6 0 0x18 0 1 = 0 ∧ s.mbGone true s.mbAddr s.mbLen = true) ∧
    (let s : State := { mail 0 0 (fun x => { x with recovery := true }) with hostLink := false }
     s.fld 6 0 0x18 0 1 = 0 ∧ s.mbGone true s.mbAddr s.mbLen = true ∧ s.service.recovery = true) ∧
    (let s := mail 0 8 fun x => { x with recovery := true }
     s.fld 6 0 0x18 0 1 = 0 ∧ s.mbGone true s.mbAddr s.mbLen = false ∧ s.mbGone false s.mbAddr s.mbLen = false ∧ s.service.recovery = true ∧ s.mbLen < 64 + 120 + 64 * s.service.measurements.length + 1280) ∧
    (let s := mail 0 0x1000 id
     s.fld 6 0 0x18 0 1 = 0 ∧ s.mbGone true s.mbAddr s.mbLen = false ∧ 64 + 120 + 64 * s.service.measurements.length + 1280 ≤ s.mbLen ∧ s.service.recovery = false ∧ s.service.mbox = none) ∧
    (let m : Mbox := { code := 255, step := 5, image := some [] }
     (mail 1 0 fun x => { x with mbox := some m }).service.mbox = some m ∧ m.code < 256 ∧ m.step < 256) := by and_intros <;> decide +kernel
/-! ## Witnesses: ports -/

/-- Port 0 in a state of PSTAT, changed. -/
def port0 (st : Nat) (f : Port → Port) : State :=
  let s := m0.setReg 3 0 (pst 0) (W st)
  s.setPort 0 (f (s.portAt 0))

/-- A copy request of one flit, and a read request of device 5 in transit. -/
def onePkt (user : Bool) : Packet := { m0.blank (if user then 1 else 0x20) 1 5 user with ks := 7#45 }

/-- A burst of one bulk flit, or of link flits alone, or of a DISABLE flit, with its CRCs. -/
def burstOf (n : BitVec 12) (l : List Flit) : Burst := { bseq := n, aseq := BitVec.allOnes 12, nak := false, flits := l, crc0 := 0#32, crc1 := 0#32 : Burst }.sealed false
def burst (n : BitVec 12) : Burst := burstOf n (.part (onePkt false) 0 :: List.replicate 7 .idle)
def idles : Burst := burstOf 0#12 (List.replicate 8 .idle)
def disables : Burst := burstOf 0#12 (.disable :: List.replicate 7 .idle)

/-- A burst whose CRC of lane 0 is wrong. -/
def spoilt (b : Burst) : Burst := { b with crc0 := ~~~(b.crcs false).1 }

/-- A burst with its CRCs passes both checks, and a spoilt one fails that of lane 0 alone. -/
theorem witness_crcs (n : BitVec 12) (l : List Flit) :
    ((burstOf n l).crc0 = ((burstOf n l).crcs false).1 ∧ (burstOf n l).crc1 = ((burstOf n l).crcs false).2) ∧
    (spoilt (burstOf n l)).crc0 ≠ ((spoilt (burstOf n l)).crcs false).1 ∧ (spoilt (burstOf n l)).crc1 = ((spoilt (burstOf n l)).crcs false).2 := by
  refine ⟨⟨rfl, rfl⟩, fun h => ?_, rfl⟩
  have := congrArg (·.getLsbD 0) (show ~~~((burstOf n l).crcs false).1 = ((burstOf n l).crcs false).1 from h)
  simp at this

theorem witness_PortEvents :
    (let s := port0 2 id
     let x := s.portAt 0
     (0 : Nat) < 96 ∧ s.portUp 0 = true ∧ x.switching = false ∧ s.fld 11 0 0x808 3 1 = 0 ∧ s.pstate 0 = 2 ∧ (s.takeControl 0 (burst 0#12)).portUp 0 = true ∧ (burst 0#12).controlOnly = false ∧
      (burst 0#12).disable = false ∧ (burst 0#12).pkts = [onePkt false] ∧ kindKnown (onePkt false).kind.toNat = true ∧ (burst 0#12).bseq = x.want ∧
      (s.takeControl 0 (burst 1#12)).portUp 0 = true ∧ (burst 1#12).bseq ≠ x.want ∧ ((burst 1#12).bseq - x.want).toNat < 2048 ∧
      x.gap = false ∧ x.asked < 31 ∧ 2048 ≤ ((burst 4095#12).bseq - x.want).toNat ∧ (s.takeControl 0 (burst 4095#12)).portUp 0 = true ∧
      (s.takeControl 0 disables).pstate 0 ≠ 0 ∧ disables.disable = true ∧ idles.disable = false ∧ idles.controlOnly = true ∧ x.userQ = [] ∧ x.bulkQ = [] ∧ x.sending = none ∧
      x.replay.length < 512 ∧ s.fld 3 0 (pst 0) 4 1 = 0 ∧ x.rewidening = false) ∧
    (let s := port0 2 fun x => { x with gap := true }
     (s.portAt 0).gap = true ∧ (burst 1#12).bseq ≠ (s.portAt 0).want ∧ s.portUp 0 = true) ∧
    ((let x := (port0 2 fun x => { x with err0 := max (m0.fld 3 0 0 8 8) 1 - 1 }).portAt 0
      x.err0 + 1 = max (m0.fld 3 0 0 8 8) 1)) ∧
    ((port0 0 id).portUp 0 = false ∧ (port0 0 id).pstate 0 = 0) ∧
    (∀ n ∈ [0, 30, 31], ((port0 3 fun x => { x with gap := true, asked := n }).portAt 0).asked = n ∧ ((port0 3 fun x => { x with gap := true, asked := n }).portAt 0).gap = true ∧
      (port0 3 fun x => { x with gap := true, asked := n }).portUp 0 = true) ∧
    (pktFlits (onePkt true) = 1 ∧ pktFlits (onePkt false) = 1 ∧ (onePkt true).user = true ∧ (onePkt false).user = false ∧ pktVc (onePkt false) < 4 ∧
      ((port0 2 fun x => { x with userQ := [onePkt true] }).portAt 0).userQ = [onePkt true] ∧ ((port0 2 fun x => { x with bulkQ := [onePkt false] }).portAt 0).bulkQ = [onePkt false] ∧
      0 < ((port0 2 id).portAt 0).allow (pktVc (onePkt false)) ∧
      (let x := (port0 2 fun x => { x with bulkQ := [onePkt false], sent := tput x.sent (pktVc (onePkt false)) 1024#48 }).portAt 0
       x.allow (pktVc (onePkt false)) ≤ 0 ∧ x.bulkQ = [onePkt false] ∧ x.userQ = [] ∧ x.sending = none)) ∧
    ((port0 (3 + 16) id).fld 3 0 (pst 0) 4 1 = 1 ∧ (port0 (3 + 16) id).pstate 0 = 3 ∧ (port0 (2 + 16) id).fld 3 0 (pst 0) 4 1 = 1 ∧ (port0 (2 + 16) id).pstate 0 ≠ 3 ∧
      (port0 (2 + 16) id).portUp 0 = true ∧ (port0 (2 + 16) id).repairWaits 0 = false ∧ (port0 (3 + 16) id).repairWaits 0 = false ∧ (port0 (2 + 8 + 16) id).repairWaits 0 = true ∧ (port0 2 id).repairWaits 0 = false ∧ ¬ (((port0 (2 + 16) id).portAt 0).out0 = true ∧ ((port0 (2 + 16) id).portAt 0).out1 = true)) ∧
    (((port0 2 fun x => { x with switching := true }).portAt 0).switching = true ∧ ((port0 3 fun x => { x with rewidening := true }).portAt 0).rewidening = true ∧
      (port0 3 fun x => { x with rewidening := true }).pstate 0 = 3) ∧
    ((m0.setReg 3 0 8 (W (2 ^ 11))).fld 3 0 8 11 1 = 1 ∧ (m0.setReg 3 0 8 (W (2 ^ 11))).pstate 0 = 0 ∧ m0.fld 3 0 8 11 1 = 0 ∧
      (let s := ((m0.setReg 3 0 8 (W (2 ^ 11))).setReg 3 0 (pst 0) 64#64).setReg 3 0 (pst 0 - 8) 1#64
       s.fld 3 0 8 11 1 = 1 ∧ s.pstate 0 = 0 ∧ s.fld 3 0 (pst 0) 6 1 = 1 ∧ s.fld 3 0 (pst 0 - 8) 0 1 = 1)) ∧
    (port0 1 id).pstate 0 = 1 := by and_intros <;> decide +kernel
/-! ## Witnesses: the fabric -/

/-- A packet in transit to device 9, by way of no device. -/
def transit (b : BitVec 3) : Packet := { m0.blank 0x20 1 9 false with ddev := 9#11, budget := b }

/-- A direct route to device 9 over pair 0, whose port 0 is up. -/
def routed : State := { port0 2 id with routes := [(9, BitVec.ofNat 128 (2 ^ 7 + 2 ^ 6))] }

/-- A sending stream to device 5. -/
def stream5 (l : List Packet) (n : Nat) : State := m0.setTx 5 true { TxStream.init with opened := true, next := 8#16, base := 5#16, unacked := l, resends := n }

/-- A receiving stream from device 5. -/
def receiving (n : Option Word) (m : BitVec 64) : State := m0.setRx 5 true { nonce := n, exp := 4#16, map := m }

theorem witness_FabricEvents :
    ((3 : Nat) < 4 ∧ (m0.blank 0x20 1 m0.devId false).ddev.toNat = m0.devId ∧ (transit 1#3).ddev.toNat ≠ routed.devId ∧ (transit 0#3).budget = 0#3 ∧ rtValid (m0.route 9) = false ∧ rtValid (routed.route 9) = true ∧
      (routed.pairPort (rtHop (routed.route 9)) false 0).isSome = true ∧ (transit 1#3).budget ≠ 0#3 ∧ (transit 1#3).nm = false ∧ (transit 1#3).user = false) ∧
    ((m0.setReg 3 0 0x28 4#64).fld 3 0 0x28 2 1 = 1 ∧ m0.fld 3 0 0x28 2 1 = 0 ∧ m0.routePend = none) ∧
    (writeBad 3 8 (BitVec.allOnes 64) = true ∧ writeBad 3 8 (W (2 ^ 11 + 5)) = false ∧ writeBad 3 8 5#64 = false ∧ (port0 2 id).anyUp = true ∧ m0.anyUp = false ∧ bf (W (2 ^ 11 + 5)) 11 1 = 1 ∧ bf 5#64 11 1 = 0 ∧
      (m0.setReg 3 0 8 (W (2 ^ 11))).fld 3 0 8 11 1 = 1 ∧ m0.fld 3 0 8 11 1 = 0 ∧ (m0.setReg 3 0 (pst 95 - 8) 1#64).fld 3 0 (pst 95 - 8) 0 1 = 1 ∧ m0.pstate 95 = 0) ∧
    (((receiving (some 3#64) 2#64).rxOf 5 true).nonce.isSome = true ∧ ((receiving (some 3#64) 2#64).rxOf 5 true).map ≠ 0#64 ∧ ((receiving none 0#64).rxOf 5 true).nonce = none) ∧
    ((m0.txOf 5 true).unacked = [] ∧ ((stream5 [transit 1#3] 7).txOf 5 true).unacked ≠ [] ∧ ((stream5 [transit 1#3] 7).txOf 5 true).resends < 8 ∧ 8 ≤ ((stream5 [transit 1#3] 8).txOf 5 true).resends) ∧
    (let s := stream5 [{ transit 1#3 with seq := 5#16 }, { transit 1#3 with seq := 6#16 }] 0
     let x := s.txOf 5 true
     s.heldPkt 1 = none ∧ s.heldPkt 2 = none ∧ s.heldPkt 4 = none ∧ (x.next - 6#16).toNat < 2 ^ 15 ∧ 2 ^ 15 ≤ (x.next - 9#16).toNat ∧ (x.unacked.filter fun p => decide ((p.seq - 6#16).toNat < 2 ^ 15)).length < x.unacked.length ∧
      (6#16 - x.low).toNat < 2 ^ 15 ∧ 2 ^ 15 ≤ (4#16 - x.low).toNat) ∧
    (let s := receiving (some 3#64) 0#64
     s.heldPkt 3 = none ∧ (s.rxOf 5 true).nonce ≠ some 4#64 ∧ (s.rxOf 5 true).nonce = some 3#64 ∧ (4#16 - (s.rxOf 5 true).exp).toNat < 2 ^ 15 ∧ 2 ^ 15 ≤ (3#16 - (s.rxOf 5 true).exp).toNat) := by and_intros <;> decide +kernel

theorem witness_routeWrite : ({ m0 with routePend := some (5, 6#64 ++ 7#64) } : State).routePend = some (5, 6#64 ++ 7#64) := rfl

theorem witness_heldPacket : (match (m0.setPort 0 { Port.init with inbox := [{ onePkt true with ddev := BitVec.ofNat 11 m0.devId }] }).heldPkt 1 with | some p => p.kind == 1#8 | none => false) = true := by decide +kernel
/-! ## Witnesses: peers -/

/-- The window, and a stream from device 1 that expects packet 4. -/
def peering : State := windowed.setRx 1 true { nonce := some 3#64, exp := 4#16, map := 0#64 }

/-- A request of device 1 through the window. -/
def request (x : Desc) (pay : List Word) : Packet := { m0.blank 0x10 1 m0.devId true with seq := 4#16, sdev := 1#11, desc := some x, pay := pay }

/-- What the request finds: whether it is taken, its check's cause and place, and what holds there. -/
def finds (s : State) (p : Packet) (off n need : Nat) (f : State → Nat → Nat → Bool) : Option (Nat ⊕ Bool) :=
  if (p.desc.map s.peerStall).getD false then none
  else match s.accept p with
  | (s1, true) => match s1.peerCheck (descOr p) p.sdev.toNat off n need with
    | (_, .error c) => some (.inl c)
    | (s2, .ok (q, h)) => some (.inr (f s2 q h))
  | _ => none

/-- A producing store to the word of the window, which is full or not, with waiters of its stack. -/
def producing (full : Bool) (l : List SyncWait) : State :=
  let s := peering.setFe 0x20010000 full
  s.setStack 0 { s.stackAt 0 with syncs := l }

def waiter : SyncWait := { cell := 0, slot := 0, seq := 5, store := true, hpa := 0x20010000, pkt := none }

theorem witness_PeerEvents :
    (let off := peering.setReg 3 0 0x48 0#64
     let p := request desc0 [7#64]
     [rRD, rWR, rAT].all fun r => finds off p 0 8 r (fun _ _ _ => true) = some (.inl 1)) = true ∧
    finds peering (request desc0 []) 0 8 rRD (fun s2 q h => decide ((s2.hbmRead q (h / 64 * 64) 64).bad = 0)) = some (.inr true) ∧
    finds (peering.setLine 0x20010000 { LineMeta.zeroed with tag := .code }) (request desc0 []) 0 8 rRD (fun s2 q h => decide ((s2.hbmRead q (h / 64 * 64) 64).bad ≠ 0)) = some (.inr true) ∧
    finds peering (request { desc0 with mask := BitVec.allOnes 64 } [7#64]) 0 64 rWR (fun s2 _ h => decide (s2.fld 2 0 (0x1000 * (h / 2 ^ 36) + 8) 2 1 = 0)) = some (.inr true) ∧
    AOp.ofCode desc0.op.toNat ≠ none ∧
    finds peering (request desc0 [7#64]) 0 8 rAT (fun s2 q h => decide ((s2.atomic q (.hbm h) 8 .add 7 0).bad = 0)) = some (.inr true) ∧
    finds (peering.setLine 0x20010000 { LineMeta.zeroed with tag := .code }) (request desc0 [7#64]) 0 8 rAT (fun s2 q h => decide ((s2.atomic q (.hbm h) 8 .add 7 0).bad ≠ 0)) = some (.inr true) := by and_intros <;> decide +kernel

/-- The word that a producing store finds: aligned, its line whole, and full or with waiters. -/
def atWord (s : State) (full : Bool) (n : Nat) : Bool :=
  finds s (request desc0 [7#64]) 0 8 rWR (fun s2 q h =>
    let z := s2.openLine (s2.keyOf q) h
    decide (h % 8 = 0) && decide (s2.fld 11 0 0x808 3 1 = 0) && !z.lineBad h && decide (z.feBit h = full) && decide ((z.stackAt (h / 2 ^ 36)).syncs.length = n) &&
      decide ((z.stackAt (h / 2 ^ 36)).syncs.any (fun w => w.hpa == h && w.store) = decide (0 < n))) = some (.inr true)

theorem witness_produce : atWord (producing false []) false 0 = true ∧ atWord (producing true []) true 0 = true ∧ atWord (producing false [waiter]) false 1 = true ∧
    atWord (producing true (List.replicate 1024 waiter)) true 1024 = true := by and_intros <;> decide +kernel

/-- The thread with an access of device 1 outstanding, its partition's PTRAP set or clear. -/
def awaits (a : Act) (ptrap : Bool) : State := (onThr m0 fun t => { t with out := [{ pend0 with act := a }] }).setReg 11 0 0 (W ptrap.toNat)

theorem witness_Answers :
    (m0.heldPkt 0x11 = none ∧ m0.heldPkt 0x13 = none ∧ m0.heldPkt 0x16 = none ∧ m0.thr? 0 0 = some m0.thr ∧ m0.thr.stop = none ∧ m0.thr.out = [] ∧ m0.thr.posted = []) ∧
    ([awaits (.load (.peer 1 0 0) 8 false 3 false 0) true, awaits (.load (.peer 1 0 0) 8 false 3 false 0) false].all fun s =>
      decide (s.heldPkt 0x11 = none) && decide (s.thr? 0 0 = some s.thr ∧ s.thr.stop = none) && (match s.thr.out[0]? with | some e => decide (e.act = .load (.peer 1 0 0) 8 false 3 false 0 ∧ e.perf = none) | none => false)) = true ∧
    (trapOfCause true 7 = some cPOISON ∧ trapOfCause false 7 = none ∧ trapOfCause true 1 = some cPERM) ∧
    (let a : Act := .atom (.peer 1 0 0) 8 .add 7 0 3 false false 0
     let s := awaits a true
     s.thr? 0 0 = some s.thr ∧ s.thr.stop = none ∧ (s.thr.out[0]?.map (·.act)) = some a ∧ (s.thr.out[0]?.map (·.perf)) = some none) ∧
    (let s := onThr m0 fun t => { t with posted := [{ posted0 with loc := .peer 1 0 0 }] }
     s.thr? 0 0 = some s.thr ∧ s.thr.stop = none ∧ s.thr.posted[0]? = some { posted0 with loc := .peer 1 0 0 } ∧ posted0.bad = 0) := by and_intros <;> decide +kernel

/-- A copy packet of one line, with its tag or another. -/
def copied (ctrl compl : Word) (masks : List (BitVec 64)) (good : Bool) : CopyPkt :=
  let h := request desc0 []
  let t := copyTag h ctrl compl masks (wordsOf 9 8)
  { hdr := h, ctrl := ctrl, compl := compl, tag := if good then t else t + 1#64, masks := masks, lines := [9#512] }

/-- What a copy packet finds: whether its tag agrees, and whether its stream takes it. -/
def meetsCopy (s : State) (p : CopyPkt) : Option (Bool × Bool × Bool) :=
  if s.peerStall (descOr p.hdr) then none
  else match s.peerCheck (descOr p.hdr) p.hdr.sdev.toNat 0 64 rWR with
  | (s2, .ok (q, _)) =>
    let a := bf (s2.tableAt (bf (s2.reg 3 0 0x48) 21 36 * 2 ^ 21 + 32 * (descOr p.hdr).rwin.toNat + 8)) 0 57 + (descOr p.hdr).offset.toNat
    some (copyTag p.hdr p.ctrl p.compl p.masks (p.lines.flatMap fun l => wordsOf l.toNat 8) == p.tag, (s2.accept p.hdr).2, (match s2.engLoc q a 1 rWR with | .ok (.hbm _) => true | _ => false))
  | _ => none

theorem witness_Copies :
    meetsCopy peering (copied 0#64 0#64 [] true) = some (true, true, true) ∧ meetsCopy windowed (copied 0#64 0#64 [] true) = some (true, false, true) ∧
    meetsCopy peering (copied 0#64 0#64 [] false) = some (false, true, true) ∧ cpRed (copied 0#64 0#64 [] false).ctrl = 0 ∧
    (meetsCopy peering (copied 0#64 0#64 [1#64] false)).map (·.1) = some false ∧ (copied 0#64 0#64 [1#64] false).masks ≠ [] ∧
    (let p := copied (W (2 ^ 60)) 0#64 [] true
     cpKind p.ctrl = 1 ∧ bf p.compl 53 11 = peering.devId ∧ meetsCopy peering p = some (true, true, true)) := by and_intros <;> decide +kernel

/-- A window to a page that may be written and not read. -/
def writeOnly : State :=
  words (((walkState (2 ^ 60)).setReg 3 0 0x48 (W (0x20800000 + 1))).setRx 1 true { nonce := some 3#64, exp := 4#16, map := 0#64 })
    [(0x20800000, 2 ^ 63 + 2 ^ 62 + 2 ^ 61 + 2 ^ 60 + 16 * 2 ^ 54), (0x20800008, xva), (0x20800010, 0), (0x20800018, 0)]

/-- What becomes of a copy packet whose tag agrees: the cause for which it does not land, if any. -/
def lands (s : State) (p : CopyPkt) : Option (Option Nat) :=
  match s.peerCheck (descOr p.hdr) p.hdr.sdev.toNat 0 64 rWR with
  | (s2, .ok (q, _)) =>
    let a := bf (s2.tableAt (bf (s2.reg 3 0 0x48) 21 36 * 2 ^ 21 + 32 * (descOr p.hdr).rwin.toNat + 8)) 0 57 + (descOr p.hdr).offset.toNat
    some (match s2.landPacket q a p with | .ok _ => none | .error c => some c.1.2)
  | _ => none

/-- A bulk packet of device 1 that is held, with a copy record on its way there, or none. -/
def bulkFrom1 (kind : Nat) (cause : BitVec 4) (fl : List (Nat × Nat × Nat × Nat)) : State :=
  let s := (copying 1 1 0 23 0).setRx 1 false { nonce := some 3#64, exp := 4#16, map := 0#64 }
  { s.setChan 0 23 { s.chan 0 23 with flying := fl } with outbox := [{ s.blank kind 1 0 false with seq := 4#16, sdev := 1#11, cause := cause, ks := 9#45 }] }

/-- Copy packets that land or fail as they land, a refusal of one that comes back, and an add to a barrier object. -/
theorem witness_CopyRefusals :
    lands peering (copied 0#64 0#64 [] true) = some none ∧ lands writeOnly (copied (W (2 ^ 57)) 0#64 [] true) = some (some 3) ∧
    (meetsCopy writeOnly (copied (W (2 ^ 57)) 0#64 [] true)).map (fun x => (x.1, x.2.1)) = some (true, true) ∧
    earlyLine (copied 0#64 0#64 [] false) 0 = true ∧ earlyLine (copied 0#64 0#64 [1#64] false) 0 = false ∧
    ([[(1, 9, 0, 64)], []].all fun fl =>
      let s := bulkFrom1 0x13 6#4 fl
      match s.heldPkt 0x13 with
      | some p => !p.user && (s.accept p).2 && decide ((s.accept p).1.chans.map (·.1) = [23]) && decide (((s.accept p).1.chan 0 23).flying = fl)
      | none => false) = true ∧
    finds (peering.setRx 1 false { nonce := some 3#64, exp := 4#16, map := 0#64 }) { request desc0 [7#64] with user := false } 0 16 rWR (fun _ _ _ => true) = some (.inr true) ∧
    finds ((peering.setReg 3 0 0x48 0#64).setRx 1 false { nonce := some 3#64, exp := 4#16, map := 0#64 }) { request desc0 [7#64] with user := false } 0 16 rWR (fun _ _ _ => true) = some (.inl 1) := by
  and_intros <;> decide +kernel

/-- A barrier object of device 1 named by g1, with a path to that device, and the accesses outstanding. -/
def barAway (out : List Pend) : State :=
  let s := onThr (exporting (gs m0 [(1, 0x100000000000080#64), (2, 0#64)])) fun t => { t with out := out }
  ({ s with routes := [(1, 0xC0#128)] } : State).setReg 3 0 (pst 0) 2#64

/-- A bowait that asks for an object of another device, and one that has its answer; the cell's turn while it stands there. -/
theorem witness_BarrierObjectsAway :
    (let s := barAway []
     issues s (.bowait 3 1 2 0) = true ∧ s.thr.ea = none ∧ s.thr.phaseRead = none ∧ isOk (s.barObj 0x100000000000080#64 rRD 1) (.peer 1 0 128) = true ∧
      s.accessWaits 0x100000000000080#64 8 (.peer 1 0 128) = false ∧ s.peerHolds (.peer 1 0 128) false 0 = false ∧ s.reachable 1 true = true) ∧
    (let s := barAway [{ pend0 with act := .phase (.peer 1 0 128) 0, perf := some 0x8000000000000005#64 }]
     issues s (.bowait 3 1 2 0) = true ∧ s.thr.phaseRead = some 0x8000000000000005#64 ∧ fillable 3 = true ∧ (s.thr.out.filter Pend.due).isEmpty = true) := by
  and_intros <;> decide +kernel

/-! ## Further witnesses -/

/-- The places in the cycle: a state that nothing has entered, one that a later place has entered, and the places of the agenda's entries. -/
theorem witness_Places :
    (m0.order = 0 ∧ (m0.enter 0).isSome = true ∧ (m0.enter 4).isSome = true ∧ (({ m0 with order := 5 } : State).enter 4).isNone = true ∧ (({ m0 with order := 2 } : State).enter 3).isSome = true) ∧
    (Turn.cell 0).rank m0 = some 3 ∧ (Turn.event (.kill 0)).rank m0 = some 500 ∧ encode (.kill 0) = none ∧ (Turn.perform 0 0 0).rank m0 = some 4 := by decide +kernel

/-- The rotation: an owner that issues, a slot lent in order, a thread of class 0, and no thread. -/
theorem witness_RotationOrder :
    let att := fun (l : List Nat) (j : Nat) => if l.contains j then Attempt.issue (.next m0) else .vacant
    let slot := fun (i : Nat) => (4 + i) % 16
    let lent := fun (l : List Nat) (i : Nat) => lend.lendable 0 (slot i) && (att l (slot i)).ready
    (att [0, 2, 5] 4).ready = false ∧
    (lent [0, 2, 5] 12 = true ∧ (∀ m, m < 16 → lent [0, 2, 5] m = true → lend.effCls 0 (slot m) ≤ lend.effCls 0 (slot 12)) ∧
      ∀ m, m < 12 → lent [0, 2, 5] m = true → lend.effCls 0 (slot m) < lend.effCls 0 (slot 12)) ∧
    ((∀ m, m < 16 → lent [5] m = false) ∧ (att [5] (slot 1)).ready = true ∧ (lend.thrAt 0 (slot 1)).cls = 0 ∧ (lend.thrAt 0 (slot 1)).lanes = [] ∧ (att [5] (slot 0)).ready = false) ∧
    ∀ i, i < 16 → (att [] (slot i)).ready = false := by decide +kernel

/-- A fill whose value has been written, a counter that a thread of a lower slot waits for, and bowaits of a thread that is listed or answered. -/
theorem witness_Waiting :
    (let s := onThr (target 0#64) fun t => { t with wait := .filled t.pc }
     issues s (.fill 1 2) = true ∧ s.thr.fillOver = true) ∧
    (target 0#64).thr.fillOver = false ∧
    (let c := m0.cell
     let s : State := { m0.setCell 0 { c with slots := [(0, some { placeThread with wait := .mbox 0 0#64 }), (1, some placeThread)] } with cur := 1 }
     issues s (.mbwait 3 1 2 0) = true ∧ ((s.rd 1).toNat = 0 ∧ s.mbEarlier 0 = true) ∧ m0.mbEarlier 0 = false) ∧
    (let s := onThr (barState 1 0#64) fun t => { t with wait := .barDue (.hbm 0x20000080) }
     let r := (s.charge s.dieNo s.thr.part 0x20000080 8).memRead s.thr.part (.hbm 0x20000080) 8
     issues s (.bowait 3 1 2 0) = true ∧ s.thr.phaseRead = none ∧ r.bad = 0 ∧ r.v < 2 ^ 64 ∧ decide (2 ^ 63 ≤ r.v) ≠ (s.rd 2).getLsbD 0) ∧
    (let s := (onThr (barState 1 1#64) fun t => { t with wait := .barDue (.hbm 0x20000080) }).setStack 0 { (barState 1 1#64).stackAt 0 with bars := [(0, 0)] }
     let r := (s.charge s.dieNo s.thr.part 0x20000080 8).memRead s.thr.part (.hbm 0x20000080) 8
     issues s (.bowait 3 1 2 0) = true ∧ r.bad = 0 ∧ decide (2 ^ 63 ≤ r.v) = (s.rd 2).getLsbD 0 ∧ (r.s.stackAt (0x20000080 / 2 ^ 36)).bars = [(s.turn, s.cur)]) ∧
    (let s := onThr (barState 1 0#64) fun t => { t with wait := .answered 5#64 }
     issues s (.bowait 3 1 2 0) = true ∧ s.thr.wait = .answered 5#64 ∧ fillable 3 = true) := by decide +kernel

/-- Sources that are empty with no write pending (R181). -/
theorem witness_EmptySources :
    let mv : Instr := .tmov 0 2 1 false 0 0
    let an : Instr := .sand 2 0 1 0
    let s0 := (m0.setTileAt 0 0 (m0.tphys 2) { m0.tile 2 with full := false, pending := false }).setTileAt 0 0 (m0.tphys 1) { m0.tile 1 with full := false, pending := false }
    let s := (s0.setStrmAt 0 0 (m0.sphys 0) { m0.strm 0 with full := false, pending := false }).setStrmAt 0 0 (m0.sphys 1) { m0.strm 1 with full := false, pending := false }
    (encode mv).isSome = true ∧ mv.wf = true ∧ tileSrcs mv = [] ++ (tileSrcs mv).head! :: (tileSrcs mv).tail ∧ (s.tile (tileSrcs mv).head!).full = false ∧ (s.tile (tileSrcs mv).head!).pending = false ∧
    (∀ k ∈ tileSrcs mv ++ tileDsts mv, k < s.thr.tiles.length ∧ s.bankPower s.turn (s.tphys k / 8) ≠ 2) ∧
    (encode an).isSome = true ∧ an.wf = true ∧ tileSrcs an = [] ∧ strmSrcs an = [] ++ (strmSrcs an).head! :: (strmSrcs an).tail ∧ (s.strm (strmSrcs an).head!).full = false ∧
    (s.strm (strmSrcs an).head!).pending = false ∧ (∀ k ∈ strmSrcs an ++ strmDsts an, k < s.thr.strms.length ∧ s.bankPower s.turn (4 + s.sphys k / 8) ≠ 2) ∧
    strmSrcs mv ++ strmDsts mv = [] ∧ tileSrcs an ++ tileDsts an = [] ∧ (∀ r ∈ named mv ++ named an, ¬ (48 ≤ r ∧ r < 52)) := by decide +kernel

/-- A thread whose tret waits for its frame, and frames of killed tasks and threads, of another device, and of a queue whose page stalls. -/
theorem witness_FramesBack :
    (let s := onThr (stoppedWith false []) fun t => { t with stop := none, out := [{ pend0 with act := .back frame5 }] }
     s.cells = [(0, s.cell)] ∧ s.cell.slots = [(0, some s.thr)] ∧ s.thr.out = [{ pend0 with act := .back frame5 }] ∧ pend0.perf = none) ∧
    ((stoppedWith true []).killedTask frame5.ctx.gid = false ∧ (frame5.origin, frame5.token) ∉ ((stoppedWith true []).partAt (bf frame5.origin 37 3)).killed) ∧
    ((({ m0 with graphs := [graph0 [task0 .killed]] } : State).killedTask frame5.ctx.gid = true) ∧
      (let s := m0.setPart 0 { m0.partAt 0 with killed := [(frame5.origin, frame5.token)] }
       (frame5.origin, frame5.token) ∈ (s.partAt (bf frame5.origin 37 3)).killed)) ∧
    ((queued5 [] 0#64).tqStalls 0 = false ∧ ((moving1 { pageMove true (some 0x20000000) with va := 0x20000000 } (queued5 [] 0#64))).tqStalls 0 = true) ∧
    ((slotFrame []).thr.out.length < 8 ∧ (frameLines (.hbm 0x20001000)).any (slotFrame []).thr.lineBusy = false) := by decide +kernel

/-- Registers of the BAR0 space that a block covers or not, a bmv whose block lies on another device, an acquire of the thread that has not performed, and a configuration of a
product that is valid or not at the end of the cycle. -/
theorem witness_Instructions :
    ((priv 1 0x27008#64 0#64).blockAt 0x27008).isSome = true ∧ (priv 1 0x3FFFFF8#64 0#64).blockAt 0x3FFFFF8 = none ∧
    (let s := barAway []
     issues s (.bmv 0 3 1) = true ∧ s.thr.ea = none ∧ s.thr.released (s.turn / 64) 1 s.thr.seqNo = true ∧
      (let s := gs s [(1, 0x100000000000080#64)]
       isOk (s.access (s.rd 1) 64 rRD 1) (.peer 1 0 128) = true ∧ s.accessWaits (s.rd 1) 64 (.peer 1 0 128) = false ∧ s.nowWaits [.peer 1 0 128] = false)) ∧
    (let s := onThr m0 fun t => { t with out := [{ pend0 with acq := true }], seqNo := 1 }
     s.thr.acquired s.thr.seqNo = false ∧ issues s (.rsadd 0 3 1 2) = true ∧ m0.thr.acquired m0.thr.seqNo = true) ∧
    (let y := { cmd0 (.mul 0 false 0#64) false with fresh := some 1 }
     let s := queueOf [y]
     (s.cellAt 0).mq = [y] ∧ (s.mcfgAt 0 y.bank 1).v = true ∧ (s.mcfgAt 0 y.bank 1).mode = y.cfg.mode ∧ (s.mcfgAt 0 y.bank 0).v = false ∧
      s.thr? y.cell y.slot = some s.thr ∧ s.thr.gid = y.gid ∧ s.thr.ended = false ∧ s.thr.out = [] ∧ s.thr.stop = none ∧ s.thr.site = .home) := by decide +kernel

/-- Frames named by MAP, usable or not; a frame given up with its pool bytes plain; lines filled from zero and from a line; and a mailbox buffer that stalls. -/
theorem witness_PagesGiven :
    (let s := pooled (xstate (xva + 65536) 0 (2 ^ 16) leafH)
     (W (2 ^ 16)).getLsbD 63 = false ∧ (W (2 ^ 16)).getLsbD 62 = false ∧ xready s 1 = true ∧ xslot s = .at_ 0x600010 ∧ ((begun s 1).seenWord 0 0x600010).getLsbD 63 = false ∧
      65536 * bf (W (2 ^ 16)) 16 36 = 65536 ∧ s.dieIn 0 (65536 / 2 ^ 37) = true ∧ (begun s 1).runFree 0 (65536 / 2 ^ 36) (65536 % 2 ^ 36 / 65536) (pageBytes 0 / 65536) = true) ∧
    (let s := xstate (xva + 65536) 0 (2 ^ 40) leafH
     xready s 1 = true ∧ xslot s = .at_ 0x600010 ∧ ((begun s 1).seenWord 0 0x600010).getLsbD 63 = false ∧ (W (2 ^ 40)).getLsbD 63 = false ∧ (W (2 ^ 40)).getLsbD 62 = false ∧ ¬ 65536 * bf (W (2 ^ 40)) 16 36 < 2 ^ 40) ∧
    (let s := words (xstate xva 0 0 leafH) [(0x40000008, 0)]
     xready s 2 = true ∧ 0x700000 % 65536 = 0 ∧ 0x700000 / 2 ^ 21 ≠ s.fld 10 0 8 21 19 ∧ (0x700000 + 65535) / 2 ^ 21 ≠ s.fld 10 0 8 21 19 ∧ plain s 0 (s.poolByte 0 0 (0x700000 / 65536) / 8 * 8) = true) ∧
    (let y : XCmd := { op := 2, va := xva, size := 0, arg := 0#64, flushed := some (false, 0x700000, 65536) }
     let s := m0.setPart 0 { m0.partAt 0 with xcmd := some y }
     (s.partAt 0).xcmd = some y ∧ s.inFlight false 0x700000 65536 true = false ∧ s.moveOf 0 y.va = none ∧ 65536 = pageBytes y.size) ∧
    (let s := (moving1 (pageMove false (some 0x700000)) (m0.setLine 0x800000 { LineMeta.zeroed with unfilled := some (.copy (0x700000 / 64)) })).setLine 0x700000 LineMeta.zeroed
     s.moveOf 0 xva = some (pageMove false (some 0x700000)) ∧ s.anyUnfilled 0x800000 65536 = some 0 ∧ (s.lineOf 0x800000).unfilled = some (.copy (0x700000 / 64)) ∧ (s.lineOf 0x700000).unfilled = none ∧
      plain s 0 0x700000 = true) ∧
    ((moving1 (pageMove false none) (m0.setLine 0x800000 { LineMeta.zeroed with unfilled := some .zero })).lineOf 0x800000).unfilled = some .zero ∧
    (let s := ((mail 0 64 id).setReg 6 0 8 0x20000000#64).setReg 2 0 8 2#64
     s.fld 6 0 0x18 0 1 = 0 ∧ s.mbStall false s.mbAddr s.mbLen = true ∧ (mail 0 64 id).mbStall false (mail 0 64 id).mbAddr (mail 0 64 id).mbLen = false ∧ (mail 0 64 id).mbStall true 0 64 = false) := by
  and_intros <;> decide +kernel

/-- A port with nothing set aside, one with a bulk packet begun, and one rewidened with the lanes out. -/
theorem witness_PortsMore :
    ((port0 2 id).portAt 0).paused = none ∧
    (let q := { onePkt false with len := 5#6 }
     let s := port0 2 fun x => { x with sending := some (q, 3), userQ := [onePkt true] }
     s.portUp 0 = true ∧ (s.portAt 0).switching = false ∧ (s.portAt 0).sending = some (q, 3) ∧ q.user = false ∧ (s.portAt 0).userQ = [onePkt true] ∧ (s.portAt 0).replay.length < 512) ∧
    (let s := port0 (3 + 4) fun x => { x with rewidening := true, out0 := true, out1 := true }
     (s.portAt 0).rewidening = true ∧ s.pstate 0 = 3 ∧ s.fld 3 0 (pst 0) 2 1 = 1) := by decide +kernel

/-- The descriptor of a consuming load, and machines with its word full or not and with waiters of its stack. -/
def consDesc : Desc := { desc0 with acq := true, rel := true }
def consuming (full : Bool) (l : List SyncWait) : State :=
  let s := peering.setFe 0x20010000 full
  s.setStack 0 { s.stackAt 0 with syncs := l }

/-- What a consuming load finds at its word. -/
def atCons (s : State) (full : Bool) (n : Nat) : Bool :=
  finds s (request consDesc []) 0 8 (rRD + rWR) (fun s2 q h =>
    let a := h / 64 * 64
    let z := s2.openLine (s2.keyOf q) a
    decide (s2.fld 11 0 0x808 3 1 = 0) && !z.lineBad a && decide (z.feBit a = full) && decide ((z.stackAt (a / 2 ^ 36)).syncs.length = n) &&
      decide ((z.stackAt (a / 2 ^ 36)).syncs.any (fun w => w.hpa == a && !w.store) = decide (0 < n))) = some (.inr true)

/-- Requests of other devices: a consuming load that its window takes or refuses, an addition at a barrier object, a count for a mailbox, and a step. -/
theorem witness_PeersMore :
    consRead consDesc = true ∧ consRead desc0 = false ∧ maskEnd consDesc.mask.toNat = 8 ∧
    atCons (consuming true []) true 0 = true ∧ atCons (consuming false []) false 0 = true ∧ atCons (consuming true [{ waiter with store := false }]) true 1 = true ∧
    atCons (consuming false (List.replicate 1024 { waiter with store := false })) false 1024 = true ∧
    finds (peering.setReg 3 0 0x48 0#64) (request consDesc []) 0 8 (rRD + rWR) (fun _ _ _ => true) = some (.inl 1) ∧
    (let p := request desc0 [7#64, BitVec.allOnes 64]
     barAmo p = true ∧ finds peering p 0 16 rWR (fun _ _ _ => true) = some (.inr true) ∧ finds (peering.setReg 3 0 0x48 0#64) p 0 16 rWR (fun _ _ _ => true) = some (.inl 1)) ∧
    (let p := { request desc0 [7#64, BitVec.allOnes 64 - 1#64] with desc := none }
     barAmo p = false ∧ mboxAmo p = true ∧ (peering.accept p).2 = true) ∧
    (let p := request desc0 [7#64]
     barAmo p = false ∧ mboxAmo p = false) ∧
    (let p := copied 0x40#64 0#64 [] true
     isStep p.ctrl = true ∧ (peering.accept p.hdr).2 = true ∧ (windowed.accept p.hdr).2 = false) ∧
    isStep (copied 0#64 0#64 [] true).ctrl = false := by and_intros <;> decide +kernel

end Sys2Proof.Tests
end

section
/-! SUPPORT. Fields of words and registers: what a field reads as after a field of the same or of another register is set. -/
namespace Sys2Proof.Machine

/-! ## Fields of a word -/

/-- A word is the part above a field, the field, and the part below it. -/
theorem toNat_split_field (w : Word) (lo n : Nat) :
    w.toNat = 2 ^ lo * (2 ^ n * (w.toNat / 2 ^ (lo + n)) + bf w lo n) + w.toNat % 2 ^ lo := by
  have hi : w.toNat / 2 ^ lo / 2 ^ n = w.toNat / 2 ^ (lo + n) := by rw [Nat.div_div_eq_div_mul, Nat.pow_add]
  rw [bf, ← hi, Nat.div_add_mod, Nat.div_add_mod]

/-- Setting a field puts the new value between the two other parts. -/
theorem bset_eq_join (w : Word) (lo n v : Nat) :
    bset w lo n v = W (2 ^ lo * (2 ^ n * (w.toNat / 2 ^ (lo + n)) + v % 2 ^ n) + w.toNat % 2 ^ lo) := by
  have hw := toNat_split_field w lo n
  rw [bset]
  congr 1
  rw [Nat.mul_add] at hw ⊢
  rw [Nat.mul_comm (2 ^ lo) (bf w lo n)] at hw
  rw [Nat.mul_comm (2 ^ lo) (v % 2 ^ n)]
  omega

/-- The bits of a word with a field set: those of the value inside the field, those of the word outside it. -/
theorem getLsbD_bset (w : Word) (lo n v i : Nat) :
    (bset w lo n v).getLsbD i = (decide (i < 64) && if lo ≤ i ∧ i < lo + n then v.testBit (i - lo) else w.getLsbD i) := by
  rw [bset_eq_join, BitVec.getLsbD_ofNat, Nat.testBit_two_pow_mul_add _ (Nat.mod_lt _ (Nat.two_pow_pos lo)),
    Nat.testBit_two_pow_mul_add _ (Nat.mod_lt _ (Nat.two_pow_pos n))]
  congr 1
  by_cases below : i < lo
  · simp [below, Nat.not_le.2 below, BitVec.getLsbD]
  · by_cases inside : i < lo + n
    · have : i - lo < n := by omega
      simp [below, Nat.le_of_not_lt below, inside, this]
    · have above : ¬ i - lo < n := by omega
      have hi : i - lo - n + (lo + n) = i := by omega
      simp [below, inside, above, Nat.testBit_div_two_pow, hi, BitVec.getLsbD]

/-- The bits of a field. -/
theorem testBit_bf (w : Word) (lo n j : Nat) : (bf w lo n).testBit j = (decide (j < n) && w.getLsbD (lo + j)) := by
  simp [bf, Nat.testBit_div_two_pow, BitVec.getLsbD, Nat.add_comm]

/-- A field reads as it was set, modulo its width. -/
theorem bf_bset_self (w : Word) {lo n : Nat} (v : Nat) (h : lo + n ≤ 64) : bf (bset w lo n v) lo n = v % 2 ^ n := by
  refine Nat.eq_of_testBit_eq fun j => ?_
  rw [testBit_bf, getLsbD_bset, Nat.testBit_mod_two_pow]
  by_cases hj : j < n
  · have : lo + j < 64 := by omega
    simp [hj, this]
  · simp [hj]

/-- A field apart from the one set reads as before. -/
theorem bf_bset_of_disjoint (w : Word) {lo n lo' n' : Nat} (v : Nat) (h : lo' + n' ≤ lo ∨ lo + n ≤ lo') :
    bf (bset w lo n v) lo' n' = bf w lo' n' := by
  refine Nat.eq_of_testBit_eq fun j => ?_
  rw [testBit_bf, testBit_bf, getLsbD_bset]
  by_cases hj : j < n'
  · have outside : ¬ (lo ≤ lo' + j ∧ lo' + j < lo + n) := by omega
    rw [if_neg outside]
    by_cases h64 : lo' + j < 64
    · simp [h64]
    · simp [h64, BitVec.getLsbD_of_ge w _ (Nat.le_of_not_lt h64)]
  · simp [hj]

/-! ## Fields of the registers of the BAR0 space -/

/-- A field of a register reads as it was set, modulo its width. -/
theorem State.fld_setFld_self (s : State) (b i o : Nat) {lo n : Nat} (v : Nat) (h : lo + n ≤ 64) :
    (s.setFld b i o lo n v).fld b i o lo n = v % 2 ^ n := by
  simp [State.fld, State.setFld, bf_bset_self _ v h]

/-- A field of the same register apart from the one set reads as before. -/
theorem State.fld_setFld_of_disjoint (s : State) (b i o : Nat) {lo n lo' n' : Nat} (v : Nat) (h : lo' + n' ≤ lo ∨ lo + n ≤ lo') :
    (s.setFld b i o lo n v).fld b i o lo' n' = s.fld b i o lo' n' := by
  simp [State.fld, State.setFld, bf_bset_of_disjoint _ v h]

/-- A field of a register of another number reads as before a register is set. -/
theorem State.fld_setReg_ne (s : State) {b i o b' i' o' : Nat} (v : Word) (lo n : Nat) (h : rk b' i' o' ≠ rk b i o) :
    (s.setReg b i o v).fld b' i' o' lo n = s.fld b' i' o' lo n := by
  simp [State.fld, State.reg_setReg_ne s b i o v h]

/-- A register of another number reads as before a field of a register is set. -/
theorem State.reg_setFld_ne (s : State) {b i o b' i' o' : Nat} (lo n v : Nat) (h : rk b' i' o' ≠ rk b i o) :
    (s.setFld b i o lo n v).reg b' i' o' = s.reg b' i' o' :=
  s.reg_setReg_ne b i o _ h

/-- Registers of one block at two offsets are different ones. -/
theorem rk_ne_of_offset {b i o o' : Nat} (h : o' ≠ o) : rk b i o' ≠ rk b i o := fun e => h (rk_inj e)

/-- Registers of two blocks are different ones. -/
theorem rk_ne_of_block {b b' o o' : Nat} (hb : b' ≠ b) (ho : o < 2 ^ 28) (ho' : o' < 2 ^ 28) : rk b' 0 o' ≠ rk b 0 o := by
  unfold rk; omega

end Sys2Proof.Machine
end

section
/-! PROOF. The reset state (spec/01 R17, R20; spec/02 R30; spec/09 R182; spec/11 R230; spec/12 R271): what its registers and memories read as, and the
two statements about it. -/
namespace Sys2Proof.Machine

/-! ## Registers and memory at reset -/

/-- The block and the offset of a register, as its number gives them. -/
theorem rk_parts (b : Nat) {o : Nat} (h : o < 2 ^ 28) : rk b 0 o / 2 ^ 32 = b ∧ rk b 0 o % 2 ^ 28 = o := by
  unfold rk; omega

theorem State.reset_reg (b i o : Nat) : State.reset.reg b i o = regReset (rk b i o) := rfl

/-- A block whose registers all reset to zero (R5, R119). -/
theorem State.reset_fld_partition {o : Nat} (h : o < 2 ^ 28) (lo n : Nat) : State.reset.fld 5 0 o lo n = 0 := by
  obtain ⟨hb, -⟩ := rk_parts 5 h
  have hreg : regReset (rk 5 0 o) = 0#64 := by simp only [regReset, hb]; rfl
  simp [State.fld, State.reset_reg, hreg, bf]

/-- The registers of translation: all zero but the one at 0x10 of each partition (R230). -/
theorem State.reset_reg_translation {o : Nat} (h : o < 2 ^ 28) :
    State.reset.reg 10 0 o = if o % 0x40 = 0x10 then 0x1000001#64 else 0#64 := by
  obtain ⟨hb, ho⟩ := rk_parts 10 h
  simp only [State.reset_reg, regReset, hb, ho]
  rfl

/-- The registers of traps and debug: all zero but the one at 0x818 (R271). -/
theorem State.reset_reg_debug {o : Nat} (h : o < 2 ^ 28) : State.reset.reg 11 0 o = if o = 0x818 then 0xA0#64 else 0#64 := by
  obtain ⟨hb, ho⟩ := rk_parts 11 h
  simp only [State.reset_reg, regReset, hb, ho]
  rfl

/-- The hash masks of every stack are those of the reset registers (R30). -/
theorem State.reset_mask (k i : Nat) : State.reset.mask k i = ((regReset (rk 2 0 (0x10 + 8 * i))).setWidth 40).toNat := rfl

/-! ## Two statements of the reset state -/

/-- Settles O5: memory lists nothing, and each register is read off the table of reset values. -/
theorem resetValues : Obligations.ResetValues := by
  unfold Obligations.ResetValues
  refine ⟨fun a => ⟨rfl, rfl, rfl, rfl⟩, fun q hq => ⟨?_, ?_⟩, by decide, fun k _ => ?_, fun q hq => ⟨?_, ?_, ?_⟩, ?_, fun n => rfl⟩
  · exact State.reset_fld_partition (by omega) 0 1
  · simp [State.running, State.reset_fld_partition (o := 0x40 * q) (by omega)]
  · simp only [State.reset_mask]
    decide
  · rw [State.reset_reg_translation (by omega), if_neg (by omega)]
  · rw [State.reset_reg_translation (by omega), if_pos (by omega)]
  · rw [State.reset_reg_debug (by omega), if_neg (by omega)]
  · rw [State.reset_reg_debug (by omega), if_pos rfl]

/-- Settles O6: no memory lists an entry at reset. -/
theorem canonicalAtReset : Obligations.CanonicalAtReset := State.memWf_reset

end Sys2Proof.Machine
end

section
/-! SUPPORT. What the thermal events share: readings of the sensors, thermal records, and the notification of a partition without a fault server. -/
namespace Sys2Proof.Machine

/-! ## What is read of a die, a register and the sensors -/

@[simp] theorem State.dieAt_setFld (s : State) (b i o lo n v d : Nat) : (s.setFld b i o lo n v).dieAt d = s.dieAt d := rfl
@[simp] theorem State.dieAt_setReg (s : State) (b i o : Nat) (v : Word) (d : Nat) : (s.setReg b i o v).dieAt d = s.dieAt d := rfl
@[simp] theorem State.fld_setDie (s : State) (d : Nat) (x : Die) (b i o lo n : Nat) : (s.setDie d x).fld b i o lo n = s.fld b i o lo n := rfl

/-- A converted temperature as a signed number of sixteenths of a degree. -/
theorem sInt_toNat (temp : BitVec 16) : sInt 16 temp.toNat = temp.toInt := by
  have h := temp.isLt
  rw [sInt, BitVec.toInt_eq_toNat_cond]
  split <;> split <;> omega

/-- Some sensor reads as `p` says. -/
theorem State.anyTemp_iff (s : State) (d : Nat) (p : Int → Prop) [DecidablePred p] :
    s.anyTemp d (fun t => decide (p t)) = true ↔ ∃ m, m < 8 ∧ p (s.temp d m) := by
  simp [State.anyTemp]

/-- Every sensor reads as `p` says. -/
theorem State.allTemp_iff (s : State) (d : Nat) (p : Int → Prop) [DecidablePred p] :
    s.allTemp d (fun t => decide (p t)) = true ↔ ∀ m, m < 8 → p (s.temp d m) := by
  simp [State.allTemp]

theorem State.dieHalted_iff (s : State) (d : Nat) : s.dieHalted d = true ↔ s.fld 1 0 (0x200 + 8 * d) 3 1 = 1 := by
  simp [State.dieHalted]

theorem State.warmMode_iff (s : State) : s.warmMode = true ↔ s.fld 1 0 0x300 0 2 = 1 := by
  simp [State.warmMode]

/-! ## Cells and memory left alone -/

theorem cellsSame_refl (s : State) : CellsSame s s := ⟨rfl, rfl, rfl, rfl⟩

theorem cellsSame_trans {s t u : State} (h1 : CellsSame s t) (h2 : CellsSame t u) : CellsSame s u := by
  obtain ⟨a1, b1, c1, d1⟩ := h1
  obtain ⟨a2, b2, c2, d2⟩ := h2
  exact ⟨a2.trans a1, b2.trans b1, c2.trans c1, d2.trans d1⟩

/-- A thermal record changes the die's events and vector 1, and neither a register nor a cell. -/
@[simp] theorem State.thermal_fld (s : State) (d code n b i o lo w : Nat) : (s.thermal d code n).fld b i o lo w = s.fld b i o lo w := rfl
theorem State.thermal_cellsSame (s : State) (d code n : Nat) : CellsSame s (s.thermal d code n) := ⟨rfl, rfl, rfl, rfl⟩

theorem State.dieAt_thermal (s : State) (d code n : Nat) : (s.thermal d code n).dieAt d = { s.dieAt d with
    events := (s.dieAt d).events ++ [{ kind := 0x20#8, code := BitVec.ofNat 8 code, data := BitVec.ofNat 32 (8 * d + n), w1 := s.devWord d }] } :=
  State.dieAt_setDie_self s d _

/-- A bit of PARTSTAT set changes registers of partitions only, and a vector. -/
theorem State.partStat_frame (s : State) (q bit : Nat) :
    CellsSame s (s.partStat q bit) ∧ (s.partStat q bit).dies = s.dies ∧ (s.partStat q bit).parts = s.parts := by
  unfold State.partStat
  split
  · exact ⟨cellsSame_refl s, rfl, rfl⟩
  · exact ⟨⟨rfl, rfl, rfl, rfl⟩, rfl, rfl⟩

theorem State.partStat_fld_power (s : State) {q o : Nat} (bit lo n : Nat) (hq : q < 8) (ho : o < 2 ^ 28) :
    (s.partStat q bit).fld 1 0 o lo n = s.fld 1 0 o lo n := by
  unfold State.partStat
  split
  · rfl
  · exact s.fld_setReg_ne _ lo n (rk_ne_of_block (by decide) (by omega) ho)

/-! ## A notification without a server (R122, R260) -/

/-- Without a server NOFS is set, and the partition keeps the frame for no server. -/
theorem State.notify_noServer {s : State} {q : Nat} (d cause faddr : Nat) (h : s.server q = none) : s.notify d cause faddr q =
    ((s.note d cause faddr q).2.partStat q 3).keepNote q (s.note d cause faddr q).1 none := by
  have h' : (s.note d cause faddr q).2.server q = none := h
  simp only [State.notify, State.offerFrame, h', Option.or_none]

theorem State.server_none {s : State} {q : Nat} (h : s.fld 5 0 (0x40 * q + 0x18) 16 1 = 0) : s.server q = none := by
  unfold State.server
  exact if_pos h

theorem State.partOfDie_lt {s : State} {d q : Nat} (h : s.partOfDie d = some q) : q < 8 :=
  List.mem_range.1 (List.mem_of_find?_eq_some h)

/-- A notification of the running partition of a die that names no server: it is kept, and cells, memory, dies and the registers of power are
as before. -/
theorem State.notifyDie_noServer {s : State} {d cause faddr : Nat} (hc : cause < 256) (h : NoServer s d) :
    CellsSame s (s.notifyDie d cause faddr) ∧ (∀ e, (s.notifyDie d cause faddr).dieAt e = s.dieAt e) ∧
    (∀ o lo n, o < 2 ^ 28 → (s.notifyDie d cause faddr).fld 1 0 o lo n = s.fld 1 0 o lo n) ∧ Notified s (s.notifyDie d cause faddr) d cause faddr := by
  cases hp : s.partOfDie d with
  | none => simp [State.notifyDie, hp, Notified, cellsSame_refl]
  | some q =>
    cases hr : s.running q with
    | false =>
      have hn : s.notifyDie d cause faddr = s := by simp [State.notifyDie, hp, hr]
      rw [hn]
      refine ⟨cellsSame_refl s, fun _ => rfl, fun _ _ _ _ => rfl, fun p hp' hr' => ?_⟩
      obtain rfl : q = p := Option.some.inj (hp.symm.trans hp')
      simp [hr] at hr'
    | true =>
      have hn : s.notifyDie d cause faddr = s.notify d cause faddr q := by simp [State.notifyDie, hp, hr]
      rw [hn, State.notify_noServer d cause faddr (State.server_none (h q hp hr))]
      obtain ⟨hcells, hdies, hparts⟩ := State.partStat_frame (s.note d cause faddr q).2 q 3
      refine ⟨hcells, fun e => ?_, fun o lo n ho => ?_, fun p hp' _ => ⟨(s.note d cause faddr q).1, ?_, rfl, ?_, rfl, rfl⟩⟩
      · exact congrArg (fun ds => tget (fun _ => Die.init) ds e) hdies
      · exact State.partStat_fld_power (s.note d cause faddr q).2 3 lo n (State.partOfDie_lt hp) ho
      · obtain rfl : q = p := Option.some.inj (hp.symm.trans hp')
        have hq : ((s.note d cause faddr q).2.partStat q 3).partAt q = s.partAt q :=
          congrArg (fun ps => tget (fun _ => Part.init) ps q) hparts
        simp [State.keepNote, hq]
      · exact Nat.mod_eq_of_lt hc

/-- Whether a notification goes to a server depends on the registers of the partitions. -/
theorem State.partOfDie_congr {s t : State} (h : ∀ o lo n, t.fld 5 0 o lo n = s.fld 5 0 o lo n) (d : Nat) : t.partOfDie d = s.partOfDie d := by
  simp only [State.partOfDie, State.dieIn, h]

theorem State.running_congr {s t : State} (h : ∀ o lo n, t.fld 5 0 o lo n = s.fld 5 0 o lo n) (q : Nat) : t.running q = s.running q := by
  simp only [State.running, h]

theorem noServer_congr {s t : State} {d : Nat} (h : ∀ o lo n, t.fld 5 0 o lo n = s.fld 5 0 o lo n) (hs : NoServer s d) : NoServer t d := by
  intro q hp hr
  rw [State.partOfDie_congr h] at hp
  rw [State.running_congr h] at hr
  rw [h]
  exact hs q hp hr

/-- A notification kept after a change of neither the registers nor the frames of the partitions is one kept before it. -/
theorem notified_congr {s t u : State} {d cause faddr : Nat} (h : ∀ o lo n, t.fld 5 0 o lo n = s.fld 5 0 o lo n) (hn : t.parts = s.parts)
    (hu : Notified t u d cause faddr) : Notified s u d cause faddr := by
  intro q hp hr
  rw [← State.partOfDie_congr h] at hp
  rw [← State.running_congr h] at hr
  obtain ⟨f, hf⟩ := hu q hp hr
  have hq : t.partAt q = s.partAt q := congrArg (fun ps => tget (fun _ => Part.init) ps q) hn
  exact ⟨f, hq ▸ hf⟩

end Sys2Proof.Machine
end

section
/-! PROOF. The sensors and the thermal loops (spec/01 R10 to R20): what each event does, and the statement about them. -/
namespace Sys2Proof.Machine

/-! ## A conversion and the warn point (R13, R17) -/

/-- The warn point reached: WARN is set, and the first time is recorded. -/
def State.warnAt (s : State) (d n : Nat) : State :=
  let s1 := s.setFld 1 0 (0x200 + 8 * d) 0 1 1
  if (s.dieAt d).warned then s1 else (s1.setDie d { s.dieAt d with warned := true }).thermal d 1 n

/-- The warn point armed again where every sensor is below 97 degrees. -/
def State.rearmWarn (s : State) (d : Nat) : State :=
  if s.allTemp d (fun t => decide (t < deg 97)) then s.setDie d { s.dieAt d with warned := false } else s

theorem exec_sensorConversion (d n : Nat) (temp : BitVec 16) (s : State) : exec (.sensorConversion d n temp) s =
    let s1 := s.setReg 1 0 (0x40 * d + 8 * n) (W (2 ^ 16 + temp.toNat))
    .next ((if 1600 ≤ temp.toInt then s1.warnAt d n else s1).rearmWarn d) := by
  show execSensorConversion d n temp s = _
  have hdeg : (deg 100 ≤ sInt 16 temp.toNat) = (1600 ≤ temp.toInt) := by rw [sInt_toNat]; rfl
  unfold execSensorConversion State.rearmWarn State.warnAt
  by_cases hot : 1600 ≤ temp.toInt
  · cases hw : (s.dieAt d).warned <;> simp [hdeg, hot, hw]
  · simp [hdeg, hot]

/-- Arming the warn point changes nothing but the mark. -/
theorem State.rearmWarn_frame (s : State) (d : Nat) : CellsSame s (s.rearmWarn d) ∧ (s.rearmWarn d).regs = s.regs ∧ (s.rearmWarn d).msix = s.msix ∧
    ((s.rearmWarn d).dieAt d).events = (s.dieAt d).events := by
  unfold State.rearmWarn
  split
  · exact ⟨⟨rfl, rfl, rfl, rfl⟩, rfl, rfl, by simp⟩
  · exact ⟨cellsSame_refl s, rfl, rfl, rfl⟩

/-- At the warn point the registers change in WARN of the die only, and cells and memory do not. -/
theorem State.warnAt_frame (s : State) (d n : Nat) : CellsSame s (s.warnAt d n) ∧ (s.warnAt d n).regs = (s.setFld 1 0 (0x200 + 8 * d) 0 1 1).regs := by
  unfold State.warnAt
  simp only
  split <;> exact ⟨⟨rfl, rfl, rfl, rfl⟩, rfl⟩

/-- The first time at the warn point is recorded with code 1 and raises vector 1. -/
theorem State.warnAt_records {s : State} {d : Nat} (n : Nat) (h : (s.dieAt d).warned = false) : (s.warnAt d n).msix = s.msix ||| 2#16 ∧
    ∃ e, ((s.warnAt d n).dieAt d).events = (s.dieAt d).events ++ [e] ∧ e.kind = 0x20#8 ∧ e.code = 1#8 := by
  have hw : s.warnAt d n = ((s.setFld 1 0 (0x200 + 8 * d) 0 1 1).setDie d { s.dieAt d with warned := true }).thermal d 1 n := by
    simp [State.warnAt, h]
  refine ⟨by rw [hw]; rfl, ?_⟩
  rw [hw, State.dieAt_thermal, State.dieAt_setDie_self]
  exact ⟨_, rfl, rfl, rfl⟩

/-- R13, R17: what a conversion does. -/
theorem sensorConversion_completes (s : State) {d n : Nat} (temp : BitVec 16) (hd : d < 8) (hn : n < 8) : Completes (.sensorConversion d n temp) s fun t =>
    CellsSame s t ∧ t.reg 1 0 (0x40 * d + 8 * n) = W (2 ^ 16 + temp.toNat) ∧
    (1600 ≤ temp.toInt → t.fld 1 0 (0x200 + 8 * d) 0 1 = 1 ∧ ((s.dieAt d).warned = false → t.msix = s.msix ||| 2#16 ∧
      ∃ e, (t.dieAt d).events = (s.dieAt d).events ++ [e] ∧ e.kind = 0x20#8 ∧ e.code = 1#8)) ∧
    (temp.toInt < 1600 → t.fld 1 0 (0x200 + 8 * d) 0 1 = s.fld 1 0 (0x200 + 8 * d) 0 1 ∧ t.msix = s.msix) := by
  refine ⟨_, exec_sensorConversion d n temp s, ?_⟩
  have hne : rk 1 0 (0x40 * d + 8 * n) ≠ rk 1 0 (0x200 + 8 * d) := rk_ne_of_offset (by omega)
  by_cases hot : 1600 ≤ temp.toInt
  · rw [if_pos hot]
    generalize hs1 : s.setReg 1 0 (0x40 * d + 8 * n) (W (2 ^ 16 + temp.toNat)) = s1
    obtain ⟨hcells, hregs, hmsix, hevents⟩ := (s1.warnAt d n).rearmWarn_frame d
    obtain ⟨hcells', hregs'⟩ := s1.warnAt_frame d n
    have hs1c : CellsSame s s1 := hs1 ▸ ⟨rfl, rfl, rfl, rfl⟩
    refine ⟨cellsSame_trans hs1c (cellsSame_trans hcells' hcells), ?_, fun _ => ⟨?_, fun hw => ?_⟩, fun h => absurd hot (by omega)⟩
    · rw [State.reg_of_regs (hregs.trans hregs'), State.reg_setFld_ne s1 0 1 1 hne, ← hs1, State.reg_setReg_self]
    · rw [State.fld_of_regs (hregs.trans hregs')]
      exact State.fld_setFld_self s1 1 0 _ 1 (by decide)
    · have hw1 : (s1.dieAt d).warned = false := by rw [← hs1]; exact hw
      obtain ⟨hm, e, he, hkind⟩ := State.warnAt_records n hw1
      refine ⟨by rw [hmsix, hm, ← hs1, State.setReg_msix], e, by rw [hevents, he, ← hs1, State.dieAt_setReg], hkind⟩
  · rw [if_neg hot]
    obtain ⟨hcells, hregs, hmsix, -⟩ := (s.setReg 1 0 (0x40 * d + 8 * n) (W (2 ^ 16 + temp.toNat))).rearmWarn_frame d
    refine ⟨hcells, ?_, fun h => absurd h hot, fun _ => ⟨?_, hmsix⟩⟩
    · rw [State.reg_of_regs hregs, State.reg_setReg_self]
    · rw [State.fld_of_regs hregs, State.fld_setReg_ne s _ 0 1 hne.symm]

/-! ## The critical point (R14) -/

/-- CRIT, HALTED and THROT set, and the throttle demand held at its largest. -/
def State.criticalStop (s : State) (d : Nat) : State :=
  let s1 := (s.setFld 1 0 (0x200 + 8 * d) 2 1 1).setFld 1 0 (0x200 + 8 * d) 3 1 1
  (s1.setDie d { s1.dieAt d with throttle := 17 }).setFld 1 0 (0x200 + 8 * d) 1 1 1

theorem exec_criticalHalt_hot {s : State} {d : Nat} (h : ∃ m, m < 8 ∧ 16 * 118 ≤ s.temp d m) :
    ∃ n, exec (.criticalHalt d) s = .next (((s.criticalStop d).thermal d 3 n).notifyDie d 0x20 d) := by
  have hot : s.anyTemp d (fun t => decide (deg 118 ≤ t)) = true := (s.anyTemp_iff d _).2 h
  exact ⟨((List.range 8).find? fun n => decide (deg 118 ≤ s.temp d n)).getD 0,
    by show execCriticalHalt d s = _; simp only [execCriticalHalt, hot, State.criticalStop]; rfl⟩

theorem exec_criticalHalt_cool {s : State} {d : Nat} (h : ¬ ∃ m, m < 8 ∧ 16 * 118 ≤ s.temp d m) : exec (.criticalHalt d) s = .next s := by
  have cool : s.anyTemp d (fun t => decide (deg 118 ≤ t)) = false := Bool.eq_false_iff.2 fun hot => h ((s.anyTemp_iff d _).1 hot)
  show execCriticalHalt d s = _
  simp [execCriticalHalt, cool]

/-- A die stopped at the critical point has the three bits set and the demand of 17. -/
theorem State.criticalStop_spec (s : State) (d : Nat) : CellsSame s (s.criticalStop d) ∧ (∀ b, b = 1 ∨ b = 2 ∨ b = 3 →
    (s.criticalStop d).fld 1 0 (0x200 + 8 * d) b 1 = 1) ∧ ((s.criticalStop d).dieAt d).throttle = 17 := by
  refine ⟨⟨rfl, rfl, rfl, rfl⟩, ?_, by simp [State.criticalStop]⟩
  rintro b (rfl | rfl | rfl)
  · exact State.fld_setFld_self _ 1 0 _ 1 (by decide)
  · simp [State.criticalStop, State.fld_setFld_of_disjoint, State.fld_setFld_self]
  · simp [State.criticalStop, State.fld_setFld_of_disjoint, State.fld_setFld_self]

/-- Neither the registers nor the frames of partitions change at the critical point. -/
theorem State.criticalStop_partitions (s : State) {d : Nat} (hd : d < 8) :
    (∀ o lo n, (s.criticalStop d).fld 5 0 o lo n = s.fld 5 0 o lo n) ∧ (s.criticalStop d).parts = s.parts := by
  refine ⟨fun o lo n => ?_, rfl⟩
  have hne : rk 5 0 o ≠ rk 1 0 (0x200 + 8 * d) := by unfold rk; omega
  simp [State.criticalStop, State.setFld, State.fld_setReg_ne _ _ lo n hne]

/-- R14, R260: what a halt at the critical point does. -/
theorem criticalHalt_completes {s : State} {d : Nat} (hd : d < 8) (hot : ∃ m, m < 8 ∧ 16 * 118 ≤ s.temp d m) (hs : NoServer s d) :
    Completes (.criticalHalt d) s fun t => CellsSame s t ∧ t.fld 1 0 (0x200 + 8 * d) 1 1 = 1 ∧ t.fld 1 0 (0x200 + 8 * d) 2 1 = 1 ∧
      t.fld 1 0 (0x200 + 8 * d) 3 1 = 1 ∧ (t.dieAt d).throttle = 17 ∧ Notified s t d 0x20 d := by
  obtain ⟨n, hexec⟩ := exec_criticalHalt_hot hot
  obtain ⟨hcells, hbits, hthrottle⟩ := s.criticalStop_spec d
  obtain ⟨hfld, hparts⟩ := s.criticalStop_partitions hd
  have hs' : NoServer ((s.criticalStop d).thermal d 3 n) d := noServer_congr (s := s) hfld hs
  obtain ⟨hcells', hdies, hregs, hnote⟩ := State.notifyDie_noServer (cause := 0x20) (faddr := d) (by decide) hs'
  have bit : ∀ b, b = 1 ∨ b = 2 ∨ b = 3 → (((s.criticalStop d).thermal d 3 n).notifyDie d 0x20 d).fld 1 0 (0x200 + 8 * d) b 1 = 1 := fun b hb => by
    rw [hregs _ b 1 (by omega), State.thermal_fld, hbits b hb]
  refine ⟨_, hexec, cellsSame_trans hcells hcells', bit 1 (by simp), bit 2 (by simp), bit 3 (by simp), ?_, notified_congr (s := s) hfld hparts hnote⟩
  rw [hdies, State.dieAt_thermal]
  exact hthrottle

/-- R14: a halted die resumes. -/
theorem criticalResume_completes {s : State} {d : Nat} (hh : s.fld 1 0 (0x200 + 8 * d) 3 1 = 1) (cool : ∀ m, m < 8 → s.temp d m ≤ 1600)
    (hcrit : s.fld 1 0 (0x200 + 8 * d) 2 1 = 0) :
    Completes (.criticalResume d) s fun t => CellsSame s t ∧ t.fld 1 0 (0x200 + 8 * d) 3 1 = 0 := by
  have hall : s.allTemp d (fun t => decide (t ≤ deg 100)) = true := (s.allTemp_iff d _).2 cool
  refine ⟨s.setFld 1 0 (0x200 + 8 * d) 3 1 0, ?_, ⟨rfl, rfl, rfl, rfl⟩, State.fld_setFld_self s 1 0 _ 0 (by decide)⟩
  show execCriticalResume d s = _
  simp [execCriticalResume, (s.dieHalted_iff d).2 hh, hall, hcrit]

/-! ## Throttling (R12) -/

/-- One step down from the throttle demand, or from the applied step where there is none, with THROT set. -/
def State.stepDown (s : State) (d : Nat) : State :=
  let x := s.dieAt d
  (s.setDie d { x with throttle := min (if x.throttle = 0 then s.clockStep d + 1 else x.throttle + 1) 17 }).setFld 1 0 (0x200 + 8 * d) 1 1 1

theorem exec_throttleStepDown_hot {s : State} {d : Nat} (h : ∃ m, m < 8 ∧ 16 * 108 ≤ s.temp d m) : ∃ n,
    exec (.throttleStepDown d) s = .next (if (s.dieAt d).throttle = 0 then (s.stepDown d).thermal d 2 n else s.stepDown d) := by
  have hot : s.anyTemp d (fun t => decide (deg 108 ≤ t)) = true := (s.anyTemp_iff d _).2 h
  exact ⟨((List.range 8).find? fun n => decide (deg 108 ≤ s.temp d n)).getD 0,
    by show execThrottleStepDown d s = _; simp only [execThrottleStepDown, hot, State.stepDown]; rfl⟩

theorem State.stepDown_spec (s : State) (d : Nat) : CellsSame s (s.stepDown d) ∧ (s.stepDown d).fld 1 0 (0x200 + 8 * d) 1 1 = 1 ∧
    ((s.stepDown d).dieAt d).throttle = min ((if (s.dieAt d).throttle = 0 then s.fld 1 0 (0x200 + 8 * d) 8 5 else (s.dieAt d).throttle) + 1) 17 := by
  refine ⟨⟨rfl, rfl, rfl, rfl⟩, State.fld_setFld_self _ 1 0 _ 1 (by decide), ?_⟩
  by_cases first : (s.dieAt d).throttle = 0
  · simp [State.stepDown, State.clockStep, first]
  · simp [State.stepDown, first]

/-- R12: a step down. -/
theorem throttleStepDown_completes {s : State} {d : Nat} (h : ∃ m, m < 8 ∧ 16 * 108 ≤ s.temp d m) :
    Completes (.throttleStepDown d) s fun t => CellsSame s t ∧ t.fld 1 0 (0x200 + 8 * d) 1 1 = 1 ∧ (t.dieAt d).throttle =
      min ((if (s.dieAt d).throttle = 0 then s.fld 1 0 (0x200 + 8 * d) 8 5 else (s.dieAt d).throttle) + 1) 17 := by
  obtain ⟨n, hexec⟩ := exec_throttleStepDown_hot h
  obtain ⟨hcells, hthrot, hdemand⟩ := s.stepDown_spec d
  by_cases first : (s.dieAt d).throttle = 0
  · rw [if_pos first] at hexec
    exact ⟨_, hexec, cellsSame_trans hcells (State.thermal_cellsSame _ d 2 n), hthrot, by rw [State.dieAt_thermal]; exact hdemand⟩
  · rw [if_neg first] at hexec
    exact ⟨_, hexec, hcells, hthrot, hdemand⟩

/-- R12, R14: a step up. -/
theorem throttleStepUp_completes {s : State} {d : Nat} (h : ¬ ∃ m, m < 8 ∧ 16 * 105 ≤ s.temp d m) (hh : ¬ s.fld 1 0 (0x200 + 8 * d) 3 1 = 1) :
    Completes (.throttleStepUp d) s fun t => CellsSame s t ∧ (t.dieAt d).throttle = (s.dieAt d).throttle - 1 := by
  have cool : s.allTemp d (fun t => decide (t < deg 105)) = true := (s.allTemp_iff d _).2 fun m hm => Int.not_le.1 fun e => h ⟨m, hm, e⟩
  have running : s.dieHalted d = false := Bool.eq_false_iff.2 fun e => hh ((s.dieHalted_iff d).1 e)
  refine ⟨s.setDie d { s.dieAt d with throttle := (s.dieAt d).throttle - 1 }, ?_, ⟨rfl, rfl, rfl, rfl⟩, by simp⟩
  show execThrottleStepUp d s = _
  simp [execThrottleStepUp, cool, running]

/-! ## Warm mode, the power limit and the applied step (R10 to R12) -/

/-- R11, R12: the warm loop in Warm mode. -/
theorem warmLoopEval_warm {s : State} {d : Nat} (h : s.fld 1 0 0x300 0 2 = 1) :
    Completes (.warmLoopEval d) s fun t => CellsSame s t ∧ (t.dieAt d).warm =
      if ∃ m, m < 8 ∧ 16 * 105 < s.temp d m then min ((s.dieAt d).warm + 1) 17
      else if ∀ m, m < 8 → s.temp d m ≤ 16 * 103 then (s.dieAt d).warm - 1 else (s.dieAt d).warm := by
  have hmode := s.warmMode_iff.2 h
  have hot : s.anyTemp d (fun t => decide (deg 105 < t)) = true ↔ ∃ m, m < 8 ∧ 16 * 105 < s.temp d m := s.anyTemp_iff d _
  have cool : s.allTemp d (fun t => decide (t ≤ deg 103)) = true ↔ ∀ m, m < 8 → s.temp d m ≤ 16 * 103 := s.allTemp_iff d _
  refine ⟨_, by show execWarmLoopEval d s = _; simp only [execWarmLoopEval, hmode]; rfl, ?_⟩
  simp only [← hot, ← cool, Bool.not_true, Bool.false_eq_true, if_false]
  split
  · exact ⟨⟨rfl, rfl, rfl, rfl⟩, by simp⟩
  · split
    · exact ⟨⟨rfl, rfl, rfl, rfl⟩, by simp⟩
    · exact ⟨cellsSame_refl s, rfl⟩

/-- R12: outside Warm mode the loop has no demand (log 65). -/
theorem warmLoopEval_other {s : State} {d : Nat} (h : s.fld 1 0 0x300 0 2 ≠ 1) : Completes (.warmLoopEval d) s fun t => (t.dieAt d).warm = 0 := by
  have hmode : s.warmMode = false := Bool.eq_false_iff.2 fun e => h (s.warmMode_iff.1 e)
  refine ⟨s.setDie d { s.dieAt d with warm := 0 }, ?_, by simp⟩
  show execWarmLoopEval d s = _
  simp [execWarmLoopEval, hmode]

/-- Only die `d` changes, and it as `F` says. -/
def ChangesDie (F : Die → Die) (d : Nat) (s t : State) : Prop :=
  { t with dies := s.dies } = s ∧ ∀ e, t.dieAt e = if e = d then F (s.dieAt e) else s.dieAt e

theorem changesDie_setDie (s : State) (d : Nat) (F : Die → Die) : ChangesDie F d s (s.setDie d (F (s.dieAt d))) := by
  refine ⟨rfl, fun e => ?_⟩
  rw [State.dieAt_setDie]
  split
  · subst_vars; rfl
  · rfl

/-- A loop over different dies each round of which changes one die: only dies change, each as its round says. -/
theorem foldl_changesDies {g : State → Nat → State} {F : Nat → Die → Die} {regs : Tab Word}
    (hg : ∀ s, s.regs = regs → ∀ d, ChangesDie (F d) d s (g s d)) (l : List Nat) (hl : l.Nodup) (s : State) (hs : s.regs = regs) :
    { l.foldl g s with dies := s.dies } = s ∧ ∀ e, (l.foldl g s).dieAt e = if e ∈ l then F e (s.dieAt e) else s.dieAt e := by
  induction l generalizing s with
  | nil => exact ⟨rfl, fun e => by simp⟩
  | cons d r ih =>
    obtain ⟨hd, hr⟩ := List.nodup_cons.1 hl
    obtain ⟨hframe, hdie⟩ := hg s hs d
    have hregs : (g s d).regs = s.regs := by have := congrArg State.regs hframe; exact this
    obtain ⟨hframe', hdie'⟩ := ih hr (g s d) (hregs.trans hs)
    refine ⟨?_, fun e => ?_⟩
    · have := congrArg (fun t : State => ({ t with dies := s.dies } : State)) hframe'
      exact this.trans hframe
    · rw [List.foldl_cons, hdie' e, hdie e]
      by_cases he : e = d
      · subst he; simp [hd]
      · simp [he]

/-- Where only dies change, the cells, the memory and the registers are as before. -/
theorem cellsSame_of_dies {s t : State} (h : { t with dies := s.dies } = s) : CellsSame s t ∧ t.regs = s.regs :=
  ⟨⟨by have := congrArg State.cells h; exact this, by have := congrArg State.hbm h; exact this,
    by have := congrArg State.lines h; exact this, by have := congrArg State.hostMem h; exact this⟩, by have := congrArg State.regs h; exact this⟩

/-- The power loop's round for one die: the state after a window of `w` watts. -/
def State.powerStep (w : Nat) (s : State) (d : Nat) : State :=
  let x := s.dieAt d
  if 4800 < w then s.setDie d { x with power := min (x.power + 1) 17 }
  else if w < 4656 then s.setDie d { x with power := x.power - 1 }
  else s

/-- What that round does to the die. -/
def Die.powerStep (w : Nat) (x : Die) : Die :=
  { x with power := if 4800 < w then min (x.power + 1) 17 else if w < 4656 then x.power - 1 else x.power }

theorem State.powerStep_changesDie (w : Nat) (s : State) (d : Nat) : ChangesDie (Die.powerStep w) d s (s.powerStep w d) := by
  by_cases above : 4800 < w
  · simpa [State.powerStep, Die.powerStep, above] using changesDie_setDie s d (Die.powerStep w)
  · by_cases below : w < 4656
    · simpa [State.powerStep, Die.powerStep, above, below] using changesDie_setDie s d (Die.powerStep w)
    · have same : ∀ x : Die, x.powerStep w = x := fun x => by simp [Die.powerStep, above, below]
      exact ⟨by simp [State.powerStep, above, below], fun e => by simp [State.powerStep, same, above, below]⟩

/-- R12: the power limit moves every die's demand. -/
theorem powerLimitEval_completes (s : State) {d : Nat} (w : BitVec 16) (hd : d < 8) : Completes (.powerLimitEval w) s fun t =>
    CellsSame s t ∧ t.reg 1 0 0x310 = w.setWidth 64 ∧ (t.dieAt d).power =
      if 4800 < w.toNat then min ((s.dieAt d).power + 1) 17 else if w.toNat < 4656 then (s.dieAt d).power - 1 else (s.dieAt d).power := by
  refine ⟨(List.range 8).foldl (State.powerStep w.toNat) (s.setReg 1 0 0x310 (w.setWidth 64)), rfl, ?_⟩
  obtain ⟨hframe, hdies⟩ := foldl_changesDies (fun s _ => s.powerStep_changesDie w.toNat) (List.range 8) List.nodup_range
    (s.setReg 1 0 0x310 (w.setWidth 64)) rfl
  obtain ⟨hcells, hregs⟩ := cellsSame_of_dies hframe
  refine ⟨hcells, ?_, ?_⟩
  · rw [State.reg_of_regs hregs, State.reg_setReg_self]
  · rw [hdies d, if_pos (List.mem_range.2 hd), State.dieAt_setReg, Die.powerStep]

/-- R10, R12: the largest demand takes effect. -/
theorem clockStepApply_completes {s : State} {d : Nat} (ht : (s.dieAt d).throttle < 32) (hw : (s.dieAt d).warm < 32) (hp : (s.dieAt d).power < 32) :
    Completes (.clockStepApply d) s fun t => CellsSame s t ∧ t.fld 1 0 (0x200 + 8 * d) 8 5 =
      max (s.dieAt d).throttle (max (if s.fld 1 0 0x300 0 2 = 1 then (s.dieAt d).warm else 0) (s.dieAt d).power) := by
  refine ⟨_, rfl, ⟨rfl, rfl, rfl, rfl⟩, ?_⟩
  rw [State.fld_setFld_self s 1 0 _ _ (by decide)]
  simp only [State.demand, State.warmMode_iff]
  refine Nat.mod_eq_of_lt ?_
  split <;> omega

/-! ## Ballast (R15, R16) -/

/-- R15: every die takes its setpoint and its measured power. -/
theorem ballastSetpoint_completes (s : State) {d : Nat} (n : Nat) (pw : List Nat) (hd : d < 8) : Completes (.ballastSetpoint n pw) s fun t =>
    CellsSame s t ∧ (t.dieAt d).setpoint = (s.setpoint : Int) - n ∧ (t.dieAt d).watts = pw.getD d 0 := by
  refine ⟨_, rfl, ?_⟩
  obtain ⟨hframe, hdies⟩ := foldl_changesDies (F := fun d x => { x with setpoint := (s.setpoint : Int) - n, watts := pw.getD d 0 }) (regs := s.regs)
    (g := fun s d => s.setDie d { s.dieAt d with setpoint := (s.setpoint : Int) - n, watts := pw.getD d 0 })
    (fun t ht d => by
      have hsp : t.setpoint = s.setpoint := by simp only [State.setpoint, State.fld_of_regs ht]
      rw [hsp]
      exact changesDie_setDie t d _)
    (List.range 8) List.nodup_range s rfl
  refine ⟨(cellsSame_of_dies hframe).1, ?_⟩
  rw [hdies d, if_pos (List.mem_range.2 hd)]
  exact ⟨rfl, rfl⟩

/-- R16, R17: the window's average against the band. -/
theorem ballastWindow_completes (s : State) (n : Nat) : Completes (.ballastWindow n) s fun t =>
    CellsSame s t ∧ (t.fld 1 0 0x318 0 1 = 1 ↔ 50 * ((n : Int) - s.setpoint).natAbs ≤ s.setpoint) ∧
      t.fld 1 0 0x318 1 1 = if 50 * ((n : Int) - s.setpoint).natAbs ≤ s.setpoint then s.fld 1 0 0x318 1 1 else 1 := by
  refine ⟨_, rfl, ?_⟩
  by_cases within : 50 * ((n : Int) - s.setpoint).natAbs ≤ s.setpoint <;>
    simp [within, State.fld_setFld_self, State.fld_setFld_of_disjoint, CellsSame]

/-! ## Refresh (R19) and release (R20) -/

/-- What a ladder of thresholds gives is at least `r` where the threshold of `r` is passed. -/
theorem le_ladder_iff {p : Nat → Prop} [DecidablePred p] (hp : ∀ i j, i ≤ j → p j → p i) {r : Nat} (h1 : 1 ≤ r) (h3 : r ≤ 3) :
    r ≤ (if p 3 then 3 else if p 2 then 2 else if p 1 then 1 else 0) ↔ p r := by
  by_cases p3 : p 3
  · rw [if_pos p3]
    exact ⟨fun h => hp r 3 h p3, fun _ => h3⟩
  · rw [if_neg p3]
    by_cases p2 : p 2
    · rw [if_pos p2]
      exact ⟨fun h => hp r 2 h p2, fun h => Nat.le_of_not_lt fun above => p3 (hp 3 r above h)⟩
    · rw [if_neg p2]
      by_cases p1 : p 1
      · rw [if_pos p1]
        exact ⟨fun h => hp r 1 h p1, fun h => Nat.le_of_not_lt fun above => p2 (hp 2 r above h)⟩
      · rw [if_neg p1]
        exact ⟨fun h => absurd h (Nat.not_le.2 h1), fun h => absurd (hp 1 r h1 h) p1⟩

/-- The regime is at least `r` above its threshold, and down to 2 degrees below it where it was at least `r` before. -/
theorem le_refx_iff {r : Nat} (h1 : 1 ≤ r) (h3 : r ≤ 3) (cur : Nat) (t : Int) :
    r ≤ refx cur t ↔ deg (75 + 10 * r) < t ∨ (r ≤ cur ∧ deg (75 + 10 * r) - deg 2 < t) := by
  have raised := le_ladder_iff (p := fun i => deg (75 + 10 * i) < t) (by unfold deg; omega) h1 h3
  have kept := le_ladder_iff (p := fun i => i ≤ cur ∧ deg (75 + 10 * i) - deg 2 < t) (by unfold deg; omega) h1 h3
  have reaches_max : ∀ a b, r ≤ max a b ↔ r ≤ a ∨ r ≤ b := by omega
  exact (reaches_max _ _).trans (or_congr raised kept)

theorem refx_lt (cur : Nat) (t : Int) : refx cur t < 4 := by
  simp only [refx]
  refine Nat.max_lt.2 ⟨?_, ?_⟩ <;> (repeat' split) <;> decide

/-- The regime of a temperature whatever it was before: raised at once above 85, 95 and 105 degrees, and no more kept from 2 degrees below. -/
theorem refx_bounds (cur : Nat) (t : Int) :
    (16 * 105 < t → refx cur t = 3) ∧ (16 * 95 < t → 2 ≤ refx cur t) ∧ (16 * 85 < t → 1 ≤ refx cur t) ∧ (t ≤ 16 * 83 → refx cur t = 0) ∧
    (t ≤ 16 * 93 → refx cur t ≤ 1) ∧ (t ≤ 16 * 103 → refx cur t ≤ 2) := by
  have most := refx_lt cur t
  have one := le_refx_iff (r := 1) (by decide) (by decide) cur t
  have two := le_refx_iff (r := 2) (by decide) (by decide) cur t
  have three := le_refx_iff (r := 3) (by decide) (by decide) cur t
  unfold deg at one two three
  omega

/-- The fields of HBMT as a reading writes it. -/
theorem hbmt_fields {r v : Nat} (hr : r < 4) (hv : v < 2 ^ 16) :
    bf (W (2 ^ 18 + r * 2 ^ 16 + v)) 18 1 = 1 ∧ bf (W (2 ^ 18 + r * 2 ^ 16 + v)) 0 16 = v ∧ bf (W (2 ^ 18 + r * 2 ^ 16 + v)) 16 2 = r := by
  have h : (W (2 ^ 18 + r * 2 ^ 16 + v)).toNat = 2 ^ 18 + r * 2 ^ 16 + v := by
    rw [BitVec.toNat_ofNat]; omega
  simp only [bf, h]
  omega

/-- R17, R19: a reading of a stack's temperature. -/
theorem hbmTempReading_completes (s : State) (k : Nat) (temp : BitVec 16) : Completes (.hbmTempReading k temp) s fun t =>
    CellsSame s t ∧ t.fld 1 0 (0x400 + 8 * k) 18 1 = 1 ∧ t.fld 1 0 (0x400 + 8 * k) 0 16 = temp.toNat ∧
    t.fld 1 0 (0x400 + 8 * k) 16 2 = refx (s.fld 1 0 (0x400 + 8 * k) 16 2) temp.toInt := by
  refine ⟨_, rfl, ⟨rfl, rfl, rfl, rfl⟩, ?_⟩
  simp only [State.fld, State.reg_setReg_self, sInt_toNat]
  exact hbmt_fields (refx_lt _ _) temp.isLt

/-- R20: a die is released. -/
theorem cellRelease_completes {s : State} {d : Nat} (hup : s.service.up = true) (hfw : ∃ f ∈ s.service.loaded, f.kind = 2)
    (hdts : ∀ m, m < 8 → s.fld 1 0 (0x40 * d + 8 * m) 16 1 = 1) (h0 : s.fld 1 0 (0x400 + 16 * d) 18 1 = 1) (h1 : s.fld 1 0 (0x408 + 16 * d) 18 1 = 1) :
    Completes (.cellRelease d) s fun t => CellsSame s t ∧ (t.dieAt d).released = true := by
  have hloaded : s.service.loaded.any (·.kind == 2) = true := by simpa using hfw
  have hsensors : (List.range 8).all (fun n => s.fld 1 0 (0x40 * d + 8 * n) 16 1 == 1) = true := by simpa using hdts
  refine ⟨s.setDie d { s.dieAt d with released := true }, ?_, ⟨rfl, rfl, rfl, rfl⟩, by simp⟩
  show execCellRelease d s = _
  simp [execCellRelease, hup, hloaded, hsensors, h0, h1]

/-- Settles O44, event by event. -/
theorem thermalEvents : Obligations.ThermalEvents := by
  unfold Obligations.ThermalEvents
  intro s d n k temp w pw hd hn _
  refine ⟨sensorConversion_completes s temp hd hn, criticalHalt_completes hd, exec_criticalHalt_cool, criticalResume_completes, throttleStepDown_completes,
    throttleStepUp_completes, warmLoopEval_warm, warmLoopEval_other, powerLimitEval_completes s w hd, clockStepApply_completes,
    ballastSetpoint_completes s n pw hd, ballastWindow_completes s n, ?_, cellRelease_completes⟩
  obtain ⟨t, hexec, hcells, hvalid, htemp, hrefx⟩ := hbmTempReading_completes s k temp
  refine ⟨t, hexec, hcells, hvalid, htemp, ?_⟩
  rw [hrefx]
  exact refx_bounds _ _

end Sys2Proof.Machine
end

section
/-! SUPPORT. What the events of the stacks and of migration share: registers written in a loop, a value mapped over a table, packets and trace records
sent beside the cells and the stacks, the queues of commands and of event records, and what is read of a Dahlia core and of a thread. -/
namespace Sys2Proof.Machine

/-! ## A table mapped -/

/-- A table mapped by a function that keeps the defaults reads as the function of what it read before. -/
theorem tget_map {α : Type} {f : α → α} {d : Nat → α} (hd : ∀ k, f (d k) = d k) (t : List (Nat × α)) (k : Nat) :
    tget d (t.map fun e => (e.1, f e.2)) k = f (tget d t k) := by
  induction t with
  | nil => exact (hd k).symm
  | cons e r ih =>
    simp only [List.map_cons, tget, ih]
    split <;> rfl

/-! ## Registers written -/

@[simp] theorem State.stackAt_setReg (s : State) (b i o : Nat) (v : Word) (k : Nat) : (s.setReg b i o v).stackAt k = s.stackAt k := rfl
@[simp] theorem State.stackAt_setFld (s : State) (b i o lo n v k : Nat) : (s.setFld b i o lo n v).stackAt k = s.stackAt k := rfl
@[simp] theorem State.fld_setStack (s : State) (k : Nat) (x : Stack) (b i o lo n : Nat) : (s.setStack k x).fld b i o lo n = s.fld b i o lo n := rfl

/-- A field of a register of another number reads as before a field of a register is set. -/
theorem State.fld_setFld_ne (s : State) {b i o b' i' o' : Nat} (lo n v lo' n' : Nat) (h : rk b' i' o' ≠ rk b i o) :
    (s.setFld b i o lo n v).fld b' i' o' lo' n' = s.fld b' i' o' lo' n' :=
  s.fld_setReg_ne _ lo' n' h

/-- Nothing but the registers of the BAR0 space differs. -/
def OnlyRegs (s t : State) : Prop := { t with regs := s.regs } = s

theorem onlyRegs_trans {s t u : State} (h1 : OnlyRegs s t) (h2 : OnlyRegs t u) : OnlyRegs s u :=
  (congrArg (fun x : State => ({ x with regs := s.regs } : State)) h2).trans h1

theorem onlyRegs_foldl {g : State → Nat → State} (hg : ∀ s p, OnlyRegs s (g s p)) (l : List Nat) (s : State) : OnlyRegs s (l.foldl g s) := by
  induction l generalizing s with
  | nil => exact rfl
  | cons p r ih => exact onlyRegs_trans (hg s p) (ih (g s p))

/-- Where only registers differ, cells, memory and stacks are as before. -/
theorem cellsSame_of_onlyRegs {s t : State} (h : OnlyRegs s t) : CellsSame s t ∧ t.hbmStacks = s.hbmStacks :=
  ⟨⟨by have := congrArg State.cells h; exact this, by have := congrArg State.hbm h; exact this, by have := congrArg State.lines h; exact this,
    by have := congrArg State.hostMem h; exact this⟩, by have := congrArg State.hbmStacks h; exact this⟩

/-- Registers of one block set to one value in turn: those named read as it, the others as before. -/
theorem State.reg_foldl_setReg (b i : Nat) (v : Word) (f : Nat → Nat) (l : List Nat) (s : State) (o : Nat) :
    (l.foldl (fun s p => s.setReg b i (f p) v) s).reg b i o = if ∃ p ∈ l, f p = o then v else s.reg b i o := by
  induction l generalizing s with
  | nil => simp
  | cons p r ih =>
    rw [List.foldl_cons, ih]
    by_cases later : ∃ p ∈ r, f p = o
    · have named : ∃ q ∈ p :: r, f q = o := by obtain ⟨q, hq, e⟩ := later; exact ⟨q, by simp [hq], e⟩
      rw [if_pos later, if_pos named]
    · by_cases first : f p = o
      · rw [if_neg later, if_pos ⟨p, by simp, first⟩, first, State.reg_setReg_self]
      · have unnamed : ¬ ∃ q ∈ p :: r, f q = o := by simpa [first] using later
        rw [if_neg later, if_neg unnamed, State.reg_setReg_ne s b i _ v (rk_ne_of_offset (Ne.symm first))]

/-! ## Packets and trace records sent -/

/-- Nothing but packets on their way, their counters and trace records differs. -/
def OnlySent (s t : State) : Prop :=
  { t with regs := s.regs, tx := s.tx, ports := s.ports, outbox := s.outbox, trace := s.trace } = s

theorem onlySent_refl (s : State) : OnlySent s s := rfl

theorem onlySent_trans {s t u : State} (h1 : OnlySent s t) (h2 : OnlySent t u) : OnlySent s u :=
  (congrArg (fun x : State =>
    ({ x with regs := s.regs, tx := s.tx, ports := s.ports, outbox := s.outbox, trace := s.trace } : State)) h2).trans h1

section
variable {s t : State} (h : OnlySent s t)
include h
theorem OnlySent.cells : t.cells = s.cells := by have := congrArg State.cells h; exact this
theorem OnlySent.hbmStacks : t.hbmStacks = s.hbmStacks := by have := congrArg State.hbmStacks h; exact this
theorem OnlySent.dies : t.dies = s.dies := by have := congrArg State.dies h; exact this
theorem OnlySent.hbm : t.hbm = s.hbm := by have := congrArg State.hbm h; exact this
theorem OnlySent.lines : t.lines = s.lines := by have := congrArg State.lines h; exact this
theorem OnlySent.hostMem : t.hostMem = s.hostMem := by have := congrArg State.hostMem h; exact this
end

theorem State.enqueue_onlySent (s : State) (p : Packet) (j : Nat) : OnlySent s (s.enqueue p j) := by
  unfold State.enqueue
  split
  · exact onlySent_refl s
  · exact rfl

theorem State.launchPkt_onlySent (s : State) (p : Packet) : OnlySent s (s.launchPkt p) := by
  unfold State.launchPkt
  split
  · exact rfl
  · split
    · exact s.enqueue_onlySent _ _
    · split
      · exact onlySent_refl s
      · exact rfl

theorem State.emitNow_onlySent (s : State) (p : Packet) : OnlySent s (s.emitNow p) := by
  unfold State.emitNow
  refine onlySent_trans ?_ (State.launchPkt_onlySent _ _)
  dsimp only
  split
  · exact rfl
  · exact onlySent_trans (s.launchPkt_onlySent _) rfl

theorem State.emit_onlySent (s : State) (p : Packet) : OnlySent s (s.emit p) := by
  unfold State.emit
  dsimp only
  split
  · exact rfl
  · exact s.emitNow_onlySent p

/-- A trace record changes the trace alone. -/
theorem State.traceSite_eq (s : State) (kind arg n k die site slot : Nat) (pc : Word) :
    ∃ l, s.traceSite kind arg n k die site slot pc = { s with trace := l } := by
  unfold State.traceSite
  dsimp only
  split
  · exact ⟨_, rfl⟩
  · exact ⟨s.trace, rfl⟩

theorem State.traceSite_onlySent (s : State) (kind arg n k die site slot : Nat) (pc : Word) :
    OnlySent s (s.traceSite kind arg n k die site slot pc) := by
  obtain ⟨l, h⟩ := s.traceSite_eq kind arg n k die site slot pc
  rw [h]; rfl

theorem State.traceAt_onlySent (s : State) (kind arg n k : Nat) (pc : Word) : OnlySent s (s.traceAt kind arg n k pc) :=
  s.traceSite_onlySent _ _ _ _ _ _ _ _

theorem State.traceCore_onlySent (s : State) (kind n key k j : Nat) (pc : Word) : OnlySent s (s.traceCore kind n key k j pc) := by
  unfold State.traceCore
  dsimp only
  split
  · exact s.traceSite_onlySent _ _ _ _ _ _ _ _
  · split
    · exact s.emit_onlySent _
    · exact onlySent_refl s

theorem State.traceDepart_onlySent (s : State) (n key : Nat) : OnlySent s (s.traceDepart n key) := by
  unfold State.traceDepart
  dsimp only
  split
  · exact s.traceCore_onlySent _ _ _ _ _ _
  · exact s.traceAt_onlySent _ _ _ _ _

/-! ## Memory left alone -/

theorem memSame_trans {s t u : State} (h1 : MemSame s t) (h2 : MemSame t u) : MemSame s u := by
  obtain ⟨a1, b1, c1, d1⟩ := h1
  obtain ⟨a2, b2, c2, d2⟩ := h2
  exact ⟨fun a => (a2 a).trans (a1 a), fun a => (b2 a).trans (b1 a), fun n b o => (c2 n b o).trans (c1 n b o), fun a => (d2 a).trans (d1 a)⟩

theorem memSame_of_onlySent {s t : State} (h : OnlySent s t) : MemSame s t :=
  memSame_of_fields h.hbm h.lines h.hostMem fun n => by rw [State.cellAt, State.cellAt, h.cells]

/-- A thread set changes no memory. -/
theorem State.setThrAt_memSame (s : State) (n key : Nat) (u : Thread) : MemSame s (s.setThrAt n key u) := by
  refine memSame_of_fields rfl rfl rfl fun m => ?_
  rw [State.setThrAt, State.cellAt_setThrOpt]
  split
  · subst_vars; rfl
  · rfl

/-! ## Threads -/

theorem State.thr?_of_cells {s t : State} (h : t.cells = s.cells) (n key : Nat) : t.thr? n key = s.thr? n key := by
  rw [State.thr?, State.thr?, State.cellAt, State.cellAt, h]

theorem State.thrAt_of_thr? {s : State} {n key : Nat} {u : Thread} (h : s.thr? n key = some u) : s.thrAt n key = u := by
  rw [State.thrAt, h]; rfl

@[simp] theorem State.thr?_setThrAt_self (s : State) (n key : Nat) (u : Thread) : (s.setThrAt n key u).thr? n key = some u := by
  simp [State.setThrAt, State.thr_setThrOpt]

@[simp] theorem State.thrAt_setThrAt_self (s : State) (n key : Nat) (u : Thread) : (s.setThrAt n key u).thrAt n key = u :=
  State.thrAt_of_thr? (s.thr?_setThrAt_self n key u)

end Sys2Proof.Machine
end

section
/-! PROOF. The events of the memory stacks (spec/02 R35, R41 to R45; spec/11 R246; spec/15 R340, R343): what each does, and the statement about them. -/
namespace Sys2Proof.Machine

/-! ## A notification and the stacks (R260) -/

theorem State.partStat_stacks (s : State) {q o : Nat} (bit lo n : Nat) (hq : q < 8) (ho : o < 2 ^ 28) :
    (s.partStat q bit).hbmStacks = s.hbmStacks ∧ (s.partStat q bit).fld 2 0 o lo n = s.fld 2 0 o lo n := by
  unfold State.partStat
  split
  · exact ⟨rfl, rfl⟩
  · exact ⟨rfl, s.fld_setReg_ne _ lo n (rk_ne_of_block (by decide) (by omega) ho)⟩

/-- A notification without a server leaves the stacks and their registers alone. -/
theorem State.notifyDie_stacks {s : State} {d cause faddr : Nat} (h : NoServer s d) {o : Nat} (lo n : Nat) (ho : o < 2 ^ 28) :
    (s.notifyDie d cause faddr).hbmStacks = s.hbmStacks ∧ (s.notifyDie d cause faddr).fld 2 0 o lo n = s.fld 2 0 o lo n := by
  cases hp : s.partOfDie d with
  | none => simp [State.notifyDie, hp]
  | some q =>
    cases hr : s.running q with
    | false => simp [State.notifyDie, hp, hr]
    | true =>
      have hn : s.notifyDie d cause faddr = s.notify d cause faddr q := by simp [State.notifyDie, hp, hr]
      rw [hn, State.notify_noServer d cause faddr (State.server_none (h q hp hr))]
      exact (s.note d cause faddr q).2.partStat_stacks 3 lo n (State.partOfDie_lt hp) ho

/-! ## Frames of a link (R35) -/

/-- The state with the failures in a row of a direction of a link set. -/
def State.setFails (s : State) (k dir n : Nat) : State :=
  s.setStack k { s.stackAt k with linkFails := tput (s.stackAt k).linkFails dir n }

/-- The failures in a row of a direction of a link. -/
def State.failsOf (s : State) (k dir : Nat) : Nat := tget (fun _ => 0) (s.stackAt k).linkFails dir

theorem State.failsOf_setFails (s : State) (k dir n e : Nat) : (s.setFails k dir n).failsOf k e = if e = dir then n else s.failsOf k e := by
  simp [State.failsOf, State.setFails, tget_tput]

/-- The event's number gives the stack and the direction. -/
theorem linkEvent_parts {k dir : Nat} (hk : k < 16) : (k + 16 * dir) % 16 = k ∧ (k + 16 * dir) / 16 = dir := by omega

/-- A frame that passes: its direction's count begins again, and the session's frame counter goes on. -/
theorem linkFrameReceive_passes {s : State} {k dir : Nat} (hk : k < 16) (hinj : s.fld 11 0 0x808 3 1 = 0) :
    Completes (.linkFrameReceive (k + 16 * dir) true) s fun t => CellsSame s t ∧ t.failsOf k dir = 0 ∧ (∀ e, e ≠ dir → t.failsOf k e = s.failsOf k e) ∧
      (t.stackAt k).frames = (s.stackAt k).frames + 1#64 ∧ t.regs = s.regs := by
  obtain ⟨hstack, hdir⟩ := linkEvent_parts (dir := dir) hk
  refine ⟨s.setStack k { s.stackAt k with linkFails := tput (s.stackAt k).linkFails dir 0, frames := (s.stackAt k).frames + 1#64 }, ?_,
    ⟨rfl, rfl, rfl, rfl⟩, ?_, fun e he => ?_, ?_, rfl⟩
  · show execLinkFrameReceive (k + 16 * dir) true s = _
    simp [execLinkFrameReceive, hinj, hstack, hdir]
  · simp [State.failsOf]
  · simp [State.failsOf, tget_tput, he]
  · simp

/-- A frame that fails: the error reported and counted. -/
def State.linkFailed (s : State) (k dir : Nat) : State := (s.reportEvent k 5 0 0).setFails k dir (s.failsOf k dir + 1)

theorem exec_linkFrameReceive_fails {s : State} {k dir : Nat} (hk : k < 16) (hinj : s.fld 11 0 0x808 3 1 = 0) :
    exec (.linkFrameReceive (k + 16 * dir) false) s =
      .next (if s.failsOf k dir = 2 then (s.linkFailed k dir).linkDown k else s.linkFailed k dir) := by
  obtain ⟨hstack, hdir⟩ := linkEvent_parts (dir := dir) hk
  have hcount : tget (fun _ => 0) ((s.reportEvent k 5 0 0).stackAt k).linkFails dir = s.failsOf k dir := by
    simp [State.reportEvent, State.failsOf]
  show execLinkFrameReceive (k + 16 * dir) false s = _
  simp [execLinkFrameReceive, hinj, hstack, hdir, hcount, State.linkFailed, State.setFails]

/-- What a failed frame leaves in its stack. -/
theorem State.linkFailed_spec (s : State) (k dir : Nat) : (s.linkFailed k dir).failsOf k dir = s.failsOf k dir + 1 ∧
    (∀ e, e ≠ dir → (s.linkFailed k dir).failsOf k e = s.failsOf k e) ∧
    ∃ r, ((s.linkFailed k dir).stackAt k).reported = (s.stackAt k).reported ++ [r] ∧ r.kind = 5 ∧ r.addr = 0 := by
  refine ⟨by simp [State.linkFailed, State.failsOf_setFails], fun e he => ?_, ?_⟩
  · rw [State.linkFailed, State.failsOf_setFails, if_neg he]
    simp [State.failsOf, State.reportEvent]
  · simp [State.linkFailed, State.setFails, State.reportEvent]

/-- A link declared failed, its die's partition without a server: FAILED is set, the notification kept, and the stacks are as before. -/
theorem State.linkDown_spec {s : State} {k : Nat} (hk : k < 16) (hs : NoServer s (k / 2)) : CellsSame s (s.linkDown k) ∧
    (s.linkDown k).hbmStacks = s.hbmStacks ∧ (s.linkDown k).fld 2 0 (0x1000 * k + 8) 2 1 = 1 ∧ Notified s (s.linkDown k) (k / 2) 0x22 k := by
  have hfld : ∀ o lo n, (s.setFld 2 0 (0x1000 * k + 8) 2 1 1).fld 5 0 o lo n = s.fld 5 0 o lo n := fun o lo n =>
    s.fld_setReg_ne _ lo n (by unfold rk; omega)
  have hs' : NoServer (s.setFld 2 0 (0x1000 * k + 8) 2 1 1) (k / 2) := noServer_congr hfld hs
  obtain ⟨hcells, -, -, hnote⟩ := State.notifyDie_noServer (cause := 0x22) (faddr := k) (by decide) hs'
  obtain ⟨hstacks, hfailed⟩ := State.notifyDie_stacks (cause := 0x22) (faddr := k) hs' (o := 0x1000 * k + 8) 2 1 (by omega)
  exact ⟨hcells, hstacks, hfailed.trans (State.fld_setFld_self s 2 0 _ 1 (by decide)), notified_congr hfld rfl hnote⟩

/-- R35, R45, R260: a frame that fails, and the third failure in a row. -/
theorem linkFrameReceive_fails {s : State} {k dir : Nat} (hk : k < 16) (hinj : s.fld 11 0 0x808 3 1 = 0) (hs : NoServer s (k / 2)) :
    Completes (.linkFrameReceive (k + 16 * dir) false) s fun t => CellsSame s t ∧ t.failsOf k dir = s.failsOf k dir + 1 ∧
      (∀ e, e ≠ dir → t.failsOf k e = s.failsOf k e) ∧
      (∃ r, (t.stackAt k).reported = (s.stackAt k).reported ++ [r] ∧ r.kind = 5 ∧ r.addr = 0) ∧
      (s.failsOf k dir = 2 → t.fld 2 0 (0x1000 * k + 8) 2 1 = 1 ∧ Notified s t (k / 2) 0x22 k) ∧
      (s.failsOf k dir ≠ 2 → t.fld 2 0 (0x1000 * k + 8) 2 1 = s.fld 2 0 (0x1000 * k + 8) 2 1) := by
  refine ⟨_, exec_linkFrameReceive_fails hk hinj, ?_⟩
  obtain ⟨hown, hother, hreport⟩ := s.linkFailed_spec k dir
  by_cases third : s.failsOf k dir = 2
  · rw [if_pos third]
    obtain ⟨hcells, hstacks, hfailed, hnote⟩ := State.linkDown_spec (s := s.linkFailed k dir) hk hs
    have hstack : ((s.linkFailed k dir).linkDown k).stackAt k = (s.linkFailed k dir).stackAt k :=
      congrArg (fun x => tget (fun _ => Stack.init) x k) hstacks
    have hfails : ∀ e, ((s.linkFailed k dir).linkDown k).failsOf k e = (s.linkFailed k dir).failsOf k e := fun e => by
      rw [State.failsOf, State.failsOf, hstack]
    exact ⟨hcells, (hfails dir).trans hown, fun e he => (hfails e).trans (hother e he), hstack ▸ hreport, fun _ => ⟨hfailed, hnote⟩,
      fun h => absurd third h⟩
  · rw [if_neg third]
    exact ⟨⟨rfl, rfl, rfl, rfl⟩, hown, hother, hreport, fun h => absurd h third, fun _ => rfl⟩

/-! ## Rehash (R43, R44) -/

/-- APPLY while no rehash runs: one starts to the masks as written. -/
theorem apply_starts {s : State} {k i : Nat} (hi : i < 6) (hidle : s.fld 2 0 (0x1000 * k + 8) 1 1 = 0) :
    Completes (.apply k) s fun t => CellsSame s t ∧ t.fld 2 0 (0x1000 * k + 8) 1 1 = 1 ∧
      ∃ m, (t.stackAt k).target = some m ∧ tget (fun _ => 0#40) m i = (s.reg 2 0 (0x1000 * k + 0x10 + 8 * i)).setWidth 40 := by
  refine ⟨(s.setFld 2 0 (0x1000 * k + 8) 1 1 1).setStack k { s.stackAt k with target := some ((List.range 6).map fun i => (i, s.hxm k i)) },
    ?_, ⟨rfl, rfl, rfl, rfl⟩, ?_, (List.range 6).map fun i => (i, s.hxm k i), by simp, ?_⟩
  · show execApply k s = _
    simp [execApply, hidle]
  · exact State.fld_setFld_self s 2 0 _ 1 (by decide)
  · have : i = 0 ∨ i = 1 ∨ i = 2 ∨ i = 3 ∨ i = 4 ∨ i = 5 := by omega
    rcases this with rfl | rfl | rfl | rfl | rfl | rfl <;> rfl

/-- The error bit of the registers of a stack set after a refusal was recorded. -/
theorem State.recordRefusal_stack (s : State) {k o : Nat} (hk : k < 16) :
    let t := (s.recordRefusal 2 0 o).setFld 2 0 (0x1000 * k + 8) 3 1 1
    CellsSame s t ∧ t.hbmStacks = s.hbmStacks ∧ t.fld 2 0 (0x1000 * k + 8) 3 1 = 1 ∧ t.fld 1 0 0x500 2 1 = 1 ∧
      ∀ o', o' < 2 ^ 28 → o' ≠ 0x1000 * k + 8 → t.reg 2 0 o' = s.reg 2 0 o' := by
  refine ⟨⟨rfl, rfl, rfl, rfl⟩, rfl, State.fld_setFld_self _ 2 0 _ 1 (by decide), ?_, fun o' ho' hne => ?_⟩
  · rw [State.fld_setFld_ne _ 3 1 1 2 1 (rk_ne_of_block (by decide) (by omega) (by omega)), State.recordRefusal,
      State.fld_setReg_ne _ _ 2 1 (rk_ne_of_offset (by omega))]
    exact State.fld_setFld_self s 1 0 _ 1 (by decide)
  · rw [State.reg_setFld_ne _ 3 1 1 (rk_ne_of_offset hne), State.recordRefusal,
      State.reg_setReg_ne _ 1 0 0x508 _ (rk_ne_of_block (by decide) (by omega) ho'), State.reg_setFld_ne s 2 1 1 (rk_ne_of_block (by decide) (by omega) ho')]

/-- APPLY while a rehash runs is refused. -/
theorem apply_refused {s : State} {k : Nat} (hk : k < 16) (hbusy : s.fld 2 0 (0x1000 * k + 8) 1 1 = 1) :
    Completes (.apply k) s fun t => CellsSame s t ∧ t.hbmStacks = s.hbmStacks ∧ t.fld 2 0 (0x1000 * k + 8) 3 1 = 1 ∧ t.fld 1 0 0x500 2 1 = 1 := by
  obtain ⟨hcells, hstacks, herr, hrec, -⟩ := s.recordRefusal_stack (o := 0x1000 * k) hk
  refine ⟨_, ?_, hcells, hstacks, herr, hrec⟩
  show execApply k s = _
  simp [execApply, hbusy]

/-- Every line of a stack read once, by the counters of its pseudo-channels. -/
def State.countAll (s : State) (k : Nat) : State :=
  (List.range 64).foldl (fun s p => s.bump 2 0 (0x1000 * k + 0x200 + 8 * p) 0 32 (2 ^ 24)) s

theorem State.countAll_onlyRegs (s : State) (k : Nat) : OnlyRegs s (s.countAll k) :=
  onlyRegs_foldl (g := fun s p => s.bump 2 0 (0x1000 * k + 0x200 + 8 * p) 0 32 (2 ^ 24)) (fun _ _ => rfl) _ s

/-- The masks of a rehash made the active ones. -/
def State.activate (s : State) (k : Nat) (m : Tab (BitVec 40)) : State := s.setStack k { s.stackAt k with active := m, target := none }

theorem exec_rehashComplete_ends {s : State} {k : Nat} {m : Tab (BitVec 40)} (hm : (s.stackAt k).target = some m) (hq : (s.stackAt k).bsq = []) :
    ∃ x stale, OnlyRegs s x ∧ exec (.rehashComplete k) s =
      .next (((x.activate k m).setFld 2 0 (0x1000 * k + 8) 1 1 0).setFld 2 0 (0x1000 * k + 8) 4 1 stale) := by
  refine ⟨s.countAll k, (((s.countAll k).activate k m).hxmStale k (tget (fun _ => 0#40) m)).toNat, s.countAll_onlyRegs k, ?_⟩
  show execRehashComplete k s = _
  simp only [execRehashComplete, hm, hq, List.isEmpty_nil, Bool.not_true, Bool.false_eq_true, if_false]
  rfl

/-- A rehash ends once no bank-side command is left: its masks are the active ones. -/
theorem rehashComplete_ends {s : State} {k : Nat} {m : Tab (BitVec 40)} (hm : (s.stackAt k).target = some m) (hq : (s.stackAt k).bsq = []) :
    Completes (.rehashComplete k) s fun t => CellsSame s t ∧ (t.stackAt k).active = m ∧ (t.stackAt k).target = none ∧
      t.fld 2 0 (0x1000 * k + 8) 1 1 = 0 := by
  obtain ⟨x, stale, hx, hexec⟩ := exec_rehashComplete_ends hm hq
  obtain ⟨hcells, -⟩ := cellsSame_of_onlyRegs hx
  refine ⟨_, hexec, hcells, ?_, ?_, ?_⟩
  · simp [State.activate]
  · simp [State.activate]
  · rw [State.fld_setFld_of_disjoint _ 2 0 _ _ (by decide)]
    exact State.fld_setFld_self _ 2 0 _ 0 (by decide)

/-- A rehash waits for the bank-side commands. -/
theorem rehashComplete_waits {s : State} {k : Nat} {m : Tab (BitVec 40)} (hm : (s.stackAt k).target = some m) (hq : (s.stackAt k).bsq ≠ []) :
    exec (.rehashComplete k) s = .next s := by
  show execRehashComplete k s = _
  simp [execRehashComplete, hm, hq]

/-- CLRCNT: the counters of the pseudo-channels are zero, and the status register is as before. -/
theorem clrcnt_completes (s : State) (k : Nat) : Completes (.clrcnt k) s fun t =>
    CellsSame s t ∧ (∀ p, p < 64 → t.reg 2 0 (0x1000 * k + 0x200 + 8 * p) = 0#64) ∧ t.reg 2 0 (0x1000 * k + 8) = s.reg 2 0 (0x1000 * k + 8) := by
  have hreg := s.reg_foldl_setReg 2 0 0#64 (fun p => 0x1000 * k + 0x200 + 8 * p) (List.range 64)
  have hframe := onlyRegs_foldl (g := fun s p => s.setReg 2 0 (0x1000 * k + 0x200 + 8 * p) 0#64) (fun _ _ => rfl) (List.range 64) s
  refine ⟨(List.range 64).foldl (fun s p => s.setReg 2 0 (0x1000 * k + 0x200 + 8 * p) 0#64) s, rfl, (cellsSame_of_onlyRegs hframe).1, fun p hp => ?_, ?_⟩
  · rw [hreg, if_pos ⟨p, List.mem_range.2 hp, rfl⟩]
  · rw [hreg, if_neg]
    rintro ⟨p, -, e⟩
    omega

/-! ## Writes of HXM and ELHEAD (R43 to R45) -/

/-- The bits of a number within a mask of bits 12 to 39. -/
theorem and_hxmMask (n : Nat) : n &&& bits 39 12 = 2 ^ 12 * (n / 2 ^ 12 % 2 ^ 28) := by
  have hmask : bits 39 12 = 2 ^ 12 * (2 ^ 28 - 1) := by decide
  refine Nat.eq_of_testBit_eq fun i => ?_
  rw [hmask, Nat.testBit_and, Nat.testBit_two_pow_mul, Nat.testBit_two_pow_mul, Nat.testBit_two_pow_sub_one, Nat.testBit_mod_two_pow,
    Nat.testBit_div_two_pow]
  by_cases h : 12 ≤ i
  · simp [h, Bool.and_comm]
  · simp [h]

/-- A write of HXM is a reserved-bit write unless it sets bits 12 to 39 only. -/
theorem writeBad_hxm (k : Nat) {i : Nat} (v : Word) (hi : i < 6) :
    writeBad 2 (0x1000 * k + 0x10 + 8 * i) v = false ↔ v.toNat % 2 ^ 12 = 0 ∧ v.toNat < 2 ^ 40 := by
  have hr : (0x1000 * k + 0x10 + 8 * i) % 0x1000 = 0x10 + 8 * i := by omega
  have hmask : regMask 2 (0x1000 * k + 0x10 + 8 * i) = mRW (bits 39 12) := by
    have hin : 0x10 ≤ 0x10 + 8 * i ∧ 0x10 + 8 * i ≤ 0x38 := by omega
    simp only [regMask, regs2, hr, hin, and_self, if_true]
  simp only [writeBad, hmask, mRW, codeBad, Nat.zero_or, Nat.or_zero, and_hxmMask, Bool.or_false, bne_eq_false_iff_eq]
  omega

/-- An accepted write of HXM is read back at once; STALE says, while no rehash runs, that a mask differs from the active one. -/
theorem hxmWrite_accepted {s : State} {k i : Nat} {v : Word} (hi : i < 6) (hv : v.toNat % 2 ^ 12 = 0 ∧ v.toNat < 2 ^ 40) :
    Completes (.hxmWrite k i v) s fun t => CellsSame s t ∧ t.reg 2 0 (0x1000 * k + 0x10 + 8 * i) = v ∧
      (s.fld 2 0 (0x1000 * k + 8) 1 1 = 0 → (t.fld 2 0 (0x1000 * k + 8) 4 1 = 1 ↔
        ∃ j, j < 6 ∧ (t.reg 2 0 (0x1000 * k + 0x10 + 8 * j)).setWidth 40 ≠ BitVec.ofNat 40 (s.mask k j))) := by
  obtain ⟨s1, hs1⟩ : ∃ s1, s1 = s.setReg 2 0 (0x1000 * k + 0x10 + 8 * i) v := ⟨_, rfl⟩
  obtain ⟨st, hst⟩ : ∃ st, st = s1.hxmStale k (s1.activeMask k) := ⟨_, rfl⟩
  have hacc := (writeBad_hxm k v hi).2 hv
  have hbusy : s1.fld 2 0 (0x1000 * k + 8) 1 1 = s.fld 2 0 (0x1000 * k + 8) 1 1 := by
    rw [hs1]; exact s.fld_setReg_ne v 1 1 (rk_ne_of_offset (by omega))
  have hexec : exec (.hxmWrite k i v) s = .next (if s.fld 2 0 (0x1000 * k + 8) 1 1 = 1 then (if st then s1.setFld 2 0 (0x1000 * k + 8) 4 1 1 else s1)
      else s1.setFld 2 0 (0x1000 * k + 8) 4 1 st.toNat) := by
    show execHxmWrite k i v s = _
    simp only [execHxmWrite, hacc, ← hs1, hbusy, ← hst]; rfl
  have hcells : CellsSame s s1 := hs1 ▸ ⟨rfl, rfl, rfl, rfl⟩
  have hreg : s1.reg 2 0 (0x1000 * k + 0x10 + 8 * i) = v := by rw [hs1, State.reg_setReg_self]
  have hkeep : ∀ j b, (s1.setFld 2 0 (0x1000 * k + 8) 4 1 b).reg 2 0 (0x1000 * k + 0x10 + 8 * j) = s1.reg 2 0 (0x1000 * k + 0x10 + 8 * j) := fun j b =>
    s1.reg_setFld_ne 4 1 b (rk_ne_of_offset (by omega))
  refine ⟨_, hexec, ?_⟩
  by_cases run : s.fld 2 0 (0x1000 * k + 8) 1 1 = 1
  · rw [if_pos run]
    have hidle : ¬ s.fld 2 0 (0x1000 * k + 8) 1 1 = 0 := by omega
    split
    · exact ⟨hcells, (hkeep i 1).trans hreg, fun h => absurd h hidle⟩
    · exact ⟨hcells, hreg, fun h => absurd h hidle⟩
  · rw [if_neg run]
    refine ⟨hcells, (hkeep i _).trans hreg, fun _ => ?_⟩
    have hstale : st = true ↔ ∃ j, j < 6 ∧ (s1.reg 2 0 (0x1000 * k + 0x10 + 8 * j)).setWidth 40 ≠ BitVec.ofNat 40 (s.mask k j) := by
      have hmask : s1.activeMask k = fun j => BitVec.ofNat 40 (s.mask k j) := by rw [hs1]; rfl
      simp [hst, State.hxmStale, State.hxm, hmask]
    simp only [hkeep, ← hstale, State.fld_setFld_self s1 2 0 (0x1000 * k + 8) (lo := 4) (n := 1) st.toNat (by decide)]
    cases st <;> simp

/-- A write of HXM with a reserved bit is refused. -/
theorem hxmWrite_refused {s : State} {k i : Nat} {v : Word} (hk : k < 16) (hi : i < 6) (hv : ¬ (v.toNat % 2 ^ 12 = 0 ∧ v.toNat < 2 ^ 40)) :
    Completes (.hxmWrite k i v) s fun t => CellsSame s t ∧ t.reg 2 0 (0x1000 * k + 0x10 + 8 * i) = s.reg 2 0 (0x1000 * k + 0x10 + 8 * i) ∧
      t.fld 2 0 (0x1000 * k + 8) 3 1 = 1 ∧ t.fld 1 0 0x500 2 1 = 1 := by
  have hbad : writeBad 2 (0x1000 * k + 0x10 + 8 * i) v = true := by
    rw [← Bool.not_eq_false, writeBad_hxm k v hi]; exact hv
  have hbase : (0x1000 * k + 0x10 + 8 * i) / 0x1000 * 0x1000 + 8 = 0x1000 * k + 8 := by omega
  obtain ⟨hcells, -, herr, hrec, hreg⟩ := s.recordRefusal_stack (o := 0x1000 * k + 0x10 + 8 * i) hk
  refine ⟨_, ?_, hcells, hreg _ (by omega) (by omega), herr, hrec⟩
  show execHxmWrite k i v s = _
  simp only [execHxmWrite, hbad, if_true, State.refuse, hbase]

/-- ELHEAD moves on, by no more entries than are logged. -/
theorem elheadWrite_completes {s : State} {k : Nat} {v : Word} (hv : v.toNat < 16) :
    let h := s.fld 2 0 (0x1000 * k + 0x50) 0 4
    let u := s.fld 2 0 (0x1000 * k + 0x50) 8 5
    let r := min ((v.toNat + 16 - h) % 16) u
    Completes (.elheadWrite k v) s fun t => CellsSame s t ∧ t.fld 2 0 (0x1000 * k + 0x50) 0 4 = (h + r) % 16 ∧
      t.fld 2 0 (0x1000 * k + 0x50) 8 5 = u - r := by
  intro h u r
  have hr : (0x1000 * k + 0x50) % 0x1000 = 0x50 := by omega
  have hfield : bf v 0 4 = v.toNat := by simp [bf, Nat.mod_eq_of_lt hv]
  have hmask : v.toNat &&& (bits 12 8 ||| 0xF) = v.toNat := by
    have : ∀ n : Fin 16, n.val &&& (bits 12 8 ||| 0xF) = n.val := by decide
    exact this ⟨v.toNat, hv⟩
  have hacc : writeBad 2 (0x1000 * k + 0x50) v = false := by
    simp [writeBad, regMask, regs2, hr, mAll, codeBad, hmask]
  have hu : u < 2 ^ 5 := Nat.mod_lt _ (by decide)
  refine ⟨(s.setFld 2 0 (0x1000 * k + 0x50) 0 4 ((h + r) % 16)).setFld 2 0 (0x1000 * k + 0x50) 8 5 (u - r), ?_, ⟨rfl, rfl, rfl, rfl⟩, ?_, ?_⟩
  · show execElheadWrite k v s = _
    simp only [execElheadWrite, hacc, hfield]; rfl
  · rw [State.fld_setFld_of_disjoint _ 2 0 _ _ (by decide), State.fld_setFld_self _ 2 0 _ _ (by decide)]
    exact Nat.mod_mod _ _
  · rw [State.fld_setFld_self _ 2 0 _ _ (by decide)]
    exact Nat.mod_eq_of_lt (by omega)

end Sys2Proof.Machine
end

section
/-! PROOF. The bank-side commands and the waiting accesses of a stack (spec/02 R41, R42, R44; spec/11 R246; spec/15 R340, R343), and the statement about the
events of the stacks. A command's reads and writes of memory, and the answers that they call forth, touch no queue of commands and no queue of event
records; so what leaves a command behind is read off the two updates that its completion makes itself. -/
namespace Sys2Proof.Machine

/-! ## The queues of commands and of event records -/

/-- The bank-side commands of every stack and the event records of every die are as before. -/
def SameQueues (s t : State) : Prop := (∀ k, (t.stackAt k).bsq = (s.stackAt k).bsq) ∧ ∀ d, (t.dieAt d).events = (s.dieAt d).events

theorem sameQueues_refl (s : State) : SameQueues s s := ⟨fun _ => rfl, fun _ => rfl⟩

theorem sameQueues_trans {s t u : State} (h1 : SameQueues s t) (h2 : SameQueues t u) : SameQueues s u :=
  ⟨fun k => (h2.1 k).trans (h1.1 k), fun d => (h2.2 d).trans (h1.2 d)⟩

/-- What touches neither a stack nor a die touches no queue. -/
theorem sameQueues_of_fields {s t : State} (h1 : t.hbmStacks = s.hbmStacks) (h2 : t.dies = s.dies) : SameQueues s t :=
  ⟨fun k => by rw [State.stackAt, State.stackAt, h1], fun d => by rw [State.dieAt, State.dieAt, h2]⟩

theorem sameQueues_of_onlySent {s t : State} (h : OnlySent s t) : SameQueues s t := sameQueues_of_fields h.hbmStacks h.dies

theorem State.setStack_sameQueues (s : State) {k : Nat} {x : Stack} (h : x.bsq = (s.stackAt k).bsq) : SameQueues s (s.setStack k x) := by
  refine ⟨fun j => ?_, fun _ => rfl⟩
  rw [State.stackAt_setStack]
  split
  · subst_vars; exact h
  · rfl

theorem State.setDie_sameQueues (s : State) {d : Nat} {x : Die} (h : x.events = (s.dieAt d).events) : SameQueues s (s.setDie d x) := by
  refine ⟨fun _ => rfl, fun e => ?_⟩
  rw [State.dieAt_setDie]
  split
  · subst_vars; exact h
  · rfl

theorem sameQueues_foldl {β : Type} {g : State → β → State} (hg : ∀ s x, SameQueues s (g s x)) (l : List β) (s : State) :
    SameQueues s (l.foldl g s) := by
  induction l generalizing s with
  | nil => exact sameQueues_refl s
  | cons x r ih => exact sameQueues_trans (hg s x) (ih (g s x))

/-- The same for a loop that carries a value beside the state. -/
theorem sameQueues_foldl_pair {α β : Type} {g : State × α → β → State × α} (hg : ∀ p x, SameQueues p.1 (g p x).1) (l : List β) (p : State × α) :
    SameQueues p.1 (l.foldl g p).1 := by
  induction l generalizing p with
  | nil => exact sameQueues_refl p.1
  | cons x r ih => exact sameQueues_trans (hg p x) (ih (g p x))

/-! ## Memory operations -/

theorem State.setLine_sameQueues (s : State) (a : Nat) (m : LineMeta) : SameQueues s (s.setLine a m) := sameQueues_of_fields rfl rfl

theorem State.putLine_sameQueues (s : State) (a : Nat) (get : Nat → Byte) : SameQueues s (s.putLine a get) := sameQueues_of_fields rfl rfl

theorem State.zeroLine_sameQueues (s : State) (a : Nat) (key : Option Nat) : SameQueues s (s.zeroLine a key) :=
  sameQueues_trans (s.putLine_sameQueues a _) (State.setLine_sameQueues _ a _)

theorem State.countRead_sameQueues (s : State) (a : Nat) : SameQueues s (s.countRead a) := sameQueues_of_fields rfl rfl

theorem State.countWrite_sameQueues (s : State) (a : Nat) : SameQueues s (s.countWrite a) := sameQueues_of_fields rfl rfl

theorem State.reportEvent_sameQueues (s : State) (k kind a words : Nat) : SameQueues s (s.reportEvent k kind a words) :=
  s.setStack_sameQueues rfl

theorem State.poisonLine_sameQueues (s : State) (a kind words : Nat) : SameQueues s (s.poisonLine a kind words) :=
  State.reportEvent_sameQueues (s.setLine a { s.lineOf a with tag := .code }) _ _ _ _

theorem State.inject_sameQueues (s : State) (a : Nat) : SameQueues s (s.inject a) := by
  unfold State.inject
  split
  · split
    · exact State.reportEvent_sameQueues (s.setReg 11 0 0x808 0#64) _ _ _ _
    · exact State.poisonLine_sameQueues (s.setReg 11 0 0x808 0#64) _ _ _
    · exact State.poisonLine_sameQueues (s.setReg 11 0 0x808 0#64) _ _ _
    · exact sameQueues_refl s
  · exact sameQueues_refl s

theorem State.checkLine_sameQueues (s : State) (key : Option Nat) (a : Nat) : SameQueues s (s.checkLine key a) := by
  unfold State.checkLine
  dsimp only
  split
  · exact sameQueues_trans (s.inject_sameQueues a) (State.poisonLine_sameQueues _ _ _ _)
  · exact s.inject_sameQueues a

theorem State.touch_sameQueues (s : State) (a : Nat) (key : Option Nat := none) : SameQueues s (s.touch a key) := by
  have zero : SameQueues s ((s.zeroLine a key).countWrite a) := sameQueues_trans (s.zeroLine_sameQueues a key) (State.countWrite_sameQueues _ a)
  unfold State.touch
  split
  · exact sameQueues_refl s
  · exact zero
  · next l _ =>
    split
    · exact zero
    · dsimp only
      exact sameQueues_trans (s.checkLine_sameQueues key (64 * l)) (sameQueues_trans (State.putLine_sameQueues _ a _)
        (sameQueues_trans (State.setLine_sameQueues _ a _) (sameQueues_trans (State.countRead_sameQueues _ _) (State.countWrite_sameQueues _ a))))

theorem State.openLine_sameQueues (s : State) (key : Option Nat) (a : Nat) : SameQueues s (s.openLine key a) :=
  sameQueues_trans (s.touch_sameQueues a key) (State.checkLine_sameQueues _ _ _)

theorem State.hbmRead_sameQueues (s : State) (q a n : Nat) : SameQueues s (s.hbmRead q a n).s := by
  have h : SameQueues s ((s.openLine (s.keyOf q) a).countRead a) :=
    sameQueues_trans (s.openLine_sameQueues _ a) (State.countRead_sameQueues _ a)
  unfold State.hbmRead
  dsimp only
  split <;> exact h

theorem State.observeRings_sameQueues (s : State) (host : Bool) (a n : Nat) : SameQueues s (s.observeRings host a n) := by
  unfold State.observeRings
  split
  · exact sameQueues_refl s
  · refine ⟨fun _ => rfl, fun d => ?_⟩
    have hdie := tget_map (d := fun _ => Die.init)
      (f := fun e : Die => { e with rings := e.rings.map fun x => if x.sees host a n then { x with invalid := false } else x }) (fun _ => rfl) s.dies d
    have := congrArg Die.events hdie
    exact this

theorem State.observeHbm_sameQueues (s0 s : State) (a n : Nat) : SameQueues s (State.observeHbm s0 s a n) := by
  refine sameQueues_trans (s.observeRings_sameQueues false a n) ?_
  unfold State.observeHbm
  dsimp only
  split
  · exact sameQueues_refl _
  · exact State.setDie_sameQueues _ rfl

theorem State.observeScr_sameQueues (s0 s : State) (cell b off n : Nat) : SameQueues s (State.observeScr s0 s cell b off n) := by
  unfold State.observeScr
  split
  · exact sameQueues_refl s
  · exact sameQueues_of_fields rfl rfl

theorem State.storeBytes_sameQueues (s : State) (m : List Host.Cell) : SameQueues s { s with hbm := m } := sameQueues_of_fields rfl rfl

theorem State.hbmWrite_sameQueues (s : State) (q a n v : Nat) : SameQueues s (s.hbmWrite q a n v).1 := by
  have h : SameQueues s ((s.openLine (s.keyOf q) a).countWrite a) :=
    sameQueues_trans (s.openLine_sameQueues _ a) (State.countWrite_sameQueues _ a)
  unfold State.hbmWrite
  dsimp only
  split
  · exact h
  · split
    · exact sameQueues_trans h (State.reportEvent_sameQueues _ _ _ _ _)
    · refine sameQueues_trans h (sameQueues_trans ?_ (State.observeHbm_sameQueues _ _ _ _))
      exact sameQueues_trans (State.storeBytes_sameQueues _ _) (State.setLine_sameQueues _ a _)

/-- A line's bytes and metadata set, and what watches them. -/
theorem State.putObserved_sameQueues (s : State) (a : Nat) (get : Nat → Byte) (m : LineMeta) (b n : Nat) :
    SameQueues s (State.observeHbm s ((s.putLine a get).setLine a m) b n) :=
  sameQueues_trans (sameQueues_trans (s.putLine_sameQueues a get) (State.setLine_sameQueues _ a m)) (State.observeHbm_sameQueues _ _ b n)

theorem State.hbmWriteLine_sameQueues (s : State) (q a : Nat) (l : Line) : SameQueues s (s.hbmWriteLine q a l) := by
  unfold State.hbmWriteLine
  dsimp only
  split
  · have filled := sameQueues_trans (s.zeroLine_sameQueues a (s.keyOf q)) (State.countWrite_sameQueues _ a)
    split
    · exact filled
    · exact sameQueues_trans filled (State.putObserved_sameQueues _ a _ _ _ _)
  · have touched := sameQueues_trans (s.touch_sameQueues a (s.keyOf q)) (State.countWrite_sameQueues _ a)
    split
    · exact touched
    · exact sameQueues_trans touched (State.putObserved_sameQueues _ a _ _ _ _)

theorem State.memRead_sameQueues (s : State) (q : Nat) (l : Loc) (n : Nat) : SameQueues s (s.memRead q l n).s := by
  cases l with
  | hbm a => exact s.hbmRead_sameQueues q a n
  | scr c off => unfold State.memRead; dsimp only; split <;> exact sameQueues_refl s
  | host a => unfold State.memRead; dsimp only; split <;> exact sameQueues_refl s
  | peer d rw off => exact sameQueues_refl s

theorem State.memWrite_sameQueues (s : State) (q : Nat) (l : Loc) (n v : Nat) : SameQueues s (s.memWrite q l n v).1 := by
  cases l with
  | hbm a => exact s.hbmWrite_sameQueues q a n v
  | scr c off => exact sameQueues_trans (sameQueues_of_fields rfl rfl) (State.observeScr_sameQueues _ _ _ _ _ _)
  | host a =>
    unfold State.memWrite
    dsimp only
    split
    · exact sameQueues_trans (sameQueues_of_fields rfl rfl) (State.observeRings_sameQueues _ _ _ _)
    · exact sameQueues_refl s
  | peer d rw off => exact sameQueues_refl s

theorem State.wordsRead_sameQueues (s : State) (q : Nat) (l : Loc) (w : Nat) : SameQueues s (s.wordsRead q l w).s := by
  induction w generalizing s l with
  | zero => exact sameQueues_refl s
  | succ w ih => exact sameQueues_trans (s.memRead_sameQueues q l 8) (ih _ _)

theorem State.lineRead_sameQueues (s : State) (q : Nat) (l : Loc) : SameQueues s (s.lineRead q l).s := by
  unfold State.lineRead
  split
  · exact s.wordsRead_sameQueues q _ 8
  · exact s.memRead_sameQueues q _ 64

theorem State.wordsWrite_sameQueues (s : State) (q : Nat) (l : Loc) (v w : Nat) : SameQueues s (s.wordsWrite q l v w).1 := by
  induction w generalizing s l v with
  | zero => exact sameQueues_refl s
  | succ w ih => exact sameQueues_trans (s.memWrite_sameQueues q l 8 _) (ih _ _ _)

theorem State.lineWrite_sameQueues (s : State) (q : Nat) (l : Loc) (v : Line) : SameQueues s (s.lineWrite q l v).1 := by
  unfold State.lineWrite
  split
  · exact s.hbmWriteLine_sameQueues q _ v
  · exact s.wordsWrite_sameQueues q _ _ 8

theorem State.slotSeen_sameQueues (s : State) (q va : Nat) : SameQueues s (s.slotSeen q va) := by
  unfold State.slotSeen
  dsimp only
  split
  · exact sameQueues_refl s
  · split
    · exact s.memRead_sameQueues q _ 8
    · exact sameQueues_refl s

/-! ## Barrier objects (R164, R340) -/

theorem State.charge_sameQueues (s : State) (d q va n : Nat) : SameQueues s (s.charge d q va n) := by
  unfold State.charge
  split
  · exact sameQueues_of_fields rfl rfl
  · exact sameQueues_refl s

theorem State.barFlip_sameQueues (s : State) (l : Loc) (w : Word) : SameQueues s (s.barFlip l w) := by
  refine sameQueues_foldl (fun s e => sameQueues_foldl (fun s f => ?_) _ s) _ s
  obtain ⟨k, t⟩ := f
  cases t with
  | none => exact sameQueues_refl s
  | some t =>
    dsimp only
    split
    · split
      · split
        · exact sameQueues_trans (sameQueues_of_fields (t := s.setThrAt _ _ _) rfl rfl) (State.setStack_sameQueues _ rfl)
        · exact sameQueues_of_fields rfl rfl
      · exact sameQueues_refl s
    · exact sameQueues_refl s

theorem State.barAt_sameQueues (s : State) (q : Nat) (l : Loc) (n : Nat) : SameQueues s (s.barAt q l n) :=
  sameQueues_trans (s.memRead_sameQueues q l 8) (sameQueues_trans (State.memRead_sameQueues _ q (l.plus 8) 8)
    (sameQueues_trans (State.memWrite_sameQueues _ q l 8 _) (State.barFlip_sameQueues _ _ _)))

theorem State.engBar_sameQueues (s : State) (d q va n : Nat) : SameQueues s (s.engBar d q va n) := by
  unfold State.engBar
  split
  · exact sameQueues_refl s
  · exact sameQueues_trans (s.slotSeen_sameQueues q va) (sameQueues_of_onlySent (State.emit_onlySent _ _))
  · exact sameQueues_trans (s.charge_sameQueues d q va 16) (State.barAt_sameQueues _ _ _ _)

/-! ## What a bank-side command reads and writes (R39 to R42) -/

theorem State.bsLine_sameQueues (s : State) (q a : Nat) : SameQueues s (s.bsLine q a).1 := by
  unfold State.bsLine
  split
  · exact sameQueues_refl s
  · dsimp only
    split
    · exact sameQueues_trans (s.hbmRead_sameQueues q _ 1) (State.reportEvent_sameQueues _ _ _ _ _)
    · exact s.hbmRead_sameQueues q _ 1

theorem State.bsLines_sameQueues (s : State) (q a n : Nat) : SameQueues s (s.bsLines q a n).1 :=
  sameQueues_foldl_pair (g := fun (p : State × Bool) i => ((p.1.bsLine q (a / 64 * 64 + 64 * i)).1, p.2 || (p.1.bsLine q (a / 64 * 64 + 64 * i)).2))
    (fun p _ => p.1.bsLine_sameQueues q _) (List.range ((a % 64 + n + 63) / 64)) (s, false)

theorem State.bsOldY_sameQueues (s : State) (c : BsCmd) (i n : Nat) : SameQueues s (s.bsOldY c i n).1 := by
  induction n generalizing s i with
  | zero => exact sameQueues_refl s
  | succ n ih =>
    unfold State.bsOldY
    cases s.engLoc c.part (bsY c.block + 64 * i) 64 rWR with
    | error _ => exact ih s (i + 1)
    | ok l => exact sameQueues_trans (s.lineRead_sameQueues c.part l) (ih _ (i + 1))

theorem State.bsPutY_sameQueues (s : State) (c : BsCmd) (i : Nat) (l : List Line) : SameQueues s (s.bsPutY c i l) := by
  induction l generalizing s i with
  | nil => exact sameQueues_refl s
  | cons v r ih =>
    unfold State.bsPutY
    split
    · exact sameQueues_trans (s.lineWrite_sameQueues _ _ v) (ih _ _)
    · exact ih s _

theorem State.bsCompute_sameQueues (s : State) (c : BsCmd) : SameQueues s (s.bsCompute c).1 := by
  unfold State.bsCompute
  dsimp only
  have rows := sameQueues_foldl_pair (g := fun (x : State × Bool) r =>
    ((x.1.bsLines c.part (bsB c.block + r * bsPitch c.block) (bsRow c.block)).1,
      x.2 || (x.1.bsLines c.part (bsB c.block + r * bsPitch c.block) (bsRow c.block)).2))
    (fun p _ => p.1.bsLines_sameQueues _ _ _) (List.range (bsK c.block)) (s, false)
  refine sameQueues_trans rows ?_
  by_cases mx : bsMx (bsBf c.block) = true <;> by_cases acc : bsAcc c.block = true <;> simp only [mx, acc, if_true]
  · exact sameQueues_trans (State.bsLines_sameQueues _ _ _ _) (State.bsOldY_sameQueues _ c 0 _)
  · exact State.bsLines_sameQueues _ _ _ _
  · exact State.bsOldY_sameQueues _ c 0 _
  · exact sameQueues_refl _

/-! ## Start and completion of a command (R342, R343) -/

theorem banksideStart_completes {s : State} {k : Nat} {c : BsCmd} {r : List BsCmd} (h : (s.stackAt k).bsq = c :: r) :
    Completes (.banksideStart k) s fun t => CellsSame s t ∧ (t.stackAt k).bsq = { c with running := true } :: r := by
  refine ⟨s.setStack k { s.stackAt k with bsq := { c with running := true } :: r }, ?_, ⟨rfl, rfl, rfl, rfl⟩, by simp⟩
  show execBanksideStart k s = _
  simp [execBanksideStart, h]

/-- A command that has not started, or whose writes stall, does not finish. -/
theorem banksideComplete_waits {s : State} {k : Nat} {c : BsCmd} {r : List BsCmd} (h : (s.stackAt k).bsq = c :: r)
    (hw : c.running = false ∨ s.bsStall k c = true) : exec (.banksideComplete k) s = .next s := by
  show execBanksideComplete k s = _
  have held : (!c.running || s.bsStall k c) = true := by rcases hw with h | h <;> simp [h]
  simp only [execBanksideComplete, h, held, if_true]

/-- The command taken from the queue, computed, and its y written. -/
def State.bsWritten (s : State) (k : Nat) (c : BsCmd) (r : List BsCmd) : State :=
  let x := (s.setStack k { s.stackAt k with bsq := r }).bsCompute c
  x.1.bsPutY c 0 ((List.range (bsN c.block / 16)).map (yLine x.2.1))

theorem State.bsWritten_queues (s : State) (k : Nat) (c : BsCmd) (r : List BsCmd) :
    ((s.bsWritten k c r).stackAt k).bsq = r ∧ ∀ d, ((s.bsWritten k c r).dieAt d).events = (s.dieAt d).events := by
  obtain ⟨hbsq, hevents⟩ := sameQueues_trans (State.bsCompute_sameQueues (s.setStack k { s.stackAt k with bsq := r }) c)
    (State.bsPutY_sameQueues _ c 0 ((List.range (bsN c.block / 16)).map (yLine ((s.setStack k { s.stackAt k with bsq := r }).bsCompute c).2.1)))
  exact ⟨(hbsq k).trans (by simp), hevents⟩

theorem exec_banksideComplete_runs {s : State} {k : Nat} {c : BsCmd} {r : List BsCmd} (h : (s.stackAt k).bsq = c :: r) (hr : c.running = true)
    (hs : s.bsStall k c = false) : ∃ code, exec (.banksideComplete k) s = .next (
      if bsCompl c.block = 1 then (s.bsWritten k c r).pushEvent (bf c.gid 50 3) 0x12 code 0 c.gid
      else if bsCompl c.block = 0 then s.bsWritten k c r
      else (s.bsWritten k c r).engBar (k / 2) c.part (bsCompl c.block) (4 * bsN c.block)) := by
  refine ⟨((s.setStack k { s.stackAt k with bsq := r }).bsCompute c).2.2.toNat, ?_⟩
  show execBanksideComplete k s = _
  have goes : (!c.running || s.bsStall k c) = false := by simp [hr, hs]
  simp only [execBanksideComplete, h, goes]
  rfl

/-- R41, R44, R343: the oldest started command finishes, and is recorded where its completion field asks for an event. -/
theorem banksideComplete_completes {s : State} {k : Nat} {c : BsCmd} {r : List BsCmd} (h : (s.stackAt k).bsq = c :: r) (hr : c.running = true)
    (hs : s.bsStall k c = false) : Completes (.banksideComplete k) s fun t => (t.stackAt k).bsq = r ∧
      (bsCompl c.block = 1 → ∃ e, (t.dieAt (bf c.gid 50 3)).events = (s.dieAt (bf c.gid 50 3)).events ++ [e] ∧ e.kind = 0x12#8 ∧ e.w1 = c.gid) ∧
      (bsCompl c.block ≠ 1 → ∀ d, (t.dieAt d).events = (s.dieAt d).events) := by
  obtain ⟨code, hexec⟩ := exec_banksideComplete_runs h hr hs
  obtain ⟨hbsq, hevents⟩ := s.bsWritten_queues k c r
  refine ⟨_, hexec, ?_⟩
  by_cases event : bsCompl c.block = 1
  · rw [if_pos event]
    refine ⟨hbsq, fun _ => ⟨{ kind := 0x12#8, code := BitVec.ofNat 8 code, data := 0#32, w1 := c.gid }, ?_, rfl, rfl⟩, fun ne => absurd event ne⟩
    rw [State.pushEvent, State.dieAt_setDie_self, hevents]
  · rw [if_neg event]
    split
    · exact ⟨hbsq, fun e => absurd e event, fun _ => hevents⟩
    · obtain ⟨hbsq', hevents'⟩ := State.engBar_sameQueues (s.bsWritten k c r) (k / 2) c.part (bsCompl c.block) (4 * bsN c.block)
      exact ⟨(hbsq' k).trans hbsq, fun e => absurd e event, fun _ d => (hevents' d).trans (hevents d)⟩

/-! ## Waiting synchronising accesses and barrier waits (R246, R340) -/

theorem syncAccessPerform_none {s : State} {k : Nat} (h : (s.stackAt k).syncs = []) : exec (.syncAccessPerform k) s = .next s := by
  show execSyncAccessPerform k s = _
  simp [execSyncAccessPerform, h]

/-- The earliest waiting access, of a thread of this device, whose condition holds: it performs as its kind does. -/
theorem syncAccessPerform_first {s : State} {k : Nat} {w : SyncWait} {r : List SyncWait} (h : (s.stackAt k).syncs = w :: r) (hp : w.pkt = none)
    (hfe : s.feBit w.hpa ≠ w.store) :
    (w.store = true → ∀ j, (s.thrAt w.cell w.slot).postIdx w.seq = some j → exec (.syncAccessPerform k) s = .next (s.performPosted w.cell w.slot j)) ∧
    (w.store = false → ∀ j, (s.thrAt w.cell w.slot).outIdx w.seq = some j → exec (.syncAccessPerform k) s = .next (s.performOut w.cell w.slot j)) := by
  have hfind : (s.stackAt k).syncs.find? (fun w => s.lineBad w.hpa || s.feBit w.hpa != w.store) = some w := by simp [h, hfe]
  constructor <;> intro hstore j hj <;> show execSyncAccessPerform k s = _
  · simp only [execSyncAccessPerform, hfind, hp, hstore, hj, if_true]
  · simp only [execSyncAccessPerform, hfind, hp, hstore, hj]
    rfl

/-- The only access of a thread, a consuming load, is tried again. -/
theorem syncRetry_consuming {s : State} {n key : Nat} {p : Pend} (hout : (s.thrAt n key).out = [p]) (hposted : (s.thrAt n key).posted = [])
    {l : Loc} {d sc : Nat} (hact : p.act = .cons l d sc) : exec (.syncRetry n key) s = .next (s.performOut n key 0) := by
  show execSyncRetry n key s = _
  simp [execSyncRetry, State.syncRetry, hout, hposted, hact, List.range_succ]

theorem barrierWaitRetry_completes {s : State} {n key i : Nat} {u : Thread} (hu : s.thr? n key = some u) (hw : u.wait = .barRefused i) :
    Completes (.barrierWaitRetry n key) s fun t => t.thr? n key = some { u with wait := .none } ∧ MemSame s t ∧ t.regs = s.regs := by
  refine ⟨s.setThrAt n key { u with wait := .none }, ?_, State.thr?_setThrAt_self _ _ _ _, State.setThrAt_memSame _ _ _ _, rfl⟩
  show execBarrierWaitRetry n key s = _
  simp [execBarrierWaitRetry, State.thrAt_of_thr? hu, hw]

/-- Settles O45, event by event. -/
theorem stackEvents : Obligations.StackEvents := by
  unfold Obligations.StackEvents
  intro s k i dir v hk hi _
  refine ⟨linkFrameReceive_passes hk, linkFrameReceive_fails hk, apply_starts hi, apply_refused hk, fun _ => rehashComplete_ends,
    fun _ => rehashComplete_waits, clrcnt_completes s k, hxmWrite_accepted hi, hxmWrite_refused hk hi, elheadWrite_completes,
    fun _ _ => banksideStart_completes, fun _ _ h _ stall => banksideComplete_waits h (.inr stall), fun _ _ => banksideComplete_completes,
    fun _ _ h idle => banksideComplete_waits h (.inl idle), syncAccessPerform_none, fun _ _ => syncAccessPerform_first, fun p hout hposted hact => ?_,
    fun _ => barrierWaitRetry_completes⟩
  cases h : p.act with
  | cons l d sc => exact syncRetry_consuming hout hposted h
  | _ => simp [h] at hact

end Sys2Proof.Machine
end

section
/-! PROOF. Migration (spec/02 R36, R37; spec/09 R185 to R187): what a Dahlia core holds after a context comes, queues, is refused or leaves, and the
statement about the events of migration. -/
namespace Sys2Proof.Machine

/-! ## What is read of a Dahlia core -/

/-- A core without a context. -/
def Dahlia.without (c : Dahlia) (n key : Nat) : Dahlia :=
  { c with slots := c.slots.filter (· ≠ .own n key), queue := c.queue.filter (· ≠ .own n key) }

theorem Dahlia.slots_without {c : Dahlia} {n key : Nat} (h : .own n key ∉ c.slots) : (c.without n key).slots = c.slots :=
  List.filter_eq_self.2 fun _ hg => decide_eq_true fun e => h (e ▸ hg)

theorem Dahlia.queue_without {c : Dahlia} {n key : Nat} (h : .own n key ∉ c.queue) : (c.without n key).queue = c.queue :=
  List.filter_eq_self.2 fun _ hg => decide_eq_true fun e => h (e ▸ hg)

theorem Dahlia.not_mem_slots_without (c : Dahlia) (n key : Nat) : .own n key ∉ (c.without n key).slots := by simp [Dahlia.without]

theorem State.coreOf_of_hbmStacks {s t : State} (h : t.hbmStacks = s.hbmStacks) (k j : Nat) : t.coreOf k j = s.coreOf k j := by
  rw [State.coreOf, State.coreOf, State.stackAt, State.stackAt, h]

@[simp] theorem State.coreOf_setThrAt (s : State) (n key : Nat) (u : Thread) (k j : Nat) : (s.setThrAt n key u).coreOf k j = s.coreOf k j := rfl

@[simp] theorem State.coreOf_setCore_self (s : State) (k j : Nat) (c : Dahlia) : (s.setCore k j c).coreOf k j = c := by
  simp [State.coreOf, State.setCore]

theorem State.coreOf_dropGuest (s : State) (n key k j : Nat) : (s.dropGuest n key).coreOf k j = (s.coreOf k j).without n key := by
  have hstack : (s.dropGuest n key).stackAt k = { s.stackAt k with cores := (s.stackAt k).cores.map fun e => (e.1, e.2.without n key) } :=
    tget_map (d := fun _ => Stack.init) (f := fun x : Stack => { x with cores := x.cores.map fun e => (e.1, e.2.without n key) }) (fun _ => rfl)
      s.hbmStacks k
  rw [State.coreOf, hstack]
  exact tget_map (f := fun c : Dahlia => c.without n key) (fun _ => rfl) (s.stackAt k).cores j

theorem State.coreOf_withdraw (s : State) (n key : Nat) (stores : Bool) (k j : Nat) : (s.withdraw n key stores).coreOf k j = s.coreOf k j := by
  have hstack := tget_map (d := fun _ => Stack.init)
    (f := fun x : Stack => { x with syncs := x.syncs.filter (fun w => !(w.cell == n && w.slot == key && w.pkt.isNone && (stores || !w.store))),
                                    bars := x.bars.filter (· ≠ (n, key)) }) (fun _ => rfl) s.hbmStacks k
  have := congrArg (fun x : Stack => tget (fun _ => Dahlia.init) x.cores j) hstack
  exact this

@[simp] theorem State.dropGuest_cells (s : State) (n key : Nat) : (s.dropGuest n key).cells = s.cells := rfl

/-! ## Where a thread stands -/

/-- The thread stands at a site with the registers, the accesses and the pc of `u`. -/
def Stands (t : State) (n key : Nat) (u : Thread) (st : Site) : Prop :=
  ∃ v, t.thr? n key = some v ∧ v.site = st ∧ v.g = u.g ∧ v.st = u.st ∧ v.full = u.full ∧ v.out = u.out ∧ v.pc = u.pc

/-- A thread set at a site, its rest as before. -/
theorem stands_of_thr? {t : State} {n key r a : Nat} {u : Thread} {st : Site} {w : Wait}
    (h : t.thr? n key = some { u with site := st, refusals := r, wait := w, homeAt := a }) : Stands t n key u st :=
  ⟨_, h, rfl, rfl, rfl, rfl, rfl, rfl⟩

theorem Thread.mayLeave_iff (u : Thread) : u.mayLeave = true ↔ u.posted = [] ∧ ∀ p ∈ u.out.dropLast, p.perf.isSome = true := by
  simp [Thread.mayLeave]

/-! ## A context takes a slot or joins the queue (R37) -/

/-- What a context that takes a slot leaves: it stands on the core, which holds it last, and no memory changes. -/
theorem State.enterCore_spec {s : State} {k j n key : Nat} {u : Thread} (hu : s.thr? n key = some u) :
    let t := s.enterCore k j n key
    t.thr? n key = some { u with site := .dahlia k j, refusals := 0, wait := .none } ∧ MemSame s t ∧
      (t.coreOf k j).slots = ((s.coreOf k j).without n key).slots ++ [.own n key] ∧ (t.coreOf k j).queue = ((s.coreOf k j).without n key).queue := by
  obtain ⟨x, hx⟩ : ∃ x, x = (s.dropGuest n key).setCore k j
      { (s.dropGuest n key).coreOf k j with slots := ((s.dropGuest n key).coreOf k j).slots ++ [.own n key] } := ⟨_, rfl⟩
  have hxu : x.thrAt n key = u := State.thrAt_of_thr? ((State.thr?_of_cells (by rw [hx]; rfl) n key).trans hu)
  have hcore : x.coreOf k j = { (s.coreOf k j).without n key with slots := ((s.coreOf k j).without n key).slots ++ [.own n key] } := by
    rw [hx, State.coreOf_setCore_self, State.coreOf_dropGuest]
  have henter : s.enterCore k j n key =
      (x.setThrAt n key { u with site := .dahlia k j, refusals := 0, wait := .none }).traceCore 5 n key k j u.lastOut.2 := by
    rw [← hxu, hx]; rfl
  obtain ⟨y, hy⟩ : ∃ y, y = x.setThrAt n key { u with site := .dahlia k j, refusals := 0, wait := .none } := ⟨_, rfl⟩
  have hsent : OnlySent y (s.enterCore k j n key) := by rw [henter, hy]; exact State.traceCore_onlySent _ _ _ _ _ _ _
  have hmem : MemSame s x := hx ▸ memSame_of_fields rfl rfl rfl fun _ => rfl
  have hcore' : (s.enterCore k j n key).coreOf k j = x.coreOf k j := (State.coreOf_of_hbmStacks hsent.hbmStacks k j).trans (by rw [hy]; rfl)
  refine ⟨?_, memSame_trans hmem (memSame_trans (hy ▸ State.setThrAt_memSame x n key _) (memSame_of_onlySent hsent)), ?_, ?_⟩
  · rw [State.thr?_of_cells hsent.cells, hy, State.thr?_setThrAt_self]
  · rw [hcore', hcore]
  · rw [hcore', hcore]

theorem State.arriveCore_free {s : State} {k j : Nat} (n key : Nat) (h : (s.coreOf k j).slots.length < 16) :
    s.arriveCore k j n key = s.enterCore k j n key := if_pos h

theorem State.arriveCore_full {s : State} {k j : Nat} (n key : Nat) (h : 16 ≤ (s.coreOf k j).slots.length) (hq : 64 ≤ (s.coreOf k j).queue.length) :
    s.arriveCore k j n key = s.migRefused n key := by
  have h1 : ¬ (s.coreOf k j).slots.length < 16 := Nat.not_lt.2 h
  have h2 : ¬ (s.coreOf k j).queue.length < 64 := Nat.not_lt.2 hq
  simp only [State.arriveCore, h1, h2, if_false]

/-- A context that finds no slot free joins a queue that has room. -/
theorem State.arriveCore_queues {s : State} {k j n key : Nat} {u : Thread} (hu : s.thr? n key = some u) (h : 16 ≤ (s.coreOf k j).slots.length)
    (hq : (s.coreOf k j).queue.length < 64) : let t := s.arriveCore k j n key
    t.thr? n key = some { u with site := .queued k j, refusals := 0, wait := .none } ∧
      (t.coreOf k j).queue = ((s.coreOf k j).without n key).queue ++ [.own n key] := by
  have h1 : ¬ (s.coreOf k j).slots.length < 16 := Nat.not_lt.2 h
  obtain ⟨x, hx⟩ : ∃ x, x = (s.dropGuest n key).setCore k j
      { (s.dropGuest n key).coreOf k j with queue := ((s.dropGuest n key).coreOf k j).queue ++ [.own n key] } := ⟨_, rfl⟩
  have hxu : x.thrAt n key = u := State.thrAt_of_thr? ((State.thr?_of_cells (by rw [hx]; rfl) n key).trans hu)
  have harrive : s.arriveCore k j n key = x.setThrAt n key { u with site := .queued k j, refusals := 0, wait := .none } := by
    rw [← hxu, hx]
    simp only [State.arriveCore, h1, hq, if_false, if_true]
  refine ⟨by rw [harrive, State.thr?_setThrAt_self], ?_⟩
  rw [harrive, State.coreOf_setThrAt, hx, State.coreOf_setCore_self, State.coreOf_dropGuest]

/-! ## A stop, and a migration refused (R37, R253) -/

theorem State.leaveCore_cells (s : State) (n key : Nat) (addr : Word) : (s.leaveCore n key addr).cells = s.cells := by
  unfold State.leaveCore
  split
  · rfl
  · split
    · next st j i _ =>
      exact (State.traceAt_onlySent _ _ _ _ _ _).cells.trans (s.traceSite_onlySent 4 0 n key (st / 2) (dahliaSite st j) i addr).cells
    · rfl

/-- A thread that stops has a frame of the cause and stands at home. -/
theorem State.stopAt_thr? (s : State) (n key cause pcause : Nat) (faddr fpc resume : Word) (fi : Option Nat) (deferred : Bool) :
    ∃ v f, (s.stopAt n key cause pcause faddr fpc resume fi deferred).thr? n key = some v ∧ v.stop = some f ∧ f.cause = BitVec.ofNat 8 cause ∧
      v.site = .home := by
  have hcells : ∀ (y : State) (a : Word), (((y.withdraw n key).leaveCore n key a).traceAt 6 cause n key resume).cells = y.cells := fun y a =>
    (State.traceAt_onlySent _ _ _ _ _ _).cells.trans (State.leaveCore_cells _ _ _ _)
  unfold State.stopAt
  dsimp only
  rw [State.thr?_of_cells (hcells _ _), State.thr?_setThrAt_self]
  exact ⟨_, _, rfl, rfl, rfl, rfl⟩

/-- One refusal more, short of the sixteenth. -/
theorem State.migRefused_waits {s : State} {n key : Nat} {u : Thread} (hu : s.thr? n key = some u) (h : u.refusals < 15) :
    s.migRefused n key = s.setThrAt n key { u with refusals := u.refusals + 1, wait := .migRefused (u.refusals + 1) } := by
  have few : ¬ 16 ≤ u.refusals + 1 := by omega
  simp only [State.migRefused, State.thrAt_of_thr? hu, few, if_false]

/-- The sixteenth refusal raises MIGNAK at the access. -/
theorem State.migRefused_traps {s : State} {n key : Nat} {u : Thread} (hu : s.thr? n key = some u) (h : u.refusals = 15) (hout : u.out ≠ []) :
    ∃ v f, (s.migRefused n key).thr? n key = some v ∧ v.stop = some f ∧ f.cause.toNat = 11 ∧ v.site = .home := by
  obtain ⟨x, hx⟩ : ∃ x, x = (s.setThrAt n key { u with refusals := 16, wait := .migRefused 16 }).dropGuest n key := ⟨_, rfl⟩
  have hxt : x.thrAt n key = { u with refusals := 16, wait := .migRefused 16 } :=
    State.thrAt_of_thr? (by rw [hx, State.thr?_of_cells (State.dropGuest_cells _ _ _), State.thr?_setThrAt_self])
  have hrefused : s.migRefused n key = x.lateTrap n key u.lastOut.1 cMIGNAK 0 := by
    simp only [State.migRefused, State.thrAt_of_thr? hu, h, hx]
    rfl
  have hlast : u.out[u.lastOut.1]? = some (u.out.getLast hout) := by
    rw [Thread.lastOut, ← List.getLast?_eq_getElem?, List.getLast?_eq_some_getLast hout]
  rw [hrefused]
  simp only [State.lateTrap, hxt, hlast]
  obtain ⟨v, f, hv, hstop, hcause, hsite⟩ := State.stopAt_thr? (x.setThrAt n key { u with
      refusals := 16, wait := .migRefused 16, out := u.out.set u.lastOut.1 { u.out.getLast hout with late := some (cMIGNAK, 0) } })
    n key cMIGNAK 0 (u.out.getLast hout).faddr (u.out.getLast hout).pc u.pc (some u.lastOut.1) false
  exact ⟨v, f, hv, hstop, by rw [hcause]; rfl, hsite⟩

/-! ## Departure (R37, R186) -/

section
variable {s : State} {n key k j : Nat} {u : Thread} (hu : s.thr? n key = some u) (hw : u.wait = .none) (hs : u.site = .departing k j)
include hu hw hs

/-- A departing thread that may leave arrives at its core; before it only its trace is written. -/
theorem State.depart_arrives (hk : k < 16) (hm : u.mayLeave = true) : ∃ x, OnlySent s x ∧ s.depart n key = x.arriveCore k j n key := by
  refine ⟨if u.refusals = 0 then s.traceDepart n key else s, ?_, ?_⟩
  · split
    · exact s.traceDepart_onlySent n key
    · exact onlySent_refl s
  · have near : k < 1000 := by omega
    simp only [State.depart, State.thrAt_of_thr? hu, hs, hw, hm, near, Bool.not_true, Bool.false_eq_true, if_false, if_true]

/-- One that has left something behind stays (log 39). -/
theorem State.depart_stays (hm : u.mayLeave = false) : s.depart n key = s := by
  simp only [State.depart, State.thrAt_of_thr? hu, hs, hw, hm, Bool.not_false, if_true]

/-- It takes a free slot. -/
theorem State.depart_takes (hk : k < 16) (hm : u.mayLeave = true) (hclean : .own n key ∉ (s.coreOf k j).slots)
    (hfree : (s.coreOf k j).slots.length < 16) : let t := s.depart n key
    Stands t n key u (.dahlia k j) ∧ MemSame s t ∧ (t.coreOf k j).slots = (s.coreOf k j).slots ++ [.own n key] := by
  obtain ⟨x, hx, hdepart⟩ := State.depart_arrives hu hw hs hk hm
  have hcore := State.coreOf_of_hbmStacks hx.hbmStacks k j
  obtain ⟨hthr, hmem, hslots, -⟩ := State.enterCore_spec (k := k) (j := j) ((State.thr?_of_cells hx.cells n key).trans hu)
  rw [hdepart, State.arriveCore_free n key (by rw [hcore]; exact hfree)]
  refine ⟨stands_of_thr? hthr, memSame_trans (memSame_of_onlySent hx) hmem, ?_⟩
  rw [hslots, hcore, Dahlia.slots_without hclean]

/-- It joins the queue of a full core. -/
theorem State.depart_queues (hk : k < 16) (hm : u.mayLeave = true) (hclean : .own n key ∉ (s.coreOf k j).queue)
    (hfull : 16 ≤ (s.coreOf k j).slots.length) (hroom : (s.coreOf k j).queue.length < 64) : let t := s.depart n key
    Stands t n key u (.queued k j) ∧ (t.coreOf k j).queue = (s.coreOf k j).queue ++ [.own n key] := by
  obtain ⟨x, hx, hdepart⟩ := State.depart_arrives hu hw hs hk hm
  have hcore := State.coreOf_of_hbmStacks hx.hbmStacks k j
  rw [← hcore] at hfull hroom
  obtain ⟨hthr, hqueue⟩ := State.arriveCore_queues ((State.thr?_of_cells hx.cells n key).trans hu) hfull hroom
  rw [hdepart]
  refine ⟨stands_of_thr? hthr, ?_⟩
  rw [hqueue, hcore, Dahlia.queue_without hclean]

/-- It is refused where the queue is full too. -/
theorem State.depart_refused (hk : k < 16) (hm : u.mayLeave = true) (hfull : 16 ≤ (s.coreOf k j).slots.length)
    (hqueue : 64 ≤ (s.coreOf k j).queue.length) : ∃ x : State, x.thr? n key = some u ∧ s.depart n key = x.migRefused n key := by
  obtain ⟨x, hx, hdepart⟩ := State.depart_arrives hu hw hs hk hm
  rw [← State.coreOf_of_hbmStacks hx.hbmStacks k j] at hfull hqueue
  exact ⟨x, (State.thr?_of_cells hx.cells n key).trans hu, hdepart.trans (State.arriveCore_full n key hfull hqueue)⟩

end

/-- A refused migration is tried again from the state in which the thread waits for nothing. -/
theorem exec_migrationRetry {s : State} {n key c : Nat} {u : Thread} (hu : s.thr? n key = some u) (hw : u.wait = .migRefused c) :
    exec (.migrationRetry n key) s = .next ((s.setThrAt n key { u with wait := .none }).depart n key) := by
  show execMigrationRetry n key s = _
  simp only [execMigrationRetry, State.thrAt_of_thr? hu, hw]

/-! ## Leaving a core (R185 to R187) -/

theorem State.applyFills_none {s : State} {n : Nat} (key : Nat) (h : (s.cellAt n).fills = []) : s.applyFills n key = s := by
  simp [State.applyFills, h]

theorem State.fills_setThrAt (s : State) (n key : Nat) (u : Thread) : ((s.setThrAt n key u).cellAt n).fills = (s.cellAt n).fills := by
  rw [State.setThrAt, State.cellAt_setThrOpt, if_pos rfl]

/-- A packet home leaves cells and stacks alone. -/
theorem State.tellHome_onlySent (s : State) (n key kind len cause : Nat) (ctx : LightCtx) : OnlySent s (s.tellHome n key kind len cause ctx) :=
  s.emit_onlySent _

/-- A context of this device goes home: it stands there, no core holds it, and no memory changes. -/
theorem State.goHome_near {s : State} {n key : Nat} {u : Thread} (hu : s.thr? n key = some u) (hfills : (s.cellAt n).fills = []) (hfar : u.far = none)
    (k j : Nat) : Stands (s.goHome n key) n key u .home ∧ MemSame s (s.goHome n key) ∧ .own n key ∉ ((s.goHome n key).coreOf k j).slots := by
  obtain ⟨x, hx⟩ : ∃ x, x = ((s.traceDepart n key).dropGuest n key).withdraw n key := ⟨_, rfl⟩
  have hsent := s.traceDepart_onlySent n key
  have hcells : x.cells = s.cells := by rw [hx]; exact hsent.cells
  have hxu : x.thrAt n key = u := State.thrAt_of_thr? ((State.thr?_of_cells hcells n key).trans hu)
  have hmem : MemSame s x := by
    refine memSame_trans (memSame_of_onlySent hsent) ?_
    rw [hx]
    exact memSame_of_fields rfl rfl rfl fun _ => rfl
  obtain ⟨y, hy⟩ : ∃ y, y = x.setThrAt n key { u with site := .home, refusals := 0, wait := .none, homeAt := s.cycle + 1 } := ⟨_, rfl⟩
  have hyfills : y.applyFills n key = y := State.applyFills_none key (by
    rw [hy, State.fills_setThrAt, State.cellAt, hcells]; exact hfills)
  have hgo : s.goHome n key = y.traceAt 5 0 n key u.lastOut.2 := by
    rw [← hyfills, hy]
    simp only [State.goHome, ← hx, hxu, hfar, Option.isSome_none, Bool.false_eq_true, if_false]
  have hlast : OnlySent y (s.goHome n key) := by rw [hgo]; exact y.traceAt_onlySent _ _ _ _ _
  refine ⟨stands_of_thr? (by rw [State.thr?_of_cells hlast.cells, hy, State.thr?_setThrAt_self]),
    memSame_trans hmem (memSame_trans (hy ▸ x.setThrAt_memSame n key _) (memSame_of_onlySent hlast)), ?_⟩
  rw [State.coreOf_of_hbmStacks hlast.hbmStacks, hy, State.coreOf_setThrAt, hx, State.coreOf_withdraw, State.coreOf_dropGuest]
  exact Dahlia.not_mem_slots_without _ _ _

/-- A context of another device goes there: no thread of it is left here, and no core holds it. -/
theorem State.goHome_far {s : State} {n key : Nat} {u : Thread} (hu : s.thr? n key = some u) (hfar : u.far ≠ none) (k j : Nat) :
    (s.goHome n key).thr? n key = none ∧ .own n key ∉ ((s.goHome n key).coreOf k j).slots := by
  obtain ⟨x, hx⟩ : ∃ x, x = ((s.traceDepart n key).dropGuest n key).withdraw n key := ⟨_, rfl⟩
  have hxu : x.thrAt n key = u := State.thrAt_of_thr? ((State.thr?_of_cells (by rw [hx]; exact (s.traceDepart_onlySent n key).cells) n key).trans hu)
  have hgo : s.goHome n key = x.farHome n key 0 (u.ctx u.pc) := by
    simp only [State.goHome, ← hx, hxu, Option.isSome_iff_ne_none.2 hfar, if_true]
  rw [hgo, State.farHome]
  refine ⟨?_, ?_⟩
  · rw [State.thr?_of_cells (State.dropGuest_cells _ _ _), State.thr_setThrOpt, if_pos ⟨rfl, rfl⟩]
  · rw [State.coreOf_dropGuest]
    exact Dahlia.not_mem_slots_without _ _ _

/-- A thread that lingers goes home once another context waits for the core and it has left nothing behind. -/
theorem exec_lingerReturn_goes {s : State} {n key k j : Nat} {u : Thread} (hu : s.thr? n key = some u) (hs : u.site = .dahlia k j)
    (hq : (s.coreOf k j).queue ≠ []) (hp : u.posted = []) (hout : ∀ p ∈ u.out, p.perf.isSome = true) :
    exec (.lingerReturn n key) s = .next (s.goHome n key) := by
  show execLingerReturn n key s = _
  have hall : u.out.all (fun p => p.perf.isSome) = true := List.all_eq_true.2 hout
  simp [execLingerReturn, State.thrAt_of_thr? hu, hs, hq, hp, hall]

theorem exec_lingerReturn_stays {s : State} {n key k j : Nat} {u : Thread} (hu : s.thr? n key = some u) (hs : u.site = .dahlia k j)
    (hq : (s.coreOf k j).queue = []) : exec (.lingerReturn n key) s = .next s := by
  show execLingerReturn n key s = _
  simp [execLingerReturn, State.thrAt_of_thr? hu, hs, hq]

/-- R37: the context that has queued longest takes a free slot. -/
theorem dahliaAdmit_completes {s : State} {n key k j : Nat} {u : Thread} {r : List Guest} (hu : s.thr? n key = some u)
    (hfree : (s.coreOf k j).slots.length < 16) (hq : (s.coreOf k j).queue = .own n key :: r) (hr : .own n key ∉ r)
    (hslots : .own n key ∉ (s.coreOf k j).slots) : Completes (.dahliaAdmit k j) s fun t => Stands t n key u (.dahlia k j) ∧
      (t.coreOf k j).queue = r ∧ (t.coreOf k j).slots = (s.coreOf k j).slots ++ [.own n key] := by
  have hcore := s.coreOf_setCore_self k j { s.coreOf k j with queue := r }
  obtain ⟨hthr, -, hslots', hqueue'⟩ := State.enterCore_spec (s := s.setCore k j { s.coreOf k j with queue := r }) (k := k) (j := j) (u := u) hu
  refine ⟨(s.setCore k j { s.coreOf k j with queue := r }).enterCore k j n key, ?_, stands_of_thr? hthr, ?_, ?_⟩
  · show execDahliaAdmit k j s = _
    simp [execDahliaAdmit, Nat.not_le.2 hfree, hq]
  · rw [hqueue', hcore]; exact Dahlia.queue_without hr
  · rw [hslots', hcore, Dahlia.slots_without (c := { s.coreOf k j with queue := r }) hslots]

/-! ## Contexts of other devices, and those that come home (R37, R186, R187) -/

theorem State.onArrival_of_arrives {s t : State} {kind : Nat} (h : Arrives s kind t) (f : State → State) : s.onArrival kind f = f t := by
  rcases h with ⟨hnone, rfl⟩ | ⟨p, hheld, haccept⟩
  · simp [State.onArrival, hnone]
  · simp [State.onArrival, hheld, haccept]

/-- Puts of different keys in turn: a key among them reads as its own put, another as before. -/
theorem tget_foldl_tput {α : Type} (d f : Nat → α) (l : List Nat) (g : List (Nat × α)) (r : Nat) :
    tget d (l.foldl (fun g i => tput g i (f i)) g) r = if r ∈ l then f r else tget d g r := by
  induction l generalizing g with
  | nil => simp
  | cons i l ih =>
    rw [List.foldl_cons, ih, tget_tput]
    by_cases later : r ∈ l
    · simp [later]
    · by_cases first : r = i <;> simp [later, first]

/-- The registers that a light context brings. -/
theorem Thread.withCtx_g (t : Thread) (c : LightCtx) (r : Nat) :
    tget (fun _ => 0#64) (t.withCtx c).g r = if r < 48 then c.g.getD r 0#64 else if r = 62 then c.lk else tget (fun _ => 0#64) t.g r := by
  rw [Thread.withCtx, tget_foldl_tput, tget_tput]
  simp

/-- What it brings beside its registers, and what it leaves. -/
theorem Thread.withCtx_rest (t : Thread) (c : LightCtx) : (t.withCtx c).pc = c.pc ∧ (t.withCtx c).st = c.st ∧ (t.withCtx c).site = t.site ∧
    (t.withCtx c).gid = t.gid ∧ (t.withCtx c).wait = t.wait := by
  simp only [Thread.withCtx, and_self]

/-- The full/empty bits that it brings. -/
theorem Thread.withCtx_full (t : Thread) (c : LightCtx) {r : Nat} (hr : r < 48) : (t.withCtx c).full.getLsbD r = c.full.getLsbD r := by
  have low : ∀ i, i < 48 → (0xFFFFFFFFFFFF#64).getLsbD i = true := by decide
  have h64 : r < 64 := by omega
  show ((t.full &&& ~~~0xFFFFFFFFFFFF#64) ||| c.full.setWidth 64).getLsbD r = _
  rw [BitVec.getLsbD_or, BitVec.getLsbD_and, BitVec.getLsbD_not, low r hr, BitVec.getLsbD_setWidth]
  simp [h64]

theorem State.regOf_low (s : State) (n : Nat) (t : Thread) {r : Nat} (hr : r < 48) : s.regOf n t r = tget (fun _ => 0#64) t.g r := if_pos hr

/-- The arrival of a context of another device, by the check of its access. -/
theorem exec_migrate_peer {s s1 s2 : State} {k j : Nat} {sdev : BitVec 11} {sdie : BitVec 3} {cid : BitVec 6} {slot : BitVec 4} {ctx : LightCtx}
    {acc : MigAcc} {desc : Desc} {r : Except Nat (Nat × Nat)} (hstall : s.peerStall desc = false) (ha : Arrives s 0x30 s1)
    (hc : s1.peerCheck desc sdev.toNat desc.offset.toNat (descN desc) (accNeed acc) = (s2, r)) :
    let n := farCell sdev.toNat sdie.toNat
    let key := 16 * cid.toNat + slot.toNat
    exec (.migrate k j (.peer sdev sdie cid slot ctx acc desc)) s = .next (match r with
      | .error c => s2.tellHome n key 0x31 8 c ctx
      | .ok (q, _) =>
        if 16 ≤ (s2.coreOf k j).slots.length ∧ 64 ≤ (s2.coreOf k j).queue.length then s2.tellHome n key 0x32 1 0 ctx
        else (s2.setThrAt n key (farThread ctx desc q (k / 2) k j)).arriveCore k j n key) := by
  intro n key
  show execMigrate k j (.peer sdev sdie cid slot ctx acc desc) s = _
  simp only [execMigrate, hstall, Bool.false_eq_true, if_false, State.onArrival_of_arrives ha, hc]
  cases r <;> rfl

theorem farThread_g (ctx : LightCtx) (desc : Desc) (q d k j : Nat) : (farThread ctx desc q d k j).g = (Thread.init.withCtx ctx).g := by
  simp only [farThread]

/-- A context of another device whose access passes takes a free slot. -/
theorem State.arriveCore_far {s : State} {k j n key q d : Nat} (ctx : LightCtx) (desc : Desc) (hfree : (s.coreOf k j).slots.length < 16)
    (hslots : .own n key ∉ (s.coreOf k j).slots) : let t := (s.setThrAt n key (farThread ctx desc q d k j)).arriveCore k j n key
    (t.coreOf k j).slots = (s.coreOf k j).slots ++ [.own n key] ∧ ∃ v, t.thr? n key = some v ∧ v.site = .dahlia k j ∧ v.far = some desc ∧ v.part = q ∧
      v.pc = ctx.pc ∧ v.gid = ctx.gid ∧ ∀ i, i < 48 → t.regOf n v i = ctx.g.getD i 0#64 := by
  obtain ⟨hthr, -, hcore, -⟩ := State.enterCore_spec (k := k) (j := j) (s.thr?_setThrAt_self n key (farThread ctx desc q d k j))
  intro t
  have ht : t = _ := State.arriveCore_free n key (s := s.setThrAt n key (farThread ctx desc q d k j)) hfree
  rw [ht]
  refine ⟨?_, _, hthr, rfl, rfl, rfl, rfl, rfl, fun i hi => ?_⟩
  · rw [hcore, State.coreOf_setThrAt, Dahlia.slots_without hslots]
  · rw [State.regOf_low _ _ _ hi]
    rw [farThread_g, Thread.withCtx_g, if_pos hi]

/-- A stop that waits for no lane does not go on. -/
theorem State.dstopOn_idle {s : State} {q : Nat} (h : s.fld 11 0 (0x100 * q + 0x30) 8 1 = 0) : s.dstopOn q = s := by
  simp [State.dstopOn, h]

/-- R186: a context comes home from another device with its registers. -/
theorem mighome_completes {s s1 : State} {n key dv : Nat} {u : Thread} (ctx : LightCtx) (ha : Arrives s 0x31 s1) (hu : s1.thr? n key = some u)
    (hs : u.site = .peer dv) (hout : u.out = []) (hfills : (s1.cellAt n).fills = []) (hstop : s1.fld 11 0 (0x100 * u.part + 0x30) 8 1 = 0) :
    Completes (.mighome n key ctx 0) s fun t => ∃ v, t.thr? n key = some v ∧ v.site = .home ∧ v.pc = ctx.pc ∧ v.st = ctx.st ∧ v.gid = u.gid ∧
      v.wait = .none ∧ (∀ r, r < 48 → t.regOf n v r = ctx.g.getD r 0#64) ∧ t.regOf n v 62 = ctx.lk ∧
      ∀ r, r < 48 → v.full.getLsbD r = ctx.full.getLsbD r := by
  obtain ⟨v, hv⟩ : ∃ v : Thread, v = { u with site := .home, refusals := 0, wait := .none, homeAt := s1.cycle + 1 } := ⟨_, rfl⟩
  obtain ⟨w, hw⟩ : ∃ w, w = v.withCtx ctx := ⟨_, rfl⟩
  obtain ⟨x, hx⟩ : ∃ x : Thread, x = { w with out := [] } := ⟨_, rfl⟩
  obtain ⟨y, hy⟩ : ∃ y, y = ((s1.dropGuest n key).setThrAt n key v).setThrAt n key x := ⟨_, rfl⟩
  have hyfills : y.applyFills n key = y := State.applyFills_none key (by rw [hy, State.fills_setThrAt, State.fills_setThrAt]; exact hfills)
  obtain ⟨l, htrace⟩ := y.traceSite_eq 5 0 n key (n / 64) (n % 64) (key % 16) u.lastOut.2
  have hidle : ({ y with trace := l } : State).dstopOn u.part = { y with trace := l } := State.dstopOn_idle (by rw [hy]; exact hstop)
  have hexec : exec (.mighome n key ctx 0) s = .next { y with trace := l } := by
    show execMighome n key ctx 0 s = _
    simp only [execMighome, State.onArrival_of_arrives ha, State.thrAt_of_thr? hu, hs, ← hv, State.thrAt_setThrAt_self, ← hw]
    simp only [hout, List.filter_nil, ← hx, ← hy, ne_eq, not_true_eq_false, if_false, hyfills, State.traceAt, htrace, hidle]
  have hthr : ({ y with trace := l } : State).thr? n key = some x :=
    (State.thr?_of_cells (s := y) rfl n key).trans (by rw [hy, State.thr?_setThrAt_self])
  have hg : ∀ r, tget (fun _ => 0#64) x.g r = if r < 48 then ctx.g.getD r 0#64 else if r = 62 then ctx.lk else tget (fun _ => 0#64) v.g r := fun r => by
    rw [hx, ← v.withCtx_g ctx r, ← hw]
  obtain ⟨hpc, hst, hsite, hgid, hwait⟩ := v.withCtx_rest ctx
  rw [← hw] at hpc hst hsite hgid hwait
  refine ⟨_, hexec, x, hthr, ?_, by rw [hx, hpc], by rw [hx, hst], ?_, ?_, fun r hr => ?_, hg 62, fun r hr => ?_⟩
  · rw [hx, hsite, hv]
  · rw [hx, hgid, hv]
  · rw [hx, hwait, hv]
  · rw [State.regOf_low _ _ _ hr, hg, if_pos hr]
  · rw [hx, ← v.withCtx_full ctx hr, ← hw]

/-- R37: a migration to another device is refused, short of the sixteenth time. -/
theorem mignak_completes {s s1 : State} {n key dv : Nat} {u : Thread} (ha : Arrives s 0x32 s1) (hu : s1.thr? n key = some u) (hs : u.site = .peer dv)
    (hr : u.refusals < 15) (hstop : s1.fld 11 0 (0x100 * u.part + 0x30) 8 1 = 0) : Completes (.mignak n key) s fun t =>
      ∃ v, t.thr? n key = some v ∧ v.site = .departing (1000 + dv) 0 ∧ v.refusals = u.refusals + 1 ∧ v.wait = .migRefused (u.refusals + 1) ∧ v.g = u.g := by
  obtain ⟨v, hv⟩ : ∃ v : Thread, v = { u with site := .departing (1000 + dv) 0 } := ⟨_, rfl⟩
  have hrefused := State.migRefused_waits (s1.thr?_setThrAt_self n key v) (by rw [hv]; exact hr)
  have hexec : exec (.mignak n key) s = .next ((s1.setThrAt n key v).migRefused n key) := by
    show execMignak n key s = _
    simp only [execMignak, State.onArrival_of_arrives ha, State.thrAt_of_thr? hu, hs, ← hv, hrefused]
    exact congrArg _ (State.dstopOn_idle hstop)
  refine ⟨_, hexec, { v with refusals := v.refusals + 1, wait := .migRefused (v.refusals + 1) }, ?_, ?_⟩
  · rw [hrefused, State.thr?_setThrAt_self]
  · subst hv
    exact ⟨rfl, rfl, rfl, rfl⟩

/-- Settles O46, event by event. -/
theorem migrationEvents : Obligations.MigrationEvents := by
  unfold Obligations.MigrationEvents
  intro s n key k j u ctx hu hk core ready now clean takes
  have mayLeave : ready → u.mayLeave = true := fun h => u.mayLeave_iff.2 h.2
  have slotsClean : clean → .own n key ∉ core.slots := fun h e => h.1 k (List.mem_append_left _ e)
  have queueClean : clean → .own n key ∉ core.queue := fun h e => h.1 k (List.mem_append_right _ e)
  refine ⟨fun hw => ⟨?_, ?_⟩, fun c hw hclean hready hfree => ?_, fun hw hclean hready hfull hroom => ?_, fun hw hclean hready hfull hqueue hr => ?_,
    fun hw hclean hready hfull hqueue hr hout => ?_, fun hw hready hs => ?_, ?_, ?_, exec_lingerReturn_stays hu, ?_, ?_, ?_, ?_⟩
  · exact fun hclean hready hfree => ⟨_, rfl, State.depart_takes hu hw hready.1 hk (mayLeave hready) (slotsClean hclean) hfree⟩
  · exact fun hclean hready hfree => ⟨_, rfl, State.depart_takes hu hw hready.1 hk (mayLeave hready) (slotsClean hclean) hfree⟩
  · obtain ⟨hstands, hmem, hslots⟩ := State.depart_takes (u := { u with wait := .none }) (s.thr?_setThrAt_self n key _) rfl hready.1 hk
      (mayLeave hready) (slotsClean hclean) hfree
    exact ⟨_, exec_migrationRetry hu hw, hstands, memSame_trans (s.setThrAt_memSame n key _) hmem, hslots⟩
  · exact ⟨_, rfl, State.depart_queues hu hw hready.1 hk (mayLeave hready) (queueClean hclean) hfull hroom⟩
  · obtain ⟨x, hx, hdepart⟩ := State.depart_refused hu hw hready.1 hk (mayLeave hready) hfull hqueue
    have hthr := x.thr?_setThrAt_self n key { u with refusals := u.refusals + 1, wait := .migRefused (u.refusals + 1) }
    rw [← State.migRefused_waits hx hr, ← hdepart] at hthr
    exact ⟨_, rfl, ⟨_, hthr, hready.1, rfl, rfl, rfl, rfl, rfl⟩, _, hthr, rfl, rfl⟩
  · obtain ⟨x, hx, hdepart⟩ := State.depart_refused hu hw hready.1 hk (mayLeave hready) hfull hqueue
    refine ⟨_, rfl, ?_⟩
    rw [hdepart]
    exact State.migRefused_traps hx hr hout
  · have hm : u.mayLeave = false := Bool.eq_false_iff.2 fun h => hready ⟨hs, u.mayLeave_iff.1 h⟩
    exact congrArg _ (State.depart_stays hu hw hs hm)
  · exact fun hs hq hp hout hfills _ hfar => ⟨_, exec_lingerReturn_goes hu hs hq hp hout, State.goHome_near hu hfills hfar k j⟩
  · exact fun hs hq hp hout hfar => ⟨_, exec_lingerReturn_goes hu hs hq hp hout, State.goHome_far hu hfar k j⟩
  · exact fun r hfree hq hr hslots _ => dahliaAdmit_completes hu hfree hq hr hslots
  · intro sdev sdie cid slot acc desc s1 s2 r hstall ha hcheck c fn fk brings
    have hneed : s1.peerCheck desc sdev.toNat desc.offset.toNat (descN desc) (accNeed acc) = (s2, r) := by cases acc <;> exact hcheck
    have hexec := exec_migrate_peer (k := k) (j := j) (sdie := sdie) (cid := cid) (slot := slot) (ctx := ctx) hstall ha hneed
    refine ⟨?_, ?_, ?_⟩
    · rintro e rfl
      have hsent := s2.tellHome_onlySent (farCell sdev.toNat sdie.toNat) (16 * cid.toNat + slot.toNat) 0x31 8 e ctx
      exact ⟨_, hexec, hsent.cells, hsent.hbmStacks⟩
    · rintro q h rfl hfull hqueue
      have hsent := s2.tellHome_onlySent (farCell sdev.toNat sdie.toNat) (16 * cid.toNat + slot.toNat) 0x32 1 0 ctx
      exact ⟨_, hexec.trans (congrArg _ (if_pos ⟨hfull, hqueue⟩)), hsent.cells, hsent.hbmStacks⟩
    · rintro q h rfl hfree hslots
      exact ⟨_, hexec.trans (congrArg _ (if_neg fun full => Nat.not_le.2 hfree full.1)), State.arriveCore_far ctx desc hfree hslots⟩
  · exact fun dv s1 ha hu1 hs hout hfills hstop => mighome_completes ctx ha hu1 hs hout hfills hstop
  · exact fun dv s1 ha hu1 hs hr hstop => mignak_completes ha hu1 hs hr hstop

end Sys2Proof.Machine
end
